-- ==== Sys2Proof/Word.lean ====
section
/-! DEFINITION. The word types of the model: bytes and register words of 32 and 64 bits. -/

namespace Sys2Proof

/-- A byte of a memory, a packet or an image. -/
abbrev Byte := BitVec 8
/-- The value of a 32-bit register or access (R11). -/
abbrev W32 := BitVec 32
/-- The value of a 64-bit register or access (R11). -/
abbrev W64 := BitVec 64
/-- A run of bytes, the byte of the lowest address first (R66). -/
abbrev Bytes := List Byte

/-- A finite map from keys to values, kept as a list of pairs with strictly rising keys. -/
abbrev FMap (α : Type) := List (Nat × α)

end Sys2Proof
end

