-- ==== Sys2Proof/Syntax.lean ====
section
/-! DEFINITION. The commands of the block: one constructor per row of the spec's table of operations and
events, with the row's operands. Each row is one step of the part, whole and indivisible. -/

namespace Sys2Proof

/-- What a read of host memory brought: the bytes, or nothing where the read completed unsuccessfully or with
poisoned data. Host memory lies outside the device, so the data comes with the command. -/
abbrev HostData := Option Bytes

/-- The eight die sensors' readings in °C (R450), in sensor order. -/
abbrev Temps := List Int

/-- The commands. Stations, bays, units, queues, ports and rings are named by their logical numbers (R5), ports
of the link layer by their physical numbers. -/
inductive Instr where
  /-- NEGOTIATE (R351). Host command that chooses the highest interface version shared with the host's range and holds it in CO_IF_VERSION. -/
  | negotiate (ring : Nat)
  /-- IDENTIFY (R350). Host command that writes the 128-byte identify record and returns the enabled stations and the stepping. -/
  | identify (ring : Nat)
  /-- LOAD_FIRMWARE (R407). Host command, taken by the boot ROM, that verifies a firmware image and starts the firmware if it passes. -/
  | loadFirmware (ring : Nat) (image : HostData)
  /-- LOAD_CONSIST (R296). Host command that reads an image in two passes, runs the interlocking checks and makes the consist resident. -/
  | loadConsist (ring : Nat) (image : HostData) (pass2 : HostData) (patch : HostData)
  /-- LOAD_PARTIAL (R302). Host command that replaces one region of a resident consist's golden copy, or marks that region's standby plane invalid on refusal. -/
  | loadPartial (ring : Nat) (image : HostData)
  /-- UNLOAD_CONSIST (R300). Host command that removes a consist's queued jobs and frees its resident index, depot space, token slots and counters. -/
  | unloadConsist (ring : Nat)
  /-- SET_TIMETABLE (R320). Host command that checks a timetable image and makes it the pending table. -/
  | setTimetable (ring : Nat) (image : HostData)
  /-- SUBMIT_JOB (R355). Host command that reads the argument block, assigns a job handle and sequence number, and queues the job. -/
  | submitJob (ring : Nat) (args : HostData)
  /-- CANCEL_JOB (R387). Host command that removes, ends or discards a job according to the job's state. -/
  | cancelJob (ring : Nat)
  /-- RELEASE_RESULT (R360). Host command that frees a job handle whose job has ended, or answers STALE or NOT_READY. -/
  | releaseResult (ring : Nat)
  /-- DUMP_TOKENS (R219). Host command that writes one 32-byte record per token slot of the named stations to host memory. -/
  | dumpTokens (ring : Nat)
  /-- READ_COUNTERS (R353). Host command that reads a list of BAR0 offsets in order and writes the values to host memory. -/
  | readCounters (ring : Nat) (offsets : HostData)
  /-- START_MAINTENANCE (R393). Host command that starts a maintenance activity unless the exclusion matrix refuses it. -/
  | startMaintenance (ring : Nat)
  /-- STOP_MAINTENANCE (R394). Host command that stops a scrub at its cursor and has no effect on a retrain. -/
  | stopMaintenance (ring : Nat)
  /-- SAMPLE_SCRATCHPAD (R399). Host command that copies a window of every bay of the named stations into DDR with unscheduled reads. -/
  | sampleScratchpad (ring : Nat)
  /-- RESET_DOMAIN (R379). Host command that replies and then resets a station, DDR channel group, Ermus port, Control Office or PCIe domain. -/
  | resetDomain (ring : Nat)
  /-- PORT_CLOSE (R285). Host command that stops a port taking new packets and drains it within a limit. -/
  | portClose (ring : Nat)
  /-- PORT_OPEN (R262). Host command that brings a logical port up through training and IDENT, optionally substituting a spare. -/
  | portOpen (ring : Nat)
  /-- ATTEST (R415). Host command that measures the device in one step and writes a signed attestation report. -/
  | attest (ring : Nat) (nonce : HostData)
  /-- LIFECYCLE_ADVANCE (R419). Host command that verifies an authorisation record, blows the next life-cycle step, resets and wipes the device. -/
  | lifecycleAdvance (ring : Nat) (record : HostData)
  /-- WIPE (R381). Host command that writes zero with valid codes over a DDR range or all DDR space outside the depot area. -/
  | wipe (ring : Nat)
  /-- COMMAND_FETCH (R347). The Control Office fetches the next pending command of a ring in round-robin order and starts it. -/
  | commandFetch (ring : Nat) (packet : HostData)
  /-- DOORBELL_WRITE (R346). A write to CO_DBr sets the ring's TAIL, or stops the ring with cause TAIL, or is discarded. -/
  | doorbellWrite (ring : Nat) (value : W32)
  /-- RING_CTRL_WRITE (R345). A write to CO_RINGr_CTRL that enables a ring, resetting HEAD, TAIL and phase, or changes its vector. -/
  | ringCtrlWrite (ring : Nat) (value : W32)
  /-- EVQ_CTRL_WRITE (R364). A write to CO_EVQ_CTRL that enables the event ring, sets SIZE_ERR, or changes its vector. -/
  | evqCtrlWrite (value : W32)
  /-- EVQ_HEAD_WRITE (R364). A write to CO_EVQ_HEAD accepted only if it does not pass unwritten records. -/
  | evqHeadWrite (value : W32)
  /-- FAULT_HEAD_WRITE (R364). A write to CO_FAULT_HEAD accepted only if it does not pass unwritten fault records. -/
  | faultHeadWrite (value : W32)
  /-- RELEASE (R299). A write of 1 to IL_CMD.RELEASE deasserts CFG_ERR_N, sets OUT_EN and releases held outputs. -/
  | release
  /-- BURN (R412). A write to SEC_CMD with BURN starts burning the staged key into an owner key slot. -/
  | burn (value : W32)
  /-- BURN_DONE (R412). A burn ends, the stored key is read back and compared, and BUSY clears. -/
  | burnDone
  /-- REVOKE (R412). A write to SEC_CMD with REVOKE blows the REVOKED fuse of an owner key slot. -/
  | revoke (value : W32)
  /-- TKO_VALUE_WRITE (R222). A host write to TKO_VALUEk sets an unassigned counter or is discarded for an assigned one. -/
  | tkoValueWrite (k : Nat) (value : W64)
  /-- CO_PWR_CAP_WRITE (R434). A write to CO_PWR_CAP sets the power limit or is discarded when out of range or below the admitted power. -/
  | coPwrCapWrite (value : W32)
  /-- EP_TOPOLOGY_WRITE (R287). A write to EP_DEVICE_ID, EP_TORUS or EP_DIM_MAP, discarded while any port is not CLOSED or FAILED. -/
  | epTopologyWrite (which : Nat) (value : W32)
  /-- SEC_BOOT_DEADLINE_WRITE (R406). A write to SEC_BOOT_DEADLINE that takes effect at once and may end the boot deadline in that cycle. -/
  | secBootDeadlineWrite (value : W32)
  /-- REGISTER_WRITE (R8). A host write to any register without a row of its own, under the access codes and the plane-discard rules. -/
  | registerWrite (bar : Nat) (offset : Nat) (size : Nat) (value : W64)
  /-- MU_CLR_SAT (R64). MU_CNT_CLEAR.CLR_SAT clears MU_SAT_COUNT. -/
  | muClrSat (st : Nat) (bay : Nat)
  /-- MU_CLR_CE (R64). MU_CNT_CLEAR.CLR_CE clears MU_ACC_CE_COUNT. -/
  | muClrCe (st : Nat) (bay : Nat)
  /-- VU_CLR_SAT (R84). VU_NUM_CLEAR.CLR_SAT clears VU_SAT_COUNT. -/
  | vuClrSat (st : Nat) (vu : Nat)
  /-- VU_CLR_NAN (R84). VU_NUM_CLEAR.CLR_NAN clears VU_NAN_COUNT. -/
  | vuClrNan (st : Nat) (vu : Nat)
  /-- VU_CLR_AMAX (R84). VU_NUM_CLEAR.CLR_AMAX sets VU_AMAX0 to VU_AMAX3 to +0. -/
  | vuClrAmax (st : Nat) (vu : Nat)
  /-- SLAB_CLR_CE (R135). BAY_SLAB_CNT_CLEAR.CLR_CE clears BAY_SLAB_CE_COUNT. -/
  | slabClrCe (st : Nat) (bay : Nat)
  /-- SLAB_CLR_UE (R135). BAY_SLAB_CNT_CLEAR.CLR_UE clears BAY_SLAB_UE_COUNT. -/
  | slabClrUe (st : Nat) (bay : Nat)
  /-- SLAB_CLR_CONF (R135). BAY_SLAB_CNT_CLEAR.CLR_CONF clears all sixteen bank conflict counters. -/
  | slabClrConf (st : Nat) (bay : Nat)
  /-- SLAB_CLR_UNSCHED (R135). BAY_SLAB_CNT_CLEAR.CLR_UNSCHED clears BAY_SLAB_UNSCHED. -/
  | slabClrUnsched (st : Nat) (bay : Nat)
  /-- PT_CLR_OVF (R166). BAY_SW_CNT_CLEAR.CLR_OVF clears BAY_PT_OVERFLOW. -/
  | ptClrOvf (st : Nat) (bay : Nat)
  /-- PT_CLR_BADTAG (R166). BAY_SW_CNT_CLEAR.CLR_BADTAG clears BAY_PT_BADTAG. -/
  | ptClrBadtag (st : Nat) (bay : Nat)
  /-- Q_CLR_LENERR (R201). Q_CNT_CLEAR.CLR_LENERR clears ST_Q_LENERR. -/
  | qClrLenerr (st : Nat)
  /-- Q_CLR_SAT (R201). Q_CNT_CLEAR.CLR_SAT clears ST_Q_SAT. -/
  | qClrSat (st : Nat)
  /-- Q_CLR_LEFTOVER (R201). Q_CNT_CLEAR.CLR_LEFTOVER clears ST_Q_LEFTOVER. -/
  | qClrLeftover (st : Nat)
  /-- Q_CLR_REFUSED (R201). Q_CNT_CLEAR.CLR_REFUSED clears ST_Q_REFUSED. -/
  | qClrRefused (st : Nat)
  /-- Q_CLR_QSEL (R201). Q_CNT_CLEAR.CLR_QSEL clears Q_SPILLS and Q_BALANCE of the selected queue. -/
  | qClrQsel (st : Nat)
  /-- TK_CLR_LOST (R221). TK_CNT_CLEAR.CLR_LOST clears TK_SIG_LOST. -/
  | tkClrLost (st : Nat)
  /-- TKO_CLR_PLAIN (R221). TKO_CNT_CLEAR.CLR_PLAIN clears TKO_PLAIN_ST. -/
  | tkoClrPlain
  /-- ME_CLR_MERGED (R254). ST_ME_CNT_CLEAR.CLR_MERGED clears ST_MEe_MERGED of the engines named. -/
  | meClrMerged (st : Nat) (mask : Nat)
  /-- ME_CLR_RLS (R254). ST_ME_CNT_CLEAR.CLR_RLS clears ST_RLS_HITS and ST_RLS_MISSES. -/
  | meClrRls (st : Nat)
  /-- DM_CLR_CE (R254). DM_CNT_CLEAR.CLR_CE clears DM_CE_COUNT. -/
  | dmClrCe (ch : Nat)
  /-- DM_CLR_UE (R254). DM_CNT_CLEAR.CLR_UE clears DM_UE_COUNT. -/
  | dmClrUe (ch : Nat)
  /-- DM_CLR_TT (R254). DM_CNT_CLEAR.CLR_TT clears DM_TT_SLIP, DM_UNSCHED and DM_FORCED_REF. -/
  | dmClrTt (ch : Nat)
  /-- EP_CLR_TIMEOUTS (R286). EP_CNT_CLEAR.CLR_TIMEOUTS clears EP_TIMEOUTS. -/
  | epClrTimeouts
  /-- EP_CLR_LATE (R286). EP_CNT_CLEAR.CLR_LATE clears EP_LATE. -/
  | epClrLate
  /-- EP_CLR_TARGET (R286). EP_CNT_CLEAR.CLR_TARGET clears EP_TARGET_ERR. -/
  | epClrTarget
  /-- EP_CLR_ERR (R286). EP_PORT_CNT_CLEAR.CLR_ERR clears a port's FEC, CRC, replay and retrain counters. -/
  | epClrErr (port : Nat)
  /-- EP_CLR_DISCARD (R286). EP_PORT_CNT_CLEAR.CLR_DISCARD clears a port's EP_DISCARD. -/
  | epClrDiscard (port : Nat)
  /-- IL_CLR_REFUSALS (R314). IL_CNT_CLEAR.CLR_REFUSALS clears IL_REFUSALS. -/
  | ilClrRefusals
  /-- TT_CLR_STABLE (R338). TT_CNT_CLEAR.CLR_STABLE clears TT_STABLINGS and TT_RESTORES. -/
  | ttClrStable
  /-- TT_CLR_ABORT (R338). TT_CNT_CLEAR.CLR_ABORT clears TT_ABORTS. -/
  | ttClrAbort
  /-- TT_CLR_MISS (R338). TT_CNT_CLEAR.CLR_MISS clears TT_MISSES. -/
  | ttClrMiss
  /-- CO_CLR_BAR2 (R366). CO_HIF_CNT_CLEAR.CLR_BAR2 clears CO_BAR2_ERR. -/
  | coClrBar2
  /-- CO_CLR_EVLOST (R366). CO_HIF_CNT_CLEAR.CLR_EVLOST clears CO_EV_LOST. -/
  | coClrEvlost
  /-- GANG_CLR_REPAIRS (R402). CO_GANG_CNT_CLEAR.CLR_REPAIRS clears CO_GANG_REPAIRS. -/
  | gangClrRepairs
  /-- GANG_CLR_VOTES (R402). CO_GANG_CNT_CLEAR.CLR_VOTES clears CO_GANG_VOTES. -/
  | gangClrVotes
  /-- FAULT_CLR_LOST (R402). CO_FAULT_CNT_CLEAR.CLR_LOST clears CO_FAULT_LOST. -/
  | faultClrLost
  /-- FAULT_CLR_DRAIN (R402). CO_FAULT_CNT_CLEAR.CLR_DRAIN clears CO_DRAIN_FORCED. -/
  | faultClrDrain
  /-- CDC_CLR_OVERRUNS (R440). CO_CDC_CNT_CLEAR.CLR_OVERRUNS clears CO_CDC_OVERRUNS. -/
  | cdcClrOverruns
  /-- CDC_CLR_TIMEOUTS (R440). CO_CDC_CNT_CLEAR.CLR_TIMEOUTS clears CO_CDC_TIMEOUTS. -/
  | cdcClrTimeouts
  /-- BAR2_READ (R343). A host read through the BAR2 aperture, served as an unscheduled DDR request. -/
  | bar2Read (addr : Nat) (len : Nat)
  /-- BAR2_WRITE (R343). A host write through the BAR2 aperture, stored as an unscheduled DDR request or discarded. -/
  | bar2Write (addr : Nat) (data : Bytes)
  /-- PCIE_CONFIG_REQUEST (R403). A PCIe configuration request, answered from ROM whether or not firmware is loaded. -/
  | pcieConfigRequest (write : Bool) (reg : Nat) (value : W32)
  /-- NOP (R153). Signal-box instruction that does nothing. -/
  | sbNop (st : Nat)
  /-- END (R327). Signal-box instruction that ends the station's program and lets the signal box take up an armed standby plane. -/
  | sbEnd (st : Nat)
  /-- JMP (R153). Signal-box instruction that jumps to an immediate index. -/
  | sbJmp (st : Nat)
  /-- BNZ (R153). Signal-box instruction that branches when a register is nonzero. -/
  | sbBnz (st : Nat)
  /-- LOOP (R153). Signal-box instruction that decrements a register and branches while it is nonzero. -/
  | sbLoop (st : Nat)
  /-- LI (R153). Signal-box instruction that loads a sign-extended immediate. -/
  | sbLi (st : Nat)
  /-- LIH (R153). Signal-box instruction that loads the high 32 bits of a register. -/
  | sbLih (st : Nat)
  /-- ALU (R153). Signal-box integer operation selected by IMM[3:0]. -/
  | sbAlu (st : Nat)
  /-- FPU (R153). Signal-box floating-point operation selected by IMM[4:0], under IEEE 754-2019 rules. -/
  | sbFpu (st : Nat)
  /-- RECV (R153). Signal-box instruction that receives the next message of a scalar queue, waiting while it is empty. -/
  | sbRecv (st : Nat)
  /-- SEND (R153). Signal-box instruction that sends a one-word message to a queue. -/
  | sbSend (st : Nat)
  /-- CTL (R149). Signal-box instruction that sends a control item to a control queue. -/
  | sbCtl (st : Nat)
  /-- MUGO (R154). Signal-box instruction that starts a Matrix Unit at a descriptor, or records or waits for its pending start. -/
  | sbMugo (st : Nat)
  /-- VUGO (R154). Signal-box instruction that starts a vector unit at an instruction, or records or waits for its pending start. -/
  | sbVugo (st : Nat)
  /-- JOIN (R154). Signal-box instruction that waits until an MU or vector unit is idle with no pending start. -/
  | sbJoin (st : Nat)
  /-- SIG (R208). Signal-box instruction that sends an increment to a token's producer count. -/
  | sbSig (st : Nat)
  /-- WAIT (R210). Signal-box instruction that waits on a token cursor by serial comparison and may consume. -/
  | sbWait (st : Nat)
  /-- FENCE (R211). Signal-box instruction that waits until every earlier write of the signal box and engines has taken effect. -/
  | sbFence (st : Nat)
  /-- TKRD (R208). Signal-box instruction that reads a token's PROD or a cursor into a register. -/
  | sbTkrd (st : Nat)
  /-- TICKET (R217). Signal-box instruction that sends an indivisible fetch-and-add request to a ticket-office counter. -/
  | sbTicket (st : Nat)
  /-- TKLD (R218). Signal-box instruction that reads a ticket-office counter as a plain load. -/
  | sbTkld (st : Nat)
  /-- TKST (R218). Signal-box instruction that writes a ticket-office counter as a plain store. -/
  | sbTkst (st : Nat)
  /-- MGO (R229). Signal-box instruction that starts a marshalling engine at a descriptor. -/
  | sbMgo (st : Nat)
  /-- MGOR (R229). Signal-box instruction that starts an engine with a register offset added to source or destination for this run. -/
  | sbMgor (st : Nat)
  /-- MJOIN (R230). Signal-box instruction that waits until an engine is idle with no pending start. -/
  | sbMjoin (st : Nat)
  /-- MSTAT (R229). Signal-box instruction that reads an engine's status into a register. -/
  | sbMstat (st : Nat)
  /-- RLD (R275). Signal-box remote load of 4 or 8 bytes from a global address. -/
  | sbRld (st : Nat)
  /-- RST (R275). Signal-box remote store of 4 or 8 bytes to a global address. -/
  | sbRst (st : Nat)
  /-- RSIG (R275). Signal-box remote signal that adds to a token's PROD on any device. -/
  | sbRsig (st : Nat)
  /-- RWAIT (R275). Signal-box remote wait on a token of another device. -/
  | sbRwait (st : Nat)
  /-- RTKT (R275). Signal-box remote ticket fetch from a counter of another device. -/
  | sbRtkt (st : Nat)
  /-- RMSG (R276). Signal-box instruction that sends the next message of a local queue to a remote queue or combine input. -/
  | sbRmsg (st : Nat)
  /-- RSTAT (R275). Signal-box instruction that reads ST_RMT_STATUS and may clear ERR. -/
  | sbRstat (st : Nat)
  /-- STOP (R330). Signal-box stopping point that passes on, or waits for stabling when stabling is due there. -/
  | sbStop (st : Nat)
  /-- MILEPOST (R373). Signal-box instruction that arms every tap of a milepost on its station. -/
  | sbMilepost (st : Nat)
  /-- UNIT_COMPLETION_SEEN (R154). A unit's or engine's completion reaches the signal box SB_DONE or ME_DONE cycles later and releases a JOIN or MJOIN. -/
  | unitCompletionSeen (st : Nat) (kind : Nat) (unit : Nat)
  /-- MU_START (R57). A start reaches a Matrix Unit, which runs its pass list from the given descriptor. -/
  | muStart (st : Nat) (bay : Nat)
  /-- WEIGHT_BLOCK_LOAD (R34). A weight block begins loading into the shadow plane once it is readable, through the decoder where selected. -/
  | weightBlockLoad (st : Nat) (bay : Nat)
  /-- ROW_ISSUE (R58). The MU issues one activation row, or stalls on an absent operand. -/
  | rowIssue (st : Nat) (bay : Nat)
  /-- ACCUMULATOR_UPDATE (R49). A tile's first row reaches the accumulator, the slot is checked, and group sums are added or an INIT waits. -/
  | accumulatorUpdate (st : Nat) (bay : Nat)
  /-- SLOT_DRAIN (R51). A finished slot drains one row per cycle to the finished-tile queue or a queue, waiting while it is full. -/
  | slotDrain (st : Nat) (bay : Nat)
  /-- VU_START (R100). A start reaches a vector unit, which runs instructions in index order until END. -/
  | vuStart (st : Nat) (vu : Nat)
  /-- VU_NOP (R101). Vector-unit instruction that takes one issue cycle with no element. -/
  | vuNop (st : Nat) (vu : Nat)
  /-- COPY (R94). Vector-unit copy, the only operation that converts between FP32 and FP64. -/
  | vuCopy (st : Nat) (vu : Nat)
  /-- ADD (R94). Vector-unit element-wise addition. -/
  | vuAdd (st : Nat) (vu : Nat)
  /-- SUB (R94). Vector-unit element-wise subtraction. -/
  | vuSub (st : Nat) (vu : Nat)
  /-- MUL (R94). Vector-unit element-wise multiplication. -/
  | vuMul (st : Nat) (vu : Nat)
  /-- FMA (R94). Vector-unit fused multiply-add with one rounding. -/
  | vuFma (st : Nat) (vu : Nat)
  /-- MIN (R94). Vector-unit element-wise minimumNumber. -/
  | vuMin (st : Nat) (vu : Nat)
  /-- MAX (R94). Vector-unit element-wise maximumNumber. -/
  | vuMax (st : Nat) (vu : Nat)
  /-- ABS (R85). Vector-unit absolute value as a bit operation. -/
  | vuAbs (st : Nat) (vu : Nat)
  /-- NEG (R85). Vector-unit negation as a bit operation. -/
  | vuNeg (st : Nat) (vu : Nat)
  /-- CMPLT (R94). Vector-unit quiet less-than comparison writing 1.0 or +0. -/
  | vuCmplt (st : Nat) (vu : Nat)
  /-- SEL (R94). Vector-unit element-wise select on a nonzero third operand. -/
  | vuSel (st : Nat) (vu : Nat)
  /-- DIV (R94). Vector-unit division. -/
  | vuDiv (st : Nat) (vu : Nat)
  /-- SQRT (R94). Vector-unit square root. -/
  | vuSqrt (st : Nat) (vu : Nat)
  /-- RCP (R94). Vector-unit reciprocal computed as a division. -/
  | vuRcp (st : Nat) (vu : Nat)
  /-- RCPE (R95). Vector-unit reciprocal estimate within the bound of Table 4.4. -/
  | vuRcpe (st : Nat) (vu : Nat)
  /-- RSQE (R95). Vector-unit reciprocal square-root estimate within the bound of Table 4.4. -/
  | vuRsqe (st : Nat) (vu : Nat)
  /-- EXP (R95). Vector-unit exponential of a fused multiply-add. -/
  | vuExp (st : Nat) (vu : Nat)
  /-- LOG (R95). Vector-unit natural logarithm. -/
  | vuLog (st : Nat) (vu : Nat)
  /-- ROWSUM (R96). Vector-unit row sum in the fixed partial-sum and tree order. -/
  | vuRowsum (st : Nat) (vu : Nat)
  /-- ROWMAX (R96). Vector-unit row maximum. -/
  | vuRowmax (st : Nat) (vu : Nat)
  /-- ROWAMAX (R96). Vector-unit row maximum of absolute values. -/
  | vuRowamax (st : Nat) (vu : Nat)
  /-- CVT (R97). Vector-unit conversion of FP32 to a short format with a scale factor and running maximum. -/
  | vuCvt (st : Nat) (vu : Nat)
  /-- SCALESEL (R97). Vector-unit choice of a tensor scale or E8M0 code from a running maximum. -/
  | vuScalesel (st : Nat) (vu : Nat)
  /-- VU_RESULT_WRITE (R101). An issued element, row result or RED sum is written after its read, operation and write latencies, in instruction order. -/
  | vuResultWrite (st : Nat) (vu : Nat)
  /-- ELASTIC_RESULT_DUE (R310). In an elastic run a late result falls due under its declared latency and raises a stall request of cause operand. -/
  | elasticResultDue (st : Nat)
  /-- SLAB_ACCESS (R118). The slab port serves one request, by order of Table 5.3, through the bank rule and the word code. -/
  | slabAccess (st : Nat) (bay : Nat)
  /-- SLAB_SCRUB_READ (R125). The slab patrol scrub reads the next line of every slab and writes back corrected words. -/
  | slabScrubRead (st : Nat)
  /-- MESSAGE_OFFER (R173). A sender with a message ready sends an admission request, or holds it while four are outstanding. -/
  | messageOffer (st : Nat) (bay : Nat) (route : Nat)
  /-- ADMISSION_REQUEST (R176). An admission request reaches the home bay and is decided in order, or refused for a station-router sender. -/
  | admissionRequest (st : Nat) (q : Nat)
  /-- ADMISSION (R182). A queue admits a waiting message once it has room, writing any skip record and the message header. -/
  | admission (st : Nat) (q : Nat)
  /-- ADMISSION_GRANT (R173). A grant reaches the sender, whose message's first word then leaves in the next booked cycle. -/
  | admissionGrant (st : Nat) (bay : Nat) (route : Nat)
  /-- WORD_SEND (R141). A sender's word leaves in a booked wheel cycle of its route. -/
  | wordSend (st : Nat) (bay : Nat) (route : Nat)
  /-- WORD_ARRIVAL (R178). A message word arrives at its home bay and is stored in its place in the reserved room. -/
  | wordArrival (st : Nat) (q : Nat)
  /-- QUEUE_READ (R184). A receiver reads the record at the queue head, delivering a message or stepping over a skip record. -/
  | queueRead (st : Nat) (q : Nat)
  /-- POINTS_DECISION (R146). A points entry pairs its next control item with data and sends, discards or gathers an item. -/
  | pointsDecision (st : Nat) (bay : Nat) (entry : Nat)
  /-- EPOCH_END (R147). After EPOCH control items a points entry pads or discards items to CAP and resets its counts. -/
  | epochEnd (st : Nat) (bay : Nat) (entry : Nat)
  /-- COMBINATION (R186). Once every input's head message is complete and the sum is admitted, the combiner adds them in sender order. -/
  | combination (st : Nat) (q : Nat)
  /-- FREEZE_BEGIN (R158). WAVE_REQ cycles after a stall request, every unit of the consist freezes. -/
  | freezeBegin (job : Nat)
  /-- FREEZE_END (R158). The freeze ends at a multiple of 64 cycles after the last request clears and every unit resumes. -/
  | freezeEnd (job : Nat)
  /-- QUORUM_FIRE (R192). The stall-quorum detector reaches 4,096 quorum cycles and checks and spills the blocked queues. -/
  | quorumFire (job : Nat)
  /-- SPILL_DONE (R192). A queue's spill into its siding completes and the next spill, or the admission decisions, follow. -/
  | spillDone (job : Nat)
  /-- TOKEN_OP_ARRIVAL (R214). A SIG, WAIT or TKRD reaches its token and takes effect in the fixed order of the cycle. -/
  | tokenOpArrival (st : Nat) (slot : Nat)
  /-- WAITER_WAKE (R220). TK_WAKE cycles after a satisfied wait or TKRD read, the signal box resumes or writes its register. -/
  | waiterWake (st : Nat)
  /-- TICKET_REQUEST_ARRIVAL (R217). A ticket, plain load or plain store reaches the ticket office and is decided in order. -/
  | ticketRequestArrival (k : Nat)
  /-- TICKET_REPLY (R217). A ticket-office reply reaches the issuing station and writes its register. -/
  | ticketReply (st : Nat)
  /-- ENGINE_START (R230). A start reaches a marshalling engine, which runs its descriptors in NEXT order. -/
  | engineStart (st : Nat) (e : Nat)
  /-- ENGINE_REQUEST (R225). An engine issues its next line piece, paced by PACE and looked up in the remote line store where selected. -/
  | engineRequest (st : Nat) (e : Nat)
  /-- RLS_FILL (R235). A remote line-store fill returns and the line is installed and delivered to its waiting requests. -/
  | rlsFill (st : Nat) (tag : Nat)
  /-- DESCRIPTOR_COMPLETE (R226). Every write of a descriptor has taken effect, and its token is signalled in descriptor order. -/
  | descriptorComplete (st : Nat) (e : Nat)
  /-- DDR_REQUEST (R245). A request reaches a DDR channel's request port and is served in timetabled or reordering service. -/
  | ddrRequest (ch : Nat)
  /-- DDR_READ_DATA (R245). A DDR read delivers its data at the response port, through the symbol code. -/
  | ddrReadData (ch : Nat)
  /-- DDR_REORDER_SERVE (R244). The open-page scheduler of a channel in reordering service serves a request of its own choosing. -/
  | ddrReorderServe (ch : Nat) (pick : Nat)
  /-- REFRESH_GAP (R247). A rank's refresh gap begins and the rank is refreshed, or a due refresh is forced during a freeze. -/
  | refreshGap (ch : Nat) (rank : Nat)
  /-- DDR_WRITE_BACK (R243). A corrected DDR line is written back as an unscheduled write, or abandoned if newer data arrived. -/
  | ddrWriteBack (ch : Nat)
  /-- DDR_SCRUB_READ (R250). The DDR patrol scrub reads the next line of its channel at its interval. -/
  | ddrScrubRead (ch : Nat)
  /-- DDR_RETRAIN_DONE (R251). A channel retrain ends and waiting requests are served in order. -/
  | ddrRetrainDone (ch : Nat)
  /-- DDR_TRAINING_DONE (R408). DDR training at firmware start completes, with any pending wipe, or leaves DDR_READY at 0. -/
  | ddrTrainingDone (trained : Nat) (capacity : Nat)
  /-- PORT_TRAINING_DONE (R262). A port finishes 802.3dj training and FEC alignment and begins IDENT. -/
  | portTrainingDone (port : Nat)
  /-- IDENT (R263). An IDENT flit is received and the peer's direction, torus and device ID are checked. -/
  | ident (port : Nat) (device : Nat) (torus : Nat) (dir : Nat) (versions : Nat)
  /-- NO_SIGNAL (R262). A port in TRAINING or IDENT finds no peer within its limit and becomes FAILED with cause NO_SIGNAL, completing PORT_OPEN. -/
  | noSignal (port : Nat)
  /-- HOST_READ_COMPLETION (R232). A PCIe completion returns the data of a Host-kind engine read, or an unsuccessful or poisoned completion that fails the engine with cause HOST. -/
  | hostReadCompletion (tag : Nat) (data : HostData)
  /-- COMPLETION_TIMEOUT (R339). The PCIe completion timeout of an outstanding device read to host memory expires, and the read completes unsuccessfully. -/
  | completionTimeout (tag : Nat)
  /-- FLIT_RECEIVE (R260). A port receives a flit, checks CRC and sequence, takes credits and passes it on or discards it. -/
  | flitReceive (port : Nat) (flit : Bytes) (fec : Option Nat)
  /-- NAK (R260). A NAK flit makes the sender replay from the sequence number named. -/
  | nak (port : Nat) (seq : Nat)
  /-- LINK_ACK_DUE (R260). The receiver's acknowledgement interval expires and an acknowledgement is sent. -/
  | linkAckDue (port : Nat)
  /-- LANE_LOCK_LOSS (R261). A port's lanes lose lock and a retrain begins. -/
  | laneLockLoss (port : Nat)
  /-- ACK_TIMEOUT (R261). No acknowledgement for 10 microseconds with flits outstanding starts a retrain. -/
  | ackTimeout (port : Nat)
  /-- RETRAIN_ATTEMPT_DONE (R261). A retrain attempt ends, resuming replay or, after three failures, failing the port with cause LOST. -/
  | retrainAttemptDone (port : Nat) (ok : Bool)
  /-- PACKET_TRANSIT (R268). A packet is routed in dimension order to the next port, delivered, or discarded on a port that is not up. -/
  | packetTransit (pkt : Nat)
  /-- REMOTE_LOAD (R273). A load packet reaches its target, which returns the data or an error outcome. -/
  | remoteLoad (pkt : Nat)
  /-- REMOTE_STORE (R273). A store packet reaches its target, which stores it and acknowledges. -/
  | remoteStore (pkt : Nat)
  /-- REMOTE_MESSAGE (R276). A message packet reaches its target station router and is admitted to the named queue. -/
  | remoteMessage (pkt : Nat)
  /-- REMOTE_COMBINE (R276). A combine packet is delivered into the input of a combining queue named by its sender index. -/
  | remoteCombine (pkt : Nat)
  /-- REMOTE_TOKEN_SIGNAL (R214). A token-signal packet adds to a slot's PROD at the target. -/
  | remoteTokenSignal (pkt : Nat)
  /-- REMOTE_TOKEN_WAIT (R214). A token-wait packet is held at the target slot until satisfied, or refused. -/
  | remoteTokenWait (pkt : Nat)
  /-- REMOTE_TICKET_FETCH (R217). A ticket-fetch packet reaches the target ticket office and is decided after on-chip requests. -/
  | remoteTicketFetch (pkt : Nat)
  /-- REMOTE_RESPONSE (R281). A response or acknowledgement reaches its issuing unit, frees the entry and reports its outcome. -/
  | remoteResponse (pkt : Nat)
  /-- REMOTE_TIMEOUT (R283). A remote operation's timer expires, its entry is freed and the issuing unit faults. -/
  | remoteTimeout (st : Nat) (tag : Nat)
  /-- PORT_DRAIN_DONE (R285). A closing port has sent its flits and emptied its pools and reads CLOSED. -/
  | portDrainDone (port : Nat)
  /-- SLOT_BOUNDARY (R319). A timetable slot begins: the line stores are invalidated, barriers run, leave points apply and the fill runs. -/
  | slotBoundary
  /-- RUN_END (R324). A run ends with its real-time job not started and the job completes with DEADLINE_MISS. -/
  | runEnd (job : Nat)
  /-- INSTALLATION_START (R326). Installation of a consist into the standby planes begins once the job is known and the planes are free. -/
  | installationStart (job : Nat)
  /-- INSTALL_FRAME_WRITE (R301). One golden-copy frame is read, checked and written to all its targets in 16 cycles. -/
  | installFrameWrite (job : Nat)
  /-- BAY_PLANE_SWITCH (R54). A bay switches to its armed standby plane once its MU is idle and all slots are free. -/
  | bayPlaneSwitch (st : Nat) (bay : Nat)
  /-- VU_PLANE_SWITCH (R106). A vector unit switches to its armed standby plane once it is idle and its compartments are empty. -/
  | vuPlaneSwitch (st : Nat) (vu : Nat)
  /-- SB_PLANE_TAKEUP (R327). The signal box takes up an armed standby plane once its program has reached END. -/
  | sbPlaneTakeup (st : Nat)
  /-- CONSIST_TIME_ZERO (R323). A job starts at consist time 0 once its run has begun, its stations are free and installation is complete. -/
  | consistTimeZero (job : Nat)
  /-- JOB_END (R327). Every unit of a job has finished, unpaired points items and leftover messages are handled, and the stations are freed. -/
  | jobEnd (job : Nat)
  /-- COMPLETION_RECORD (R357). After every write of an ended job has taken effect, the waybill and completion record are written and the vector raised. -/
  | completionRecord (job : Nat)
  /-- QUIESCENCE (R330). Every station waits at the requested stopping point with nothing in flight and stabling begins. -/
  | quiescence (job : Nat)
  /-- STABLING_DONE (R335). Stabling has saved the job's state and its stations become free. -/
  | stablingDone (job : Nat)
  /-- RESTORE_DONE (R336). A restore completes and the job resumes at a cycle congruent to its saved consist time. -/
  | restoreDone (job : Nat)
  /-- JOB_FAULT_STOP (R385). In the cycle after a deciding fault the Control Office stops every unit of the job and ends it. -/
  | jobFaultStop (job : Nat)
  /-- DRAIN_FORCED (R396). A disabled function's drain limit expires and what remains is discarded and recorded. -/
  | drainForced (fn : Nat) (st : Nat) (unit : Nat)
  /-- EVENT_TAKEN (R361). The event arbiter takes an event, assigns its sequence number and writes or drops its record. -/
  | eventTaken
  /-- CDC_OVERRUN (R437). A handshake crossing that merged events falls idle and writes one CDC_OVERRUN fault record. The crossing is named by its far clock, plus 8 times its number in that clock. -/
  | cdcOverrun (far : Nat)
  /-- CDC_TIMEOUT (R439). An open crossing whose far clock stopped times out and raises CDC_TIMEOUT. -/
  | cdcTimeout (far : Nat) (idx : Nat)
  /-- PLL_LOCK_LOSS (R439). A PLL loses lock while its crossing is open and the loss is recorded and handled. -/
  | pllLockLoss (far : Nat) (idx : Nat)
  /-- SYSCLK_LOSS (R439). SYSCLK is lost and SYSCLK_LOST is set. -/
  | sysclkLoss
  /-- GANGER_FRAME_CHECK (R390). Every interval the ganger checks one frame in a plane or golden copy and repairs or reports it. -/
  | gangerFrameCheck
  /-- STATION_WAKE (R428). A station begins to wake ahead of the boundary that needs it, or waits for power admission. -/
  | stationWake (st : Nat)
  /-- POWER_TRANSITION_DONE (R427). A station completes one power-state transition of Table 17.3. -/
  | powerTransitionDone (st : Nat)
  /-- DOMAIN_RESET (R377). A reset of one domain takes effect, returning its registers to reset values and wiping its memories. -/
  | domainReset (kind : Nat) (idx : Nat)
  /-- STATION_WIPE_DONE (R131). A station's self-test and slab wipe complete and its slab registers take reset values. -/
  | stationWipeDone (st : Nat)
  /-- COLD_RESET (R444). VDD_AON is applied after being low and every domain resets, fuses reload and DDR is wiped. -/
  | coldReset
  /-- WARM_DEVICE_RESET (R378). PERST_N is asserted and every domain but the always-on domain resets with DDR in self-refresh. -/
  | warmDeviceReset
  /-- PERST_N_DEASSERT (R403). PERST_N is released and the boot ROM runs, bringing up the PCIe link. -/
  | perstNDeassert
  /-- PCIE_HOT_RESET (R379). A PCIe hot reset resets the PCIe domain while jobs keep running. -/
  | pcieHotReset
  /-- BOOT_DEADLINE (R406). The load deadline passes with no LOAD_FIRMWARE fetched and the boot ROM records FAILED. -/
  | bootDeadline
  /-- RAIL_EXCURSION (R445). A rail leaves tolerance while PERST_N is deasserted and the device state becomes undefined. -/
  | railExcursion
  /-- THERMAL_TRIP (R451). A die sensor reads 120 degrees or more and the device stops every clock but AONCLK and latches THERMTRIP_N. -/
  | thermalTrip
  /-- SENSOR_UPDATE (R450). Every millisecond the temperature and power sideband registers update and alerts are set. -/
  | sensorUpdate (temps : Temps) (avg1 : Nat) (avg100 : Nat)
  /-- I3C_PRIVATE_WRITE (R449). An I3C private write sets the register offset or writes a sideband register. -/
  | i3cPrivateWrite (data : Bytes)
  /-- I3C_PRIVATE_READ (R449). An I3C private read returns 4 bytes of the sideband register at the offset. -/
  | i3cPrivateRead
  /-- SETDASA (R449). I3C command that assigns a dynamic address from the static address. -/
  | setdasa (addr : Nat)
  /-- ENTDAA (R449). I3C command that assigns a dynamic address by arbitration. -/
  | entdaa (addr : Nat)
  /-- RSTDAA (R449). I3C command that resets the dynamic address. -/
  | rstdaa
  /-- ENEC (R449). I3C command that enables target events. -/
  | enec (events : Nat)
  /-- DISEC (R449). I3C command that disables target events. -/
  | disec (events : Nat)
  /-- GETPID (R449). I3C command that returns the provisioned ID. -/
  | getpid
  /-- GETSTATUS (R449). I3C command that returns the target status. -/
  | getstatus
  /-- SAMPLE_PRELOAD (R452). JTAG instruction that samples and preloads the boundary scan register. -/
  | samplePreload (pins : W64) (load : W64)
  /-- BYPASS (R452). JTAG instruction that selects the bypass register. -/
  | bypass
  /-- IDCODE (R452). JTAG instruction that shifts out the IDCODE. -/
  | idcode
  /-- EXTEST (R452). JTAG instruction that drives the pins from the boundary register while PERST_N is low, else acts as BYPASS. -/
  | extest
  /-- LOSS_OF_POWER (R446). Power is removed from the device, which may interrupt a key burn or a life-cycle transition and leave fuses partly blown. -/
  | lossOfPower
  /-- LINK_ENTRY_INTO_L0 (R406). The PCIe link first enters L0 after a reset, which starts the boot load deadline on AONCLK. -/
  | linkEntryIntoL0
  deriving DecidableEq, Repr

end Sys2Proof
end

