-- ==== Sys2Proof/Config.lean ====
section
/-! DEFINITION. What a part fixes, and the free values: constants with no body stand for what the spec leaves open,
so that nothing in Lean can know them. The latency tables are those of Tables 2.3, 4.5, 6.7, 7.4, 8.5 and 9.6. -/

namespace Sys2Proof.Config

/-- A value that the spec leaves open, by the count at which it is drawn (log 3). -/
opaque freeWord : Nat → W64

/-- A byte of a DDR range of undefined contents: the range's tag and the byte's offset (R296, log 3). -/
opaque freeByte : Nat → Nat → Byte

/-- An estimate that the bound of Table 4.4 leaves open: operation and operand bits (R95, log 4). -/
opaque estimate : Nat → W32 → W32

/-- The entropy source of the security block: the n-th draw (R413, R418, log 5). -/
opaque entropy : Nat → Bytes

/-- The ML-DSA-87 public key of the pair that FIPS 204 derives from a seed (R413, log 6). -/
opaque mldsaKey : Bytes → Bytes

/-- The ML-DSA-87 signature of a message under the key of a seed (R358, R415, log 6). -/
opaque mldsaSign : Bytes → Bytes → Bytes

/-- Whether an ML-DSA-87 signature of a message verifies under a public key (R293, R407, R417, log 6). -/
opaque mldsaVerify : Bytes → Bytes → Bytes → Bool

/-- The unpadded latency of a route, by source position, kind and destination, before its bound by the nominal one
(R28, log 7). -/
opaque unpadded : Nat → Nat → Nat → Nat

/-- The provisioned ID and the status word that the I3C target returns (R449 names the commands, not the values;
log 8). -/
opaque i3cPid : Bytes
opaque i3cStatus : Nat → Bytes

/-- Configuration space words that R341 does not give, by register number (log 9). -/
opaque configWord : Nat → W32

/-- The round trip of the event crossing from an FBCLK domain, in ARCLK cycles: Table 17.5 gives none (log 10). -/
opaque fbclkTrip : Nat

/-- Whether the symbol code detects errors in more than two devices of a burst, by the line's mark, and the bytes that it
passes on where it does not (R242, log 82). -/
opaque codeDetects : Nat → Bool
opaque missedByte : Nat → Nat → Byte

/-- The part's latency of each ID of Table 11.8, by stepping: 0 A0, 1 A1. -/
def latencies : Nat → List Nat
  | 0 => [16, 4, 24, 16, 6, 2, 4, 6, 8, 6, 12, 14, 18, 24, 36, 2, 4, 6, 6, 1, 4, 24, 36, 32, 32, 2, 2, 6, 64,
          4, 4, 4, 6, 6, 6, 10, 96, 48, 800]
  | _ => [16, 4, 24, 16, 6, 2, 4, 6, 8, 6, 12, 14, 16, 22, 34, 2, 4, 6, 6, 1, 4, 22, 34, 32, 32, 2, 2, 6, 64,
          4, 4, 4, 6, 6, 6, 10, 96, 48, 800]

/-- Names of the latency IDs (Table 11.8). -/
def muWload : Nat := 0
def muDecode : Nat := 1
def muPipe : Nat := 2
def muDrain : Nat := 3
def vuRd : Nat := 4
def vuWr : Nat := 5
def vuAlu : Nat := 6
def vuAlu64 : Nat := 7
def vuRed : Nat := 8
def vuEst : Nat := 9
def vuExp : Nat := 10
def vuLog : Nat := 11
def vuRcp : Nat := 12
def vuDiv : Nat := 13
def vuDiv64 : Nat := 14
def netHop : Nat := 15
def netGate : Nat := 16
def sbStart : Nat := 17
def sbDone : Nat := 18
def sbAlu : Nat := 19
def sbFp : Nat := 20
def sbFdiv : Nat := 21
def sbFdiv64 : Nat := 22
def waveReq : Nat := 23
def waveRel : Nat := 24
def qAdmit : Nat := 25
def qSkip : Nat := 26
def qComb : Nat := 27
def qSpill : Nat := 28
def tkSig : Nat := 29
def tkWake : Nat := 30
def tkFence : Nat := 31
def tkoOp : Nat := 32
def meStart : Nat := 33
def meDone : Nat := 34
def rlsHit : Nat := 35
def dmTtRd : Nat := 36
def dmTtWr : Nat := 37
def dmTtRefgap : Nat := 38

/-- Enabled stations of a grade (Table 0.2). -/
def gradeStations : Nat → Nat
  | 0 => 8
  | 1 => 12
  | _ => 16

/-- Grid positions that a grade enables, in ascending order: the logical stations (Table 1.3, R17). -/
def gradePositions : Nat → List Nat
  | 0 => [0, 1, 4, 5, 10, 11, 14, 15]
  | 1 => [0, 1, 2, 4, 5, 7, 8, 10, 11, 13, 14, 15]
  | _ => [0, 1, 2, 3, 4, 5, 6, 7, 8, 9, 10, 11, 12, 13, 14, 15]

/-- The position that attaches each DDR channel, and each physical Ermus port (Table 1.3). -/
def channelPosition : List Nat := [0, 1, 0, 2, 5, 4, 5, 7, 10, 11, 10, 8, 15, 14, 15, 13]
def portPosition : List Nat := [1, 2, 4, 7, 11, 8, 14, 13]

end Sys2Proof.Config
end

