-- ==== Sys2Proof/Machine/Maps.lean ====
section
/-! DEFINITION. Finite maps with rising keys, stores with a default for every unlisted key, bit fields, byte strings
in the little-endian order of R66, and small list helpers. -/

namespace Sys2Proof.Machine
open Sys2Proof

/-! ### Finite maps -/

/-- The value of a key. -/
def ffind {α : Type} : FMap α → Nat → Option α
  | [], _ => none
  | (k', v) :: m, k => if k' = k then some v else ffind m k

/-- The value of a key, or the default. -/
def fget {α : Type} (d : α) (m : FMap α) (k : Nat) : α := (ffind m k).getD d

/-- Sets a key's value and keeps the keys rising. -/
def fput {α : Type} : FMap α → Nat → α → FMap α
  | [], k, v => [(k, v)]
  | (k', v') :: m, k, v =>
    if k < k' then (k, v) :: (k', v') :: m
    else if k = k' then (k, v) :: m
    else (k', v') :: fput m k v

/-- Removes a key. -/
def fdel {α : Type} (m : FMap α) (k : Nat) : FMap α := m.filter fun p => p.1 != k

/-- Changes a key's value, from the default where it has none. -/
def fmod {α : Type} (d : α) (m : FMap α) (k : Nat) (f : α → α) : FMap α := fput m k (f (fget d m k))

/-- Keeps the entries whose key passes the test. -/
def fkeep {α : Type} (m : FMap α) (p : Nat → Bool) : FMap α := m.filter fun e => p e.1

/-! ### Stores: maps in which no listed value equals what an unlisted key reads as -/

/-- What a key of a store reads as. -/
def storeGet {α : Type} (d : Nat → α) (m : List (Nat × α)) (k : Nat) : α := fget (d k) m k

/-- Writes a key of a store: a value equal to the key's default removes the entry. -/
def storePut {α : Type} [DecidableEq α] (d : Nat → α) (m : List (Nat × α)) (k : Nat) (v : α) : List (Nat × α) :=
  if v = d k then fdel m k else fput m k v

/-- Puts the keys from `lo` up to but not including `hi` back to their defaults. -/
def storeClear {α : Type} (m : List (Nat × α)) (lo hi : Nat) : List (Nat × α) :=
  m.filter fun p => p.1 < lo || hi ≤ p.1

/-- The canonical form of a store: strictly rising keys, and no entry equal to its key's default. -/
abbrev storeWf {α : Type} (d : Nat → α) (m : List (Nat × α)) : Prop :=
  m.Pairwise (fun a b => a.1 < b.1) ∧ ∀ p ∈ m, p.2 ≠ d p.1

/-! ### Bit fields -/

/-- Field [hi:lo] of a word given as a number. -/
def bits (x : Nat) (hi lo : Nat) : Nat := x / 2 ^ lo % 2 ^ (hi + 1 - lo)

/-- Bit i of a word given as a number. -/
def bit (x i : Nat) : Bool := x / 2 ^ i % 2 == 1

/-- A flag as a number. -/
def b2n (b : Bool) : Nat := if b then 1 else 0

/-- A field of a word under construction: its lowest bit, its width and its value. -/
abbrev Field := Nat × Nat × Nat

/-- A word put together from fields: (lowest bit, width, value). -/
def pack (fs : List Field) : Nat := fs.foldl (fun a f => a + f.2.2 % 2 ^ f.2.1 * 2 ^ f.1) 0

/-- Sets field [hi:lo] of a word. -/
def setBits (x hi lo v : Nat) : Nat :=
  x - bits x hi lo * 2 ^ lo + v % 2 ^ (hi + 1 - lo) * 2 ^ lo

/-- The number of ones among the low n bits. -/
def popCount (x n : Nat) : Nat := ((List.range n).filter (bit x)).length

/-- The bits of a mask, ascending. -/
def maskBits (x n : Nat) : List Nat := (List.range n).filter (bit x)

/-- A number read as two's complement of n bits. -/
def toSigned (n x : Nat) : Int :=
  let y := x % 2 ^ n
  if y < 2 ^ (n - 1) then y else (y : Int) - 2 ^ n

/-- A whole number as n bits of two's complement. -/
def ofSigned (n : Nat) (x : Int) : Nat := (x % (2 ^ n : Int)).toNat

/-! ### Byte strings -/

/-- The number that n bytes at an offset hold, low byte first; bytes past the end read as 0. -/
def leNat (b : Bytes) (off n : Nat) : Nat :=
  ((b.drop off).take n).foldr (fun x acc => x.toNat + 256 * acc) 0

/-- A number as n bytes, low byte first. -/
def toLe : Nat → Nat → Bytes
  | 0, _ => []
  | n + 1, x => BitVec.ofNat 8 x :: toLe n (x / 256)

/-- n zero bytes. -/
def zeros (n : Nat) : Bytes := List.replicate n 0

/-- A byte string cut or filled with zeros to n bytes. -/
def padTo (n : Nat) (b : Bytes) : Bytes := (b ++ zeros (n - b.length)).take n

/-- Bytes off to off + n − 1, zeros past the end. -/
def slice (b : Bytes) (off n : Nat) : Bytes := padTo n (b.drop off)

/-- A byte string with bytes replaced at an offset. -/
def splice (b : Bytes) (off : Nat) (v : Bytes) : Bytes := b.take off ++ v ++ b.drop (off + v.length)

/-- Rounds a number up to a multiple. -/
def roundUp (x m : Nat) : Nat := (x + m - 1) / m * m

/-! ### Lists -/

/-- Element i of a list, or a default. -/
def nth {α : Type} (d : α) (l : List α) (i : Nat) : α := (l[i]?).getD d

/-- A list with element i replaced. -/
def setNth {α : Type} (l : List α) (i : Nat) (v : α) : List α := l.set i v

/-- The least element under a key, the first of equals. -/
def leastBy {α : Type} (key : α → Nat) : List α → Option α
  | [] => none
  | a :: l =>
    match leastBy key l with
    | none => some a
    | some b => if key b < key a then some b else some a

/-- Removes the first element that passes the test. -/
def removeFirst {α : Type} (p : α → Bool) : List α → List α
  | [] => []
  | a :: l => if p a then l else a :: removeFirst p l

/-- Changes the first element that passes the test. -/
def updateFirst {α : Type} (p : α → Bool) (f : α → α) : List α → List α
  | [] => []
  | a :: l => if p a then f a :: l else a :: updateFirst p f l

/-- The position of the first element that passes the test. -/
def findIndex {α : Type} (p : α → Bool) : List α → Option Nat
  | [] => none
  | a :: l => if p a then some 0 else (findIndex p l).map (· + 1)

/-- Puts an element in its place in a list that rises under a key. -/
def insertBy {α : Type} (key : α → Nat) (x : α) : List α → List α
  | [] => [x]
  | a :: l => if key a ≤ key x then a :: insertBy key x l else x :: a :: l

/-- A list sorted under a key; equals keep their order. -/
def sortBy {α : Type} (key : α → Nat) (l : List α) : List α := l.foldl (fun a x => insertBy key x a) []

/-- The lowest number below n that passes the test. -/
def lowest (n : Nat) (p : Nat → Bool) : Option Nat := (List.range n).find? p

end Sys2Proof.Machine
end

