-- ==== Sys2Proof/Machine/Flags.lean ====
section
/-! DEFINITION. Floating-point numbers as exact binary fractions, one rounding under the five attributes, the five
IEEE 754-2019 flags, and the operations of Table 3.11 (R67, R78, R79, R85). Every operation answers the result's bits
and the flags that it raises. -/

namespace Sys2Proof.Machine
open Sys2Proof

/-! ### Flags (Table 3.9) -/

def flInvalid : Nat := 1
def flDivZero : Nat := 2
def flOverflow : Nat := 4
def flUnderflow : Nat := 8
def flInexact : Nat := 16

/-- Rounding attributes by their RND codes (Table 4.11): ties to even, ties away, toward zero, toward positive, toward
negative. -/
def rndEven : Nat := 0

/-! ### Formats and numbers -/

/-- A binary format with infinities: exponent and mantissa widths (Table 3.1). -/
structure FFmt where
  eb : Nat
  mb : Nat
  deriving DecidableEq, Repr

def f32 : FFmt := ⟨8, 23⟩
def f64 : FFmt := ⟨11, 52⟩
def bf16 : FFmt := ⟨8, 7⟩
def f16 : FFmt := ⟨5, 10⟩
def e5m2 : FFmt := ⟨5, 2⟩

/-- The bias of a format, the exponent of its lowest subnormal bit, and that of its largest numbers. -/
def FFmt.bias (f : FFmt) : Int := 2 ^ (f.eb - 1) - 1
def FFmt.qmin (f : FFmt) : Int := 1 - f.bias - f.mb
def FFmt.emax (f : FFmt) : Int := f.bias

/-- A value: NaN (with its quiet bit and payload bits), an infinity, or (−1)^neg × m × 2^e exactly. -/
inductive Num where
  | nan (neg signalling : Bool) (payload : Nat)
  | inf (neg : Bool)
  | fin (neg : Bool) (m : Nat) (e : Int)
  deriving DecidableEq, Repr

/-- The value of a code of a format with infinities (R67). -/
def FFmt.decode (f : FFmt) (x : Nat) : Num :=
  let neg := bit x (f.eb + f.mb)
  let e := bits x (f.eb + f.mb - 1) f.mb
  let m := x % 2 ^ f.mb
  if e = 2 ^ f.eb - 1 then
    if m = 0 then .inf neg else .nan neg (!bit m (f.mb - 1)) m
  else if e = 0 then .fin neg m f.qmin
  else .fin neg (m + 2 ^ f.mb) (f.qmin + (e : Int) - 1)

/-- The sign bit, an infinity, the largest finite value and the default NaN (R85) of a format. -/
def FFmt.signBit (f : FFmt) (neg : Bool) : Nat := b2n neg * 2 ^ (f.eb + f.mb)
def FFmt.infBits (f : FFmt) (neg : Bool) : Nat := f.signBit neg + (2 ^ f.eb - 1) * 2 ^ f.mb
def FFmt.maxBits (f : FFmt) (neg : Bool) : Nat := f.signBit neg + (2 ^ f.eb - 1) * 2 ^ f.mb - 1
def FFmt.nanBits (f : FFmt) : Nat := (2 ^ f.eb - 1) * 2 ^ f.mb + 2 ^ (f.mb - 1)
def FFmt.zeroBits (f : FFmt) (neg : Bool) : Nat := f.signBit neg

/-- Whether an attribute rounds a magnitude up: `rem` of `2^sh` was cut off, and the kept part is odd or not. -/
def roundsUp (rnd : Nat) (neg odd : Bool) (rem sh : Nat) : Bool :=
  if rem = 0 then false
  else
    match rnd with
    | 0 => decide (2 ^ sh < 2 * rem) || (2 * rem == 2 ^ sh && odd)
    | 1 => decide (2 ^ sh ≤ 2 * rem)
    | 2 => false
    | 3 => !neg
    | _ => neg

/-- A magnitude m × 2^e rounded to a multiple of 2^q: the multiple, and whether anything was lost. -/
def roundAt (rnd : Nat) (neg : Bool) (m : Nat) (e q : Int) : Nat × Bool :=
  if q ≤ e then (m * 2 ^ (e - q).toNat, false)
  else
    let sh := (q - e).toNat
    let n := m / 2 ^ sh
    let rem := m % 2 ^ sh
    (if roundsUp rnd neg (n % 2 == 1) rem sh then n + 1 else n, rem != 0)

/-- The exponent of a magnitude's leading bit. -/
def leadExp (m : Nat) (e : Int) : Int := (Nat.log2 m : Int) + e

/-- The quantum that a magnitude is rounded to in a format of p bits whose lowest bit is 2^qmin. -/
def quantum (p : Nat) (qmin : Int) (m : Nat) (e : Int) : Int := max (leadExp m e - ((p : Int) - 1)) qmin

/-- Rounds an exact value to a format with infinities, with IEEE 754-2019 overflow and tininess after rounding. -/
def FFmt.round (f : FFmt) (rnd : Nat) (neg : Bool) (m : Nat) (e : Int) : Nat × Nat :=
  if m = 0 then (f.zeroBits neg, 0)
  else
    let p := f.mb + 1
    let q := quantum p f.qmin m e
    let (n, inexact) := roundAt rnd neg m e q
    if n ≠ 0 ∧ leadExp n q > f.emax then
      let toInf := match rnd with
        | 0 => true
        | 1 => true
        | 2 => false
        | 3 => !neg
        | _ => neg
      (if toInf then f.infBits neg else f.maxBits neg, flOverflow + flInexact)
    else
      let (u, _) := roundAt rnd neg m e (leadExp m e - ((p : Int) - 1))
      let tiny := decide (leadExp u (leadExp m e - ((p : Int) - 1)) < f.qmin + f.mb)
      let fl := (if inexact then flInexact else 0) + (if inexact && tiny then flUnderflow else 0)
      let code :=
        if n < 2 ^ f.mb then n
        else if n = 2 ^ p then ((q - f.qmin).toNat + 2) * 2 ^ f.mb
        else ((q - f.qmin).toNat + 1) * 2 ^ f.mb + (n - 2 ^ f.mb)
      (f.signBit neg + code, fl)

/-- The default NaN, with INVALID where an operand signals. -/
def FFmt.nanOf (f : FFmt) (xs : List Num) : Nat × Nat :=
  (f.nanBits, if xs.any (fun x => match x with | .nan _ s _ => s | _ => false) then flInvalid else 0)

/-- Whether a number is NaN. -/
def Num.isNan : Num → Bool
  | .nan _ _ _ => true
  | _ => false

/-- Whether a number is a signalling NaN. -/
def Num.isSnan : Num → Bool
  | .nan _ s _ => s
  | _ => false

/-- A signed exact value as an integer over a power of two. -/
def signedM (neg : Bool) (m : Nat) : Int := if neg then -(m : Int) else m

/-- The exact sum of two finite values: sign, magnitude, exponent; `none` for an exact zero. -/
def exactSum (n1 : Bool) (m1 : Nat) (e1 : Int) (n2 : Bool) (m2 : Nat) (e2 : Int) : Option (Bool × Nat × Int) :=
  let e := min e1 e2
  let s := signedM n1 m1 * 2 ^ (e1 - e).toNat + signedM n2 m2 * 2 ^ (e2 - e).toNat
  if s = 0 then none else some (decide (s < 0), s.natAbs, e)

/-- The sum of two numbers, rounded once; an exact zero takes the sign that IEEE 754-2019 gives. -/
def FFmt.sum (f : FFmt) (rnd : Nat) (a b : Num) : Nat × Nat :=
  match a, b with
  | .inf s, .inf t => if s = t then (f.infBits s, 0) else (f.nanBits, flInvalid)
  | .inf s, .fin _ _ _ => (f.infBits s, 0)
  | .fin _ _ _, .inf t => (f.infBits t, 0)
  | .fin n1 m1 e1, .fin n2 m2 e2 =>
    match exactSum n1 m1 e1 n2 m2 e2 with
    | some (s, m, e) => f.round rnd s m e
    | none =>
      if m1 = 0 ∧ m2 = 0 ∧ n1 = n2 then (f.zeroBits n1, 0) else (f.zeroBits (rnd == 4), 0)
  | _, _ => f.nanOf [a, b]

/-- The exact product of two numbers; `none` for 0 × ∞. -/
def exactMul : Num → Num → Option Num
  | .inf s, .inf t => some (.inf (s != t))
  | .inf s, .fin t m _ => if m = 0 then none else some (.inf (s != t))
  | .fin s m _, .inf t => if m = 0 then none else some (.inf (s != t))
  | .fin s m1 e1, .fin t m2 e2 => some (.fin (s != t) (m1 * m2) (e1 + e2))
  | a, b => some (if a.isNan then a else b)

/-- Negates a number. -/
def Num.negate : Num → Num
  | .nan n s p => .nan (!n) s p
  | .inf n => .inf (!n)
  | .fin n m e => .fin (!n) m e

/-! ### Operations on bits (R85) -/

def FFmt.add (f : FFmt) (rnd a b : Nat) : Nat × Nat := f.sum rnd (f.decode a) (f.decode b)
def FFmt.sub (f : FFmt) (rnd a b : Nat) : Nat × Nat :=
  let y := f.decode b
  if y.isNan then f.nanOf [f.decode a, y] else f.sum rnd (f.decode a) y.negate

def FFmt.mul (f : FFmt) (rnd a b : Nat) : Nat × Nat :=
  let x := f.decode a
  let y := f.decode b
  if x.isNan || y.isNan then f.nanOf [x, y]
  else
    match exactMul x y with
    | none => (f.nanBits, flInvalid)
    | some (.fin n m e) => f.round rnd n m e
    | some (.inf n) => (f.infBits n, 0)
    | some _ => f.nanOf [x, y]

/-- Fused multiply-add with one rounding; a product 0 × ∞ raises INVALID whatever the addend. -/
def FFmt.fma (f : FFmt) (rnd a b c : Nat) : Nat × Nat :=
  let x := f.decode a
  let y := f.decode b
  let z := f.decode c
  if x.isNan || y.isNan then f.nanOf [x, y, z]
  else
    match exactMul x y with
    | none => (f.nanBits, flInvalid)
    | some p => if z.isNan then f.nanOf [z] else f.sum rnd p z

/-- A quotient of magnitudes with two bits more than the format keeps and a sticky bit below. -/
def quotient (p m1 : Nat) (e1 : Int) (m2 : Nat) (e2 : Int) : Nat × Int :=
  let k := p + 3 + Nat.log2 m2
  let q := m1 * 2 ^ k / m2
  (2 * q + b2n (m1 * 2 ^ k % m2 != 0), e1 - e2 - k - 1)

def FFmt.div (f : FFmt) (rnd a b : Nat) : Nat × Nat :=
  match f.decode a, f.decode b with
  | .inf s, .fin t _ _ => (f.infBits (s != t), 0)
  | .fin s _ _, .inf t => (f.zeroBits (s != t), 0)
  | .inf _, .inf _ => (f.nanBits, flInvalid)
  | .fin s m1 e1, .fin t m2 e2 =>
    if m2 = 0 then if m1 = 0 then (f.nanBits, flInvalid) else (f.infBits (s != t), flDivZero)
    else if m1 = 0 then (f.zeroBits (s != t), 0)
    else
      let (m, e) := quotient (f.mb + 1) m1 e1 m2 e2
      f.round rnd (s != t) m e
  | x, y => f.nanOf [x, y]

/-- The integer square root, by digits from the top: n steps from a root and its bit. -/
def isqrtGo (x : Nat) : Nat → Nat → Nat
  | 0, r => r
  | n + 1, r => isqrtGo x n (if (r + 2 ^ n) * (r + 2 ^ n) ≤ x then r + 2 ^ n else r)

/-- The greatest r with r² ≤ x. -/
def isqrt (x : Nat) : Nat := isqrtGo x (Nat.log2 x / 2 + 1) 0

def FFmt.sqrt (f : FFmt) (rnd a : Nat) : Nat × Nat :=
  match f.decode a with
  | .inf s => if s then (f.nanBits, flInvalid) else (f.infBits false, 0)
  | .fin s m e =>
    if m = 0 then (f.zeroBits s, 0)
    else if s then (f.nanBits, flInvalid)
    else
      let k := 2 * (f.mb + 4) + (if (e % 2 == 0) then 0 else 1)
      let x := m * 2 ^ k
      let r := isqrt x
      f.round rnd false (2 * r + b2n (r * r != x)) ((e - k) / 2 - 1)
  | x => f.nanOf [x]

/-- Compares two numbers: less, equal, greater, or unordered (`none`). -/
def numCompare : Num → Num → Option Ordering
  | .nan _ _ _, _ => none
  | _, .nan _ _ _ => none
  | .inf s, .inf t => some (compare t s)
  | .inf s, .fin _ _ _ => some (if s then .lt else .gt)
  | .fin _ _ _, .inf t => some (if t then .gt else .lt)
  | .fin n1 m1 e1, .fin n2 m2 e2 =>
    let e := min e1 e2
    some (compare (signedM n1 m1 * 2 ^ (e1 - e).toNat) (signedM n2 m2 * 2 ^ (e2 - e).toNat))

/-- A comparison: its truth under an ordering, with INVALID for a signalling NaN, or for any NaN where the comparison
signals. -/
def FFmt.cmp (f : FFmt) (signals : Bool) (want : Ordering) (a b : Nat) : Bool × Nat :=
  let x := f.decode a
  let y := f.decode b
  let inv := x.isSnan || y.isSnan || (signals && (x.isNan || y.isNan))
  (numCompare x y == some want, if inv then flInvalid else 0)

/-- Minimum or maximum of two bit patterns that are no NaN: −0 counts as less than +0. -/
def FFmt.pick (f : FFmt) (max : Bool) (a b : Nat) : Nat :=
  let x := f.decode a
  let y := f.decode b
  match numCompare x y with
  | some .lt => if max then b else a
  | some .gt => if max then a else b
  | _ => if (bit a (f.eb + f.mb)) = max then b else a

/-- minimum and maximum: a NaN operand gives the default NaN. -/
def FFmt.minMax (f : FFmt) (max : Bool) (a b : Nat) : Nat × Nat :=
  let x := f.decode a
  let y := f.decode b
  if x.isNan || y.isNan then f.nanOf [x, y] else (f.pick max a b, 0)

/-- minimumNumber and maximumNumber: a NaN operand gives the other operand. -/
def FFmt.minMaxNum (f : FFmt) (max : Bool) (a b : Nat) : Nat × Nat :=
  let x := f.decode a
  let y := f.decode b
  let fl := if x.isSnan || y.isSnan then flInvalid else 0
  if x.isNan && y.isNan then (f.nanBits, fl)
  else if x.isNan then (b, fl)
  else if y.isNan then (a, fl)
  else (f.pick max a b, 0)

def FFmt.abs (f : FFmt) (a : Nat) : Nat := a % 2 ^ (f.eb + f.mb)
def FFmt.neg (f : FFmt) (a : Nat) : Nat := a ^^^ 2 ^ (f.eb + f.mb)

/-- Converts a code of one format to another that has infinities, rounding once. -/
def FFmt.convert (g f : FFmt) (rnd a : Nat) : Nat × Nat :=
  match g.decode a with
  | .inf s => (f.infBits s, 0)
  | .fin s m e => f.round rnd s m e
  | x => f.nanOf [x]

/-- Widens a code exactly; a NaN keeps its sign, state and payload, its mantissa bits becoming the high bits of the
wider format (R90). -/
def FFmt.widen (g f : FFmt) (a : Nat) : Nat :=
  match g.decode a with
  | .inf s => f.infBits s
  | .fin s m e => (f.round 0 s m e).1
  | .nan s _ p => f.infBits s + p * 2 ^ (f.mb - g.mb)

/-- A value as a whole number under an attribute. -/
def roundInt (rnd : Nat) (neg : Bool) (m : Nat) (e : Int) : Int × Bool :=
  let (n, inexact) := roundAt rnd neg m e 0
  (signedM neg n, inexact)

/-- Converts to a two's complement integer of w bits: INVALID and the limit out of range, 0 for NaN (R85).
The convertToInteger operations that Table 6.6 names raise no INEXACT; for a vector unit's conversion to INT32, whose INEXACT
R85 does not name, the model raises none either (DESIGN CHOICE, log 88). -/
def FFmt.toInt (f : FFmt) (rnd w a : Nat) : Int × Nat :=
  match f.decode a with
  | .nan _ _ _ => (0, flInvalid)
  | .inf s => (if s then -(2 ^ (w - 1) : Int) else 2 ^ (w - 1) - 1, flInvalid)
  | .fin s m e =>
    let (i, _) := roundInt rnd s m e
    if i < -(2 ^ (w - 1) : Int) then (-(2 ^ (w - 1) : Int), flInvalid)
    else if i ≥ 2 ^ (w - 1) then (2 ^ (w - 1) - 1, flInvalid)
    else (i, 0)

/-- Converts a whole number. -/
def FFmt.ofInt (f : FFmt) (rnd : Nat) (x : Int) : Nat × Nat := f.round rnd (decide (x < 0)) x.natAbs 0

/-- roundToIntegral: raises no INEXACT. -/
def FFmt.toIntegral (f : FFmt) (rnd a : Nat) : Nat × Nat :=
  match f.decode a with
  | .fin s m e =>
    let (i, _) := roundInt rnd s m e
    if i = 0 then (f.zeroBits s, 0) else ((f.round rnd s i.natAbs 0).1, 0)
  | .inf s => (f.infBits s, 0)
  | x => f.nanOf [x]

end Sys2Proof.Machine
end

