-- ==== Sys2Proof/Machine/Operands.lean ====
section
/-! DEFINITION. The element types of streams and arrays: widening (R90), the conversion to the short formats (R78 to
R82), and the operations that carry bounds (R95, Table 4.4). -/

namespace Sys2Proof.Machine
open Sys2Proof

/-! ### Element types (TYPE codes of Table 4.10) -/

def tyF32 : Nat := 0
def tyF64 : Nat := 1
def tyBf16 : Nat := 2
def tyF16 : Nat := 3
def tyE4m3 : Nat := 4
def tyE5m2 : Nat := 5
def tyE2m1 : Nat := 6
def tyI32 : Nat := 7
def tyI8 : Nat := 8
def tyI4 : Nat := 9
def tyE8m0 : Nat := 10
def tyMask : Nat := 11

/-- The width of an element in bits. -/
def elemBits (ty : Nat) : Nat :=
  match ty with
  | 0 => 32
  | 1 => 64
  | 2 => 16
  | 3 => 16
  | 4 => 8
  | 5 => 8
  | 6 => 4
  | 7 => 32
  | 8 => 8
  | 9 => 4
  | 10 => 8
  | _ => 1

/-- The value of an FP8 E4M3 or FP4 E2M1 code: no infinities, NaN codes 0x7F and 0xFF in E4M3 only (Table 3.1). -/
def decodeE4m3 (x : Nat) : Num :=
  if x % 128 = 127 then .nan (bit x 7) false 0
  else if bits x 6 3 = 0 then .fin (bit x 7) (x % 8) (-9)
  else .fin (bit x 7) (x % 8 + 8) ((bits x 6 3 : Int) - 10)
def decodeE2m1 (x : Nat) : Num :=
  if bits x 2 1 = 0 then .fin (bit x 3) (x % 2) (-1) else .fin (bit x 3) (x % 2 + 2) ((bits x 2 1 : Int) - 2)

/-- The value of an E8M0 code (R67): 2^(e − 127), NaN for 0xFF. -/
def decodeE8m0 (x : Nat) : Num := if x = 255 then .nan false false 0 else .fin false 1 ((x : Int) - 127)

/-- The exact value of an element code. -/
def elemValue (ty x : Nat) : Num :=
  match ty with
  | 0 => f32.decode x
  | 1 => f64.decode x
  | 2 => bf16.decode x
  | 3 => f16.decode x
  | 4 => decodeE4m3 x
  | 5 => e5m2.decode x
  | 6 => decodeE2m1 x
  | 7 => let i := toSigned 32 x; .fin (decide (i < 0)) i.natAbs 0
  | 8 => let i := toSigned 8 x; .fin (decide (i < 0)) i.natAbs 0
  | 9 => let i := toSigned 4 x; .fin (decide (i < 0)) i.natAbs 0
  | 10 => decodeE8m0 x
  | _ => .fin false (x % 2) 0

/-- The working format of an instruction. -/
def workFmt (f64b : Bool) : FFmt := if f64b then f64 else f32

/-- An element widened to the working format (R90): exact, but for INT32 to FP32, which rounds to nearest even, and
an FP64 stream read in FP32, which stays as it is for COPY to narrow. NaNs of BF16, FP16, E5M2 and FP32 keep sign, state
and payload; those of E4M3 and E8M0 become the default NaN. -/
def widenElem (f64b : Bool) (ty x : Nat) : Nat × Nat :=
  let f := workFmt f64b
  match ty with
  | 0 => if f64b then (f32.widen f64 x, 0) else (x, 0)
  | 1 => (x, 0)
  | 2 => (bf16.widen f x, 0)
  | 3 => (f16.widen f x, 0)
  | 5 => (e5m2.widen f x, 0)
  | 7 => let r := f.ofInt 0 (toSigned 32 x); (r.1, r.2)
  | _ =>
    match elemValue ty x with
    | .fin s m e => ((f.round 0 s m e).1, 0)
    | _ => (f.nanBits, 0)

/-! ### Conversion to the short formats (R78 to R80, Table 3.6) -/

/-- Target codes of Table 4.11 as TYPE codes: E2M1, E4M3, E5M2, BF16, FP16, INT8, INT4. -/
def targetType (t : Nat) : Nat :=
  match t with
  | 0 => tyE2m1
  | 1 => tyE4m3
  | 2 => tyE5m2
  | 3 => tyBf16
  | 4 => tyF16
  | 5 => tyI8
  | _ => tyI4

/-- What a conversion gives: the code, the flags, whether it saturated, whether it dropped a NaN. -/
structure CvtRes where
  code : Nat := 0
  flags : Nat := 0
  sat : Bool := false
  dropped : Bool := false
  deriving DecidableEq, Repr, Inhabited

/-- Conversion to E2M1 or E4M3: mantissa width, lowest quantum, number of codes up to the largest finite, and width. An
in-range result that is inexact or tiny raises INEXACT and UNDERFLOW, as IEEE 754 conversions do, where R78 names no flag
(DESIGN CHOICE, log 88). -/
def cvtSmall (mb : Nat) (qmin : Int) (maxCode width : Nat) (rnd : Nat) (neg : Bool) (m : Nat) (e : Int) : CvtRes :=
  let s := b2n neg * 2 ^ (width - 1)
  if m = 0 then { code := s }
  else
    let q := quantum (mb + 1) qmin m e
    let (n, inexact) := roundAt rnd neg m e q
    let code :=
      if n < 2 ^ mb then n
      else if n = 2 ^ (mb + 1) then ((q - qmin).toNat + 2) * 2 ^ mb
      else ((q - qmin).toNat + 1) * 2 ^ mb + (n - 2 ^ mb)
    if maxCode < code then { code := s + maxCode, sat := true }
    else
      let (u, _) := roundAt rnd neg m e (leadExp m e - mb)
      let tiny := decide (leadExp u (leadExp m e - mb) < qmin + mb)
      { code := s + code
        flags := (if inexact then flInexact else 0) + (if inexact && tiny then flUnderflow else 0) }

/-- Conversion to a format with infinities, saturating where SAT is 1. An in-range inexact or tiny result raises its IEEE
flags, where R78 names none (DESIGN CHOICE, log 88). -/
def cvtWide (f : FFmt) (sat : Bool) (rnd : Nat) (neg : Bool) (m : Nat) (e : Int) : CvtRes :=
  let (x, fl) := f.round rnd neg m e
  if fl % 8 / 4 = 1 ∧ sat then { code := f.maxBits neg, sat := true } else { code := x, flags := fl }

/-- Conversion to an integer of w bits. An in-range inexact result raises INEXACT, where R78 names no flag (DESIGN CHOICE,
log 88). -/
def cvtInt (w rnd : Nat) (neg : Bool) (m : Nat) (e : Int) : CvtRes :=
  let (i, inexact) := roundInt rnd neg m e
  if i < -(2 ^ (w - 1) : Int) then { code := 2 ^ (w - 1), sat := true }
  else if i ≥ 2 ^ (w - 1) then { code := 2 ^ (w - 1) - 1, sat := true }
  else { code := ofSigned w i, flags := if inexact then flInexact else 0 }

/-- The value x × f of a conversion, rounded once to the target; Table 3.6 at the limits. A signalling NaN input raises
INVALID whatever the target. The factor of 0 × ∞ or of a NaN makes the product NaN, which takes the NaN rows
(log 12). -/
def convertShort (target : Nat) (sat : Bool) (rnd : Nat) (x : Nat) (factor : Num) : CvtRes :=
  let ty := targetType target
  let v := f32.decode x
  let snan := if v.isSnan || factor.isSnan then flInvalid else 0
  match exactMul v factor with
  | some (.fin s m e) =>
    match ty with
    | 6 => cvtSmall 1 (-1) 7 4 rnd s m e
    | 4 => cvtSmall 3 (-9) 0x7E 8 rnd s m e
    | 5 => cvtWide e5m2 sat rnd s m e
    | 2 => cvtWide bf16 sat rnd s m e
    | 3 => cvtWide f16 sat rnd s m e
    | 8 => cvtInt 8 rnd s m e
    | _ => cvtInt 4 rnd s m e
  | some (.inf s) =>
    match ty with
    | 6 => { code := b2n s * 8 + 7, sat := true }
    | 4 => { code := b2n s * 128 + 0x7E, sat := true }
    | 5 => if sat then { code := e5m2.maxBits s, sat := true } else { code := e5m2.infBits s }
    | 2 => if sat then { code := bf16.maxBits s, sat := true } else { code := bf16.infBits s }
    | 3 => if sat then { code := f16.maxBits s, sat := true } else { code := f16.infBits s }
    | 8 => { code := if s then 0x80 else 0x7F, sat := true }
    | _ => { code := if s then 8 else 7, sat := true }
  | _ =>
    match ty with
    | 4 => { code := 0x7F, flags := snan }
    | 5 => { code := 0x7E, flags := snan }
    | 2 => { code := 0x7FC0, flags := snan }
    | 3 => { code := 0x7E00, flags := snan }
    | _ => { flags := snan, dropped := true }

/-! ### Scales (R82) -/

/-- F_max of a target: the largest finite value or the positive integer limit. -/
def targetMax (target : Nat) : Num :=
  match target with
  | 0 => .fin false 6 0
  | 1 => .fin false 448 0
  | 2 => .fin false 57344 0
  | 3 => bf16.decode 0x7F7F
  | 4 => .fin false 65504 0
  | 5 => .fin false 127 0
  | _ => .fin false 7 0

/-- E_elem of an MX target. -/
def targetElem (target : Nat) : Int := if target = 0 then 2 else if target = 1 then 8 else 15

/-- The tensor scale F_max / a, rounded to FP32 nearest even; 1 where a is +0 or +∞. Its rounding raises no flag, where R82
names none (DESIGN CHOICE, log 88). -/
def tensorScale (target a : Nat) : Nat :=
  match f32.decode a, targetMax target with
  | .fin _ m e, .fin _ fm fe =>
    if m = 0 then 0x3F800000
    else
      let (q, qe) := quotient 24 fm fe m e
      (f32.round 0 false q qe).1
  | _, _ => 0x3F800000

/-- The E8M0 scale code of a maximum a. -/
def mxScale (target a : Nat) : Nat :=
  match f32.decode a with
  | .fin _ m e =>
    if m = 0 then 0
    else
      let x := leadExp m e - targetElem target
      (max (min x 127) (-127) + 127).toNat
  | _ => 0xFE

/-- The running maximum: max(a, |x|); NaN leaves it, an infinity makes it +∞ (R81). -/
def amaxStep (a x : Nat) : Nat :=
  let y := f32.abs x
  if (f32.decode y).isNan then a else if a < y then y else a

/-! ### Operations with bounds (R95) -/

/-- The scale of the fixed-point numbers of the reference values below: 2^256. -/
def fxOne : Int := 2 ^ 256

/-- atanh of z = num/den by its power series, n terms, in fixed point. -/
def fxAtanh (z2 : Int) : Nat → Nat → Int → Int
  | 0, _, _ => 0
  | n + 1, k, p => p / (2 * k + 1) + fxAtanh z2 n (k + 1) (p * z2 / fxOne)

/-- The natural logarithm of a rational number from 1 up to 2, in fixed point, to better than 2^−180. -/
def fxLnMant (x : Int) : Int :=
  let z := (x - fxOne) * fxOne / (x + fxOne)
  2 * fxAtanh (z * z / fxOne) 64 0 z

/-- ln 2 in fixed point. -/
def fxLn2 : Int := fxLnMant (2 * fxOne)

/-- e^r for |r| < 1 by its power series, in fixed point. -/
def fxExpGo (r : Int) : Nat → Nat → Int → Int
  | 0, _, _ => 0
  | n + 1, k, p => p + fxExpGo r n (k + 1) (p * r / fxOne / (k + 1))

/-- A finite value in fixed point. -/
def toFx (neg : Bool) (m : Nat) (e : Int) : Int :=
  let x : Int := if 0 ≤ e + 256 then (m : Int) * 2 ^ (e + 256).toNat else (m : Int) / 2 ^ (-(e + 256)).toNat
  if neg then -x else x

/-- Reference values as a magnitude and exponent: e^t for a finite t from −150 to 150, and ln m. -/
def refExp (t : Int) : Nat × Int :=
  let k := t / fxLn2
  let r := t - k * fxLn2
  ((fxExpGo r 80 0 fxOne).toNat, k - 256)
def refLog (m : Nat) (e : Int) : Int :=
  let l := Nat.log2 m
  fxLnMant ((m : Int) * fxOne / 2 ^ l) + ((l : Int) + e) * fxLn2

/-- Whether a finite estimate v lies within `num/den` times 2^e2 of a reference magnitude: |v − ref| ≤ bound, all over
a common power of two. -/
def nearBy (vm : Nat) (ve : Int) (rm : Nat) (re : Int) (bm : Nat) (be : Int) : Bool :=
  let e := min ve (min re be)
  let v : Int := vm * 2 ^ (ve - e).toNat
  let r : Int := rm * 2 ^ (re - e).toNat
  let b : Int := bm * 2 ^ (be - e).toNat
  decide (v - r ≤ b) && decide (r - v ≤ b)

/-- The estimate of an operation: the part's own value where it keeps the bound, otherwise the reference rounded to
nearest even. `bound` gives the bound's magnitude and exponent. -/
def boundedEstimate (op a : Nat) (neg : Bool) (rm : Nat) (re : Int) (bm : Nat) (be : Int) : Nat :=
  let v := (Config.estimate op (BitVec.ofNat 32 a)).toNat
  match f32.decode v with
  | .fin s m e =>
    if s = neg && nearBy m e rm re bm be then v else (f32.round 0 neg rm re).1
  | _ => (f32.round 0 neg rm re).1

/-- RCPE: relative error at most 2^−14; zeros, infinities and overflow as Table 4.4 gives. A subnormal result has no
bound and is free (log 4). -/
def rcpEstimate (a : Nat) : Nat × Nat :=
  match f32.decode a with
  | .inf s => (f32.zeroBits s, 0)
  | .fin s m e =>
    if m = 0 then (f32.infBits s, flDivZero)
    else
      let (q, qe) := quotient 60 1 0 m e
      if leadExp q qe ≥ 128 then (f32.infBits s, flOverflow + flInexact)
      else if leadExp q qe < -126 then ((Config.estimate 0x13 (BitVec.ofNat 32 a)).toNat, flInexact)
      else
        let v := boundedEstimate 0x13 a s q qe q (qe - 14)
        (v, if (f32.mul 0 v a).2 = 0 ∧ (f32.mul 0 v a).1 = 0x3F800000 then 0 else flInexact)
  | x => f32.nanOf [x]

/-- RSQE: relative error at most 2^−14. -/
def rsqEstimate (a : Nat) : Nat × Nat :=
  match f32.decode a with
  | .inf s => if s then (f32.nanBits, flInvalid) else (0, 0)
  | .fin s m e =>
    if m = 0 then (f32.infBits s, flDivZero)
    else if s then (f32.nanBits, flInvalid)
    else
      let (q, qe) := quotient 120 1 0 m e
      let odd := qe % 2 != 0
      let r := isqrt (if odd then 2 * q else q)
      let re := (if odd then qe - 1 else qe) / 2
      let v := boundedEstimate 0x14 a false r re r (re - 14)
      (v, if (f32.mul 0 (f32.mul 0 v v).1 a) = (0x3F800000, 0) ∧ (f32.mul 0 v v).2 = 0 then 0 else flInexact)
  | x => f32.nanOf [x]

/-- The exponent of one unit in the last place of a normal FP32 magnitude, or of the subnormals. -/
def ulpExp (m : Nat) (e : Int) : Int := max (leadExp m e - 23) (-149)

/-- EXP of t: within 2 units in the last place, or one smallest subnormal for a subnormal result. Of t = +0 or -0 it is
exactly 1 with no flag, where Table 4.4 gives only the bound (DESIGN CHOICE, log 88). -/
def expEstimate (t : Nat) : Nat × Nat :=
  match f32.decode t with
  | .inf s => (if s then 0 else f32.infBits false, 0)
  | .fin s m e =>
    if m = 0 then (0x3F800000, 0)
    else if leadExp m e ≥ 7 then
      if s then
        let v := boundedEstimate 0x15 t false 0 0 1 (-149)
        (v, flUnderflow + flInexact)
      else (f32.infBits false, flOverflow + flInexact)
    else
      let (rm, re) := refExp (toFx s m e)
      if leadExp rm re ≥ 128 then (f32.infBits false, flOverflow + flInexact)
      else if leadExp rm re < -126 then
        (boundedEstimate 0x15 t false rm re 1 (-149), flUnderflow + flInexact)
      else (boundedEstimate 0x15 t false rm re 2 (ulpExp rm re), flInexact)
  | x => f32.nanOf [x]

/-- LOG: within 2 units in the last place. -/
def logEstimate (a : Nat) : Nat × Nat :=
  match f32.decode a with
  | .inf s => if s then (f32.nanBits, flInvalid) else (f32.infBits false, 0)
  | .fin s m e =>
    if m = 0 then (f32.infBits true, flDivZero)
    else if s then (f32.nanBits, flInvalid)
    else if a = 0x3F800000 then (0, 0)
    else
      let r := refLog m e
      let rm := r.natAbs
      (boundedEstimate 0x16 a (decide (r < 0)) rm (-256) 2 (ulpExp rm (-256)), flInexact)
  | x => f32.nanOf [x]

end Sys2Proof.Machine
end

