-- ==== Sys2Proof/Machine/Regs.lean ====
section
/-! DEFINITION. BAR0 offsets of the registers (Table 13.3 and the register maps of every chapter), the Reset values
that are not 0, and the fields that host software writes. -/

namespace Sys2Proof.Machine
open Sys2Proof

/-! ### Blocks (Table 13.3) -/

/-- The block of logical station n (R166). -/
def stBase (n : Nat) : Nat := 0x01000000 + n * 0x100000
/-- The registers of vector unit v of station n (R108). -/
def vuBase (n v : Nat) : Nat := stBase n + 0x40000 + v * 0x2000
/-- The registers of the Matrix Unit of bay b (R61). -/
def muBase (n b : Nat) : Nat := stBase n + 0x80000 + b * 0x800
/-- The slab registers of bay b (R132). -/
def slabBase (n b : Nat) : Nat := stBase n + 0x20000 + b * 0x100
/-- The switch-node registers of bay b (R166). -/
def swBase (n b : Nat) : Nat := stBase n + 0x30000 + b * 0x100
/-- The registers of engine e (R253). -/
def meBase (n e : Nat) : Nat := stBase n + 0x1000 + e * 0x40
/-- The registers of DDR channel c (R254). -/
def dmBase (c : Nat) : Nat := 0x00800000 + c * 0x10000
/-- The fabric registers, and those of physical port j (R286). -/
def epBase : Nat := 0x00C00000
def portBase (j : Nat) : Nat := epBase + (j + 1) * 0x10000
def ilBase : Nat := 0x00400000
def ttBase : Nat := 0x00200000
def secBase : Nat := 0x02000000
/-- The registers of command ring r (Table 13.18). -/
def ringBase (r : Nat) : Nat := 0x1000 + r * 0x40

/-! ### Registers by name -/

namespace Reg
def coIfVersion : Nat := 0x10
def coHifCntClear : Nat := 0x14
def coSeqNext : Nat := 0x18
def coBar2Base : Nat := 0x20
def coBar2Err : Nat := 0x28
def coArclkNow : Nat := 0x30
def coStnMap (n : Nat) : Nat := 0x100 + 4 * n
def coDieRepair (d : Nat) : Nat := 0x140 + 4 * d
def coPortMap : Nat := 0x150
def coDistSel : Nat := 0x158
def coDistData : Nat := 0x160
def ringCmdBase (r : Nat) : Nat := ringBase r
def ringRplBase (r : Nat) : Nat := ringBase r + 8
def ringCtrl (r : Nat) : Nat := ringBase r + 0x10
def ringStatus (r : Nat) : Nat := ringBase r + 0x14
def gangStatus : Nat := 0x2000
def gangInterval : Nat := 0x2004
def gangCursor : Nat := 0x2008
def gangPasses : Nat := 0x2010
def gangRepairs : Nat := 0x2018
def gangVotes : Nat := 0x2020
def goldenBad : Nat := 0x2028
def gangCntClear : Nat := 0x2030
def coBringup : Nat := 0x2100
def clkStatus : Nat := 0x3000
def pwrCap : Nat := 0x3004
def pwrAdmit : Nat := 0x3008
def pwrStatus : Nat := 0x300C
def cdcStatus : Nat := 0x3010
def cdcCntClear : Nat := 0x3014
def cdcOverruns : Nat := 0x3018
def cdcTimeouts : Nat := 0x3020
def sbTemp : Nat := 0x3100
def sbPower : Nat := 0x3104
def sbAlert : Nat := 0x3108
def sbAlertEn : Nat := 0x310C
def sbTwarn : Nat := 0x3110
def sbState : Nat := 0x3114
def tkoStatus : Nat := 0x4000
def tkoCntClear : Nat := 0x4008
def tkoPlainSt : Nat := 0x4010
def tkoValue (k : Nat) : Nat := 0x4100 + 16 * k
def tkoOwner (k : Nat) : Nat := 0x4108 + 16 * k
def evqBase : Nat := 0x100000
def evqCtrl : Nat := 0x100008
def evqHead : Nat := 0x10000C
def evqStatus : Nat := 0x100010
def evLost : Nat := 0x100018
def faultHead : Nat := 0x101000
def faultStatus : Nat := 0x101004
def faultCntClear : Nat := 0x101008
def faultLost : Nat := 0x101010
def drainForced : Nat := 0x101018
def faultRec (i w : Nat) : Nat := 0x102000 + 32 * i + 4 * w
def ttCtrl : Nat := ttBase
def ttStatus : Nat := ttBase + 4
def ttErr : Nat := ttBase + 8
def ttTime : Nat := ttBase + 0x10
def ttCntClear : Nat := ttBase + 0x18
def ttStablings : Nat := ttBase + 0x20
def ttRestores : Nat := ttBase + 0x28
def ttAborts : Nat := ttBase + 0x30
def ttMisses : Nat := ttBase + 0x38
def ttLastDecision : Nat := ttBase + 0x40
def ttStn (s : Nat) : Nat := ttBase + 0x80 + 4 * s
def ttPool (p : Nat) : Nat := ttBase + 0x100 + 8 * p
def ttEntry (e w : Nat) : Nat := ttBase + 0x10000 + 32 * e + 4 * w
def ilCtrl : Nat := ilBase
def ilStatus : Nat := ilBase + 4
def ilCmd : Nat := ilBase + 8
def ilCntClear : Nat := ilBase + 0xC
def ilErr : Nat := ilBase + 0x10
def ilErrDetail : Nat := ilBase + 0x18
def ilLoads : Nat := ilBase + 0x20
def ilRefusals : Nat := ilBase + 0x28
def ilDepotFree : Nat := ilBase + 0x30
def ilResident : Nat := ilBase + 0x40
def ilCsel : Nat := ilBase + 0x48
def ilCinfo : Nat := ilBase + 0x50
def ilCddr : Nat := ilBase + 0x58
def ilCreginv : Nat := ilBase + 0x60
def ilCdigest (w : Nat) : Nat := ilBase + 0x80 + 4 * w
def ilLsel : Nat := ilBase + 0xC0
def ilLdata : Nat := ilBase + 0xC8
def dmCtrl (c : Nat) : Nat := dmBase c
def dmStatus (c : Nat) : Nat := dmBase c + 4
def dmCntClear (c : Nat) : Nat := dmBase c + 0xC
def dmErrlog (c : Nat) : Nat := dmBase c + 0x10
def dmCe (c : Nat) : Nat := dmBase c + 0x18
def dmUe (c : Nat) : Nat := dmBase c + 0x20
def dmTtSlip (c : Nat) : Nat := dmBase c + 0x28
def dmUnsched (c : Nat) : Nat := dmBase c + 0x30
def dmForcedRef (c : Nat) : Nat := dmBase c + 0x38
def dmReadLines (c : Nat) : Nat := dmBase c + 0x40
def dmWriteLines (c : Nat) : Nat := dmBase c + 0x48
def dmScrubCursor (c : Nat) : Nat := dmBase c + 0x50
def dmScrubPasses (c : Nat) : Nat := dmBase c + 0x58
def dmCapacity : Nat := 0x00900000
def epCtrl : Nat := epBase
def epStatus : Nat := epBase + 4
def epDeviceId : Nat := epBase + 8
def epTorus : Nat := epBase + 0xC
def epDimMap : Nat := epBase + 0x10
def epTimeoutAcc : Nat := epBase + 0x14
def epTimeoutWait : Nat := epBase + 0x18
def epAccess : Nat := epBase + 0x1C
def epCntClear : Nat := epBase + 0x20
def epTimeouts : Nat := epBase + 0x28
def epLate : Nat := epBase + 0x30
def epTargetErr : Nat := epBase + 0x38
def portCtrl (j : Nat) : Nat := portBase j
def portStatus (j : Nat) : Nat := portBase j + 4
def portPeer (j : Nat) : Nat := portBase j + 8
def portTx (j : Nat) : Nat := portBase j + 0x10
def portRx (j : Nat) : Nat := portBase j + 0x18
def portFecCorr (j : Nat) : Nat := portBase j + 0x20
def portFecUncorr (j : Nat) : Nat := portBase j + 0x28
def portCrcErr (j : Nat) : Nat := portBase j + 0x30
def portReplays (j : Nat) : Nat := portBase j + 0x38
def portRetrains (j : Nat) : Nat := portBase j + 0x40
def portDiscard (j : Nat) : Nat := portBase j + 0x48
def portCntClear (j : Nat) : Nat := portBase j + 0x50
def secBootStatus : Nat := secBase
def secBootDeadline : Nat := secBase + 4
def secDieId : Nat := secBase + 8
def secStatus : Nat := secBase + 0x10
def secCmd : Nat := secBase + 0x14
def lcState : Nat := secBase + 0x18
def secFwDigest (w : Nat) : Nat := secBase + 0x40 + 4 * w
def secVkeyDigest (w : Nat) : Nat := secBase + 0x80 + 4 * w
def secIdDigest (w : Nat) : Nat := secBase + 0xC0 + 4 * w
def lcNonce (w : Nat) : Nat := secBase + 0x200 + 4 * w
def secOkeyStage (w : Nat) : Nat := secBase + 0x1000 + 4 * w
def secOkey (s w : Nat) : Nat := secBase + 0x2000 + 0x1000 * s + 4 * w
def doorbell (r : Nat) : Nat := 0x03000000 + 0x1000 * r
def stCtrl (n : Nat) : Nat := stBase n
def stStatus (n : Nat) : Nat := stBase n + 4
def consistCyc (n : Nat) : Nat := stBase n + 8
def waveStatus (n : Nat) : Nat := stBase n + 0x10
def waveSrc (n : Nat) : Nat := stBase n + 0x14
def waveCount (n : Nat) : Nat := stBase n + 0x18
def waveCyc (n : Nat) : Nat := stBase n + 0x20
def stProgress (n : Nat) : Nat := stBase n + 0x28
def stFaultStatus (n : Nat) : Nat := stBase n + 0x30
def stPwrStatus (n : Nat) : Nat := stBase n + 0x38
def stRepair (n : Nat) : Nat := stBase n + 0x40
def sbFpflags (n : Nat) : Nat := stBase n + 0x60
def sbStatus (n : Nat) : Nat := stBase n + 0x64
def tblSel (n : Nat) : Nat := stBase n + 0x80
def tblData (n : Nat) : Nat := stBase n + 0x88
def stStall (n k : Nat) : Nat := stBase n + 0xC0 + 8 * k
def qSel (n : Nat) : Nat := stBase n + 0x100
def qCtrl (n : Nat) : Nat := stBase n + 0x104
def qQuorumStatus (n : Nat) : Nat := stBase n + 0x108
def qCntClear (n : Nat) : Nat := stBase n + 0x10C
def qData (n w : Nat) : Nat := stBase n + 0x110 + 8 * w
def qState (n : Nat) : Nat := stBase n + 0x130
def qSpills (n : Nat) : Nat := stBase n + 0x138
def qBalance (n : Nat) : Nat := stBase n + 0x140
def qLenerr (n : Nat) : Nat := stBase n + 0x150
def qSat (n : Nat) : Nat := stBase n + 0x158
def qLeftover (n : Nat) : Nat := stBase n + 0x160
def qRefused (n : Nat) : Nat := stBase n + 0x168
def qQuorums (n : Nat) : Nat := stBase n + 0x170
def qSpillBytes (n : Nat) : Nat := stBase n + 0x178
def tkCtrl (n : Nat) : Nat := stBase n + 0x200
def tkStatus (n : Nat) : Nat := stBase n + 0x204
def tkCntClear (n : Nat) : Nat := stBase n + 0x208
def tkSigLost (n : Nat) : Nat := stBase n + 0x210
def tkRebases (n : Nat) : Nat := stBase n + 0x218
def tkSlot (n t w : Nat) : Nat := stBase n + 0x800 + 32 * t + 4 * w
def meStatus (n e : Nat) : Nat := meBase n e
def meErr (n e : Nat) : Nat := meBase n e + 4
def meErrAddr (n e : Nat) : Nat := meBase n e + 8
def meBytes (n e : Nat) : Nat := meBase n e + 0x10
def meMerged (n e : Nat) : Nat := meBase n e + 0x18
def rlsCtrl (n : Nat) : Nat := stBase n + 0x1400
def meCntClear (n : Nat) : Nat := stBase n + 0x1404
def rlsHits (n : Nat) : Nat := stBase n + 0x1408
def rlsMisses (n : Nat) : Nat := stBase n + 0x1410
def rmtStatus (n : Nat) : Nat := stBase n + 0x3000
def rmtErrAddr (n : Nat) : Nat := stBase n + 0x3008
def scrubStatus (n : Nat) : Nat := stBase n + 0x1F000
def scrubPasses (n : Nat) : Nat := stBase n + 0x1F008
def slabCtrl (n b : Nat) : Nat := slabBase n b
def slabStatus (n b : Nat) : Nat := slabBase n b + 4
def slabErrlog (n b : Nat) : Nat := slabBase n b + 8
def slabCntClear (n b : Nat) : Nat := slabBase n b + 0xC
def slabCe (n b : Nat) : Nat := slabBase n b + 0x10
def slabUe (n b : Nat) : Nat := slabBase n b + 0x18
def slabUnsched (n b : Nat) : Nat := slabBase n b + 0x20
def slabConf (n b k : Nat) : Nat := slabBase n b + 0x80 + 8 * k
def swStatus (n b : Nat) : Nat := swBase n b
def ptUnpaired (n b : Nat) : Nat := swBase n b + 4
def swCntClear (n b : Nat) : Nat := swBase n b + 8
def ptOverflow (n b : Nat) : Nat := swBase n b + 0x10
def ptBadtag (n b : Nat) : Nat := swBase n b + 0x18
def swWords (n b : Nat) : Nat := swBase n b + 0x20
def vuCtrl (n v : Nat) : Nat := vuBase n v
def vuStatus (n v : Nat) : Nat := vuBase n v + 4
def vuInstrDone (n v : Nat) : Nat := vuBase n v + 0x10
def vuIssueCyc (n v : Nat) : Nat := vuBase n v + 0x18
def vuElemDone (n v : Nat) : Nat := vuBase n v + 0x20
def vuAmax (n v r : Nat) : Nat := vuBase n v + 0x100 + 4 * r
def vuFpflags (n v : Nat) : Nat := vuBase n v + 0x110
def vuNumClear (n v : Nat) : Nat := vuBase n v + 0x114
def vuSat (n v : Nat) : Nat := vuBase n v + 0x118
def vuNan (n v : Nat) : Nat := vuBase n v + 0x120
def vuFtq (n v c : Nat) : Nat := vuBase n v + 0x200 + 4 * c
def muCtrl (n b : Nat) : Nat := muBase n b
def muStatus (n b : Nat) : Nat := muBase n b + 4
def muSlotState (n b : Nat) : Nat := muBase n b + 8
def muAlias (n b : Nat) : Nat := muBase n b + 0xC
def muCntClear (n b : Nat) : Nat := muBase n b + 0x10
def muPassDone (n b : Nat) : Nat := muBase n b + 0x18
def muIssueCyc (n b : Nat) : Nat := muBase n b + 0x20
def muSat (n b : Nat) : Nat := muBase n b + 0x28
def muCe (n b : Nat) : Nat := muBase n b + 0x30
def muTag (n b s : Nat) : Nat := muBase n b + 0x40 + 4 * s
end Reg

/-! ### Reset values (Reset columns of the register tables) -/

/-- Local offsets of a station block whose Reset is not 0: ST_PWR_STATUS reads ACTIVE (Table 17.8). -/
def stationReset (o : Nat) : W64 := if o = 0x38 then 5 else 0

/-- The Reset value of the register at a BAR0 offset, where it is not computed from other state. -/
def regReset (o : Nat) : W64 :=
  if o < 0x2000 then
    if o = Reg.coSeqNext then 1
    else if 0x1000 ≤ o ∧ o < 0x1400 ∧ o % 0x40 = 0x10 then 8
    else if 0x1000 ≤ o ∧ o < 0x1400 ∧ o % 0x40 = 0x14 then 0x2000
    else 0
  else if o < 0x1000000 then
    if o = Reg.gangInterval then 256
    else if o = Reg.pwrCap then 2400
    else if o = Reg.sbAlertEn then 0x37
    else if o = Reg.sbTwarn then 106
    else if o = Reg.evqCtrl then 8
    else if o = Reg.ttCtrl then 3
    else if o = Reg.ilCtrl then 1
    else if o = Reg.ilDepotFree then 0xF0000000F000
    else if 0x800000 ≤ o ∧ o < 0x900000 ∧ o % 0x10000 = 0 then 0x45
    else if o = Reg.epCtrl then 1
    else if o = Reg.epDimMap then 0x2C688
    else if o = Reg.epTimeoutAcc then 1000
    else if o = Reg.epTimeoutWait then 1000
    else if epBase < o ∧ o ≤ epBase + 0x80000 ∧ o % 0x10000 = 0 then 1
    else 0
  else if o < 0x2000000 then stationReset (o % 0x100000)
  else if o = Reg.secBootDeadline then 10
  else 0

/-! ### Fields that host software writes -/

/-- Rows of registers of one layout: first offset in the block, how many and how far apart, width in bytes, the RW
bits, the RW1C bits, and whether clearing a RW1C bit clears the whole register. -/
structure RegRow where
  base : Nat
  count : Nat := 1
  stride : Nat := 4
  width : Nat := 4
  rw : Nat := 0
  w1c : Nat := 0
  clearAll : Bool := false
  deriving DecidableEq, Repr

/-- How far apart a row's registers are: one register alone, wider than a word, takes its own width. -/
def RegRow.step (r : RegRow) : Nat := max r.stride r.width

/-- Whether the registers of a row hold an offset. -/
def RegRow.holds (r : RegRow) (o : Nat) : Bool :=
  decide (r.base ≤ o) && decide ((o - r.base) / r.step < r.count) && decide ((o - r.base) % r.step < r.width)

/-- The row of a block that holds an offset, with the offset of the register's first byte. -/
def findRow (l : List RegRow) (o : Nat) : Option (RegRow × Nat) :=
  (l.find? fun r => r.holds o).map fun r => (r, r.base + (o - r.base) / r.step * r.step)

/-- Registers outside the station blocks whose writes act on their own fields alone. -/
def globalRows : List RegRow :=
  [ { base := Reg.coDistSel, rw := 0xF30F },
    { base := Reg.coBar2Base, width := 8, rw := 0x1FFF },
    { base := 0x1014, count := 16, stride := 0x40, w1c := 0x4000 },
    { base := Reg.gangStatus, w1c := 4 },
    { base := Reg.clkStatus, w1c := 0xC000 },
    { base := Reg.pwrStatus, w1c := 0x1000 },
    { base := Reg.cdcStatus, w1c := 0x1F },
    { base := Reg.sbAlert, w1c := 7 },
    { base := Reg.sbAlertEn, rw := 0x3F },
    { base := Reg.tkoStatus, w1c := 0x80 },
    { base := Reg.evqStatus, w1c := 0x2000 },
    { base := Reg.faultStatus, w1c := 0x80 } ]

/-- The timetable, interlocking, DDR, Ermus and security blocks. -/
def blockRows : List RegRow :=
  [ { base := Reg.ttCtrl, rw := 3 },
    { base := Reg.ttErr, width := 8, w1c := 0x8000000000000000, clearAll := true },
    { base := Reg.ttLastDecision, width := 8, w1c := 0x8000000000000000, clearAll := true },
    { base := Reg.ilCtrl, rw := 1 },
    { base := Reg.ilErr, width := 8, w1c := 0x8000000000000000, clearAll := true },
    { base := Reg.ilCsel, rw := 0x3F },
    { base := Reg.ilLsel, rw := 0xFF },
    { base := dmBase 0, count := 16, stride := 0x10000, rw := 0xF7 },
    { base := dmBase 0 + 0x10, count := 16, stride := 0x10000, width := 8,
      w1c := 0x8000000000000000, clearAll := true },
    { base := Reg.epCtrl, rw := 3 },
    { base := Reg.epStatus, w1c := 1 },
    { base := Reg.epTimeoutAcc, rw := 0xFFFFF },
    { base := Reg.epTimeoutWait, rw := 0xFFFFF },
    { base := portBase 0 + 4, count := 8, stride := 0x10000, w1c := 0x1000 },
    { base := Reg.secStatus, w1c := 2 } ]

/-- The station block, its units' registers apart, with plane registers left out. -/
def stationRows : List RegRow :=
  [ { base := 4, w1c := 8 },
    { base := 0x60, w1c := 0x1F },
    { base := 0x80, rw := 0xFFFFFFFF },
    { base := 0x100, rw := 0xFFF },
    { base := 0x108, w1c := 0x4000 },
    { base := 0x200, rw := 3 },
    { base := 0x1004, count := 8, stride := 0x40, w1c := 0x80000000, clearAll := true },
    { base := 0x1400, rw := 1 },
    { base := 0x3000, w1c := 1 },
    { base := 0x20004, count := 256, stride := 0x100, w1c := 1 },
    { base := 0x20008, count := 256, stride := 0x100, w1c := 0x80000000, clearAll := true },
    { base := 0x30004, count := 256, stride := 0x100, w1c := 0x80000000, clearAll := true } ]

/-- A vector unit's registers. -/
def vuRows : List RegRow :=
  [ { base := 4, w1c := 4 },
    { base := 0x110, w1c := 0x1F } ]

/-- A Matrix Unit's registers. -/
def muRows : List RegRow :=
  [ { base := 4, w1c := 8 },
    { base := 0xC, w1c := 0x80, clearAll := true } ]

/-- Plane registers of the station block: ST_CTRL, Q_CTRL, the transfer descriptors and multicast sets, and
BAY_SLAB_CTRL (R133, R167, R202, R253). -/
def stationPlaneRows : List RegRow :=
  [ { base := 0, rw := 3 },
    { base := 0x104, rw := 3 },
    { base := 0x2000, count := 256, stride := 8, width := 8, rw := 0x3FFFFFFFFFFF },
    { base := 0x10000, count := 512, stride := 64, rw := 0x7FFFFF },
    { base := 0x10004, count := 512, stride := 64, rw := 0x7FF },
    { base := 0x10008, count := 512, stride := 64, rw := 0xFFFFFF },
    { base := 0x1000C, count := 512, stride := 64, rw := 0xFFFF },
    { base := 0x10010, count := 512, stride := 64, rw := 0xFFFFFFFF },
    { base := 0x10014, count := 512, stride := 64, rw := 0xFFFFFFFF },
    { base := 0x10018, count := 512, stride := 64, rw := 0xFFFFFFFF },
    { base := 0x1001C, count := 512, stride := 64, rw := 0xFFFFFFFF },
    { base := 0x10020, count := 512, stride := 64, rw := 0xFFFFFFFF },
    { base := 0x10024, count := 512, stride := 64, rw := 0xFFFFFFFF },
    { base := 0x20000, count := 256, stride := 0x100, rw := 7 } ]

/-- Plane registers of a vector unit (R109). Descriptor 0 is none of them (Table 4.6). -/
def vuPlaneRows : List RegRow :=
  [ { base := 0, rw := 3 },
    { base := 0x410, count := 31, stride := 16, rw := 0xFFF },
    { base := 0x414, count := 31, stride := 16, rw := 0xFFFFFFFF },
    { base := 0x418, count := 31, stride := 16, rw := 0xFFFFFFFF },
    { base := 0x41C, count := 31, stride := 16, rw := 0xFFFFFFFF },
    { base := 0x1000, count := 256, stride := 16, rw := 0x7FFFFF },
    { base := 0x1004, count := 256, stride := 16, rw := 0x3FFFFFFF },
    { base := 0x1008, count := 256, stride := 16, rw := 0xFFFFFFFF },
    { base := 0x100C, count := 256, stride := 16, rw := 0xFFFFFFFF } ]

/-- Plane registers of a Matrix Unit (R62). -/
def muPlaneRows : List RegRow :=
  [ { base := 0, rw := 3 },
    { base := 0x80, count := 32, rw := 0xFFFFFFFF },
    { base := 0x400, count := 32, stride := 32, rw := 0x7FFFFFFF },
    { base := 0x404, count := 32, stride := 32, rw := 0xFFFFFF },
    { base := 0x408, count := 32, stride := 32, rw := 0xFFFF },
    { base := 0x40C, count := 32, stride := 32, rw := 0xFFFFFF },
    { base := 0x410, count := 32, stride := 32, rw := 0xFFFFFFC1 },
    { base := 0x414, count := 32, stride := 32, rw := 0xFFFFFFC1 },
    { base := 0x418, count := 32, stride := 32, rw := 0xFFF },
    { base := 0x41C, count := 32, stride := 32, rw := 0x11F } ]

/-- What host bits become in a register: RW bits take the value written, RW1C bits that are written 1 clear, every
other bit keeps its value (R8). -/
def hostWritten (row : RegRow) (old new : Nat) : Nat :=
  if row.clearAll ∧ new &&& row.w1c ≠ 0 then 0
  else (old - (old &&& row.rw)) ^^^ ((old &&& row.w1c) &&& (new &&& row.w1c)) ||| (new &&& row.rw)

end Sys2Proof.Machine
end

