-- ==== Sys2Proof/Machine/State.lean ====
section
/-! DEFINITION. The state of the block as plain data: the memories and registers (`Mems`), the running parts of
every unit, engine and port (`Dev`), and the queue of waiting commands. Each structure's docstring names the
chapters or rules of the spec that give it. Sparse tables are `FMap`s: an unlisted key reads as the default that
the accessor in Ops.lean names. -/

namespace Sys2Proof.Machine
open Sys2Proof

/-- Why the machine stops. -/
inductive Fault where
  /-- Raised by every command but COLD_RESET and LOSS_OF_POWER after a rail has left its tolerance: the spec
  gives the device no state then (R445). Safe: the machine says nothing about such a device. -/
  | undefinedState
  deriving DecidableEq, Repr

/-- Why a command has no meaning. -/
inductive Refusal where
  /-- Raised by an arm of `exec` whose meaning is not written yet. Safe. -/
  | notModelled (mnemonic : String)
  /-- Raised by every meaning when an operand names no unit, port, register or row that the part has
  (`Instr.wellFormed`). Safe: the hardware has no such command. -/
  | illFormed
  deriving DecidableEq, Repr

/-! ### Memories and registers -/

/-- The stores that commands write through a log (Ops.lean): the slabs by scratchpad offset (R112), DDR space by
DDR offset (R239), the registers by BAR0 offset (R342, Table 13.3) with the stall counters of units and stations
above them (`stallKey` in Timing), and the plane storage (`planeKey` in Ops). -/
structure Mems where
  slab  : List Host.Cell := []
  ddr   : List Host.Cell := []
  regs  : FMap W64 := []
  plane : FMap W64 := []
  deriving DecidableEq, Repr, Inhabited

/-! ### Outputs, faults and events -/

/-- What the device sends to its surroundings, newest first in `Dev.out`. -/
inductive Output where
  /-- A posted write to host memory (R339). -/
  | hostWrite (addr : Nat) (data : Bytes)
  /-- An MSI-X message of a vector (R365). -/
  | msix (vector : Nat)
  /-- A read request to host memory, with its tag (R223 kind 1). -/
  | hostRead (tag addr len : Nat)
  /-- The answer to a BAR2 read: data, poisoned data, or Unsupported Request (Table 13.4). -/
  | bar2 (data : Bytes) (poisoned unsupported : Bool)
  /-- The answer to a PCIe configuration request (R341, R403). -/
  | config (value : W32)
  /-- A flit on a physical Ermus port (R257). -/
  | flit (port : Nat) (data : Bytes)
  /-- An IDENT flit on a port (R262): device ID, torus, direction and versions. The spec gives its contents, not its bytes. -/
  | ident (port device torus dir versions : Nat)
  /-- Data on the I3C interface (R449), least significant byte first. -/
  | i3c (data : Bytes)
  /-- The bits a JTAG instruction puts between TDI and TDO (R452), with the register's length. -/
  | tdo (bits : W64) (length : Nat)
  deriving DecidableEq, Repr

/-- An event on its way to the event arbiter (R361). -/
structure Event where
  addr : Nat := 0
  bit  : Nat := 0
  ctx  : Nat := 0
  info : Nat := 0
  /-- ARCLK cycle in which the event reached the arbiter (R362). -/
  due  : Nat := 0
  deriving DecidableEq, Repr, Inhabited

/-- A unit of a station or of the device, as a context ID names it (R382): unit class, station, bay field and
sub-unit. -/
structure UnitRef where
  cls : Nat := 0
  st  : Nat := 0
  bay : Nat := 0
  sub : Nat := 0
  deriving DecidableEq, Repr, Inhabited

/-! ### The part: fuses (chapters 01, 16) -/

/-- The fuses, and what the part's grade and stepping fix (R4, R7, R19 to R22, R410 to R416, R454). -/
structure Chip where
  /-- 0 SLN8, 1 SLN12, 2 SLN16. -/
  grade     : Nat := 2
  /-- 0 A0, 1 A1. -/
  stepping  : Nat := 1
  /-- The physical station, 0 to 4, that serves each logical station (R20). -/
  physStn   : List Nat := []
  /-- The unused bay row of each logical station, and whether it replaces a defective row (R19). -/
  spareRow  : List Nat := []
  rowFixed  : List Bool := []
  /-- STN_DEFECT of each die (Table 1.7). -/
  defect    : List Nat := []
  /-- The fuse map of the Ermus ports (R21): the six logical ports, then spares 0 and 1. -/
  portFuse  : List Nat := [0, 1, 2, 3, 4, 5, 6, 7]
  dieId     : W64 := 0
  vkeyDigest : Bytes := []
  /-- The owner key fuses (R411): the bytes blown in each slot, and the BURNT and REVOKED fuses. -/
  okey      : FMap Bytes := []
  burnt     : Nat := 0
  revoked   : Nat := 0
  /-- The six life-cycle fuses, two for each step (R416). -/
  lcFuse    : Nat := 0
  /-- The identity seed fuses (R413); none before PROVISIONED, all ones after DECOMMISSIONED. -/
  seed      : Option Bytes := none
  deriving DecidableEq, Repr, Inhabited

/-! ### Clocks, power, boot (chapters 15 to 18) -/

/-- Clocks, rails and reset pins (R423, R443 to R447, R451). -/
structure Clk where
  /-- CO_ARCLK_NOW: ARCLK cycles since ARCLK started (R424). -/
  arclk    : Nat := 0
  /-- AONCLK cycles since power-up, and the ARCLK cycles counted towards the next one. -/
  aon      : Nat := 0
  aonSub   : Nat := 0
  arclkOn  : Bool := false
  hclkOn   : Bool := false
  /-- Bit g: DCLK of channel group g runs. -/
  dclk     : Nat := 0
  /-- Bit p: FBCLK of physical port p is recovered. -/
  fbclk    : Nat := 0
  sysclk   : Bool := true
  powered  : Bool := true
  /-- PERST_N is low. -/
  perst    : Bool := true
  tripped  : Bool := false
  /-- A rail left its tolerance while PERST_N was deasserted (R445). -/
  undef    : Bool := false
  /-- DDR modules are in self-refresh (R378). -/
  selfRefresh : Bool := false
  deriving DecidableEq, Repr, Inhabited

/-- The boot ROM and the firmware (R403 to R409, R420). -/
structure Boot where
  /-- The boot ROM runs (R403). -/
  rom       : Bool := false
  fw        : Bool := false
  fwKey     : Bytes := []
  fwVersion : Nat := 0
  /-- The AONCLK cycle from which the load deadline counts (R406). -/
  deadlineFrom : Option Nat := none
  fetched   : Bool := false
  /-- DDR training of the firmware start is under way (R408 step 3). -/
  training  : Bool := false
  /-- Resets owed by RESET_DOMAIN or a life-cycle step: (kind, index) of Table 13.7. -/
  owed      : List (Nat × Nat) := []
  /-- A life-cycle transition is in progress, to this state (R419). -/
  lcTarget  : Option Nat := none
  deriving DecidableEq, Repr, Inhabited

/-- The security block (R412 to R418). -/
structure Sec where
  /-- The burn in progress: slot and staged key. -/
  burning : Option (Nat × Bytes) := none
  /-- Draws made from the entropy source. -/
  draws   : Nat := 0
  deriving DecidableEq, Repr, Inhabited

/-! ### Host interface (chapter 13) -/

/-- A command in progress on a ring (R347, Table 13.5). -/
structure Cmd where
  opcode : Nat := 0
  irq    : Bool := false
  tag    : Nat := 0
  plen   : Nat := 0
  params : List W64 := []
  entry  : Nat := 0
  /-- Place in the order of fetches (R347). -/
  order  : Nat := 0
  /-- The command has begun and its reply waits for a later event. -/
  begun  : Bool := false
  deriving DecidableEq, Repr, Inhabited

/-- A command ring (R345): what its registers do not show. -/
structure Ring where
  tail : Nat := 0
  /-- A reply to entry 0 has been written since ENABLE was set. -/
  wrote : Bool := false
  cmd  : Option Cmd := none
  deriving DecidableEq, Repr, Inhabited

/-- A result window (R359). -/
structure Window where
  status : Nat := 2
  job    : Nat := 0
  seq    : Nat := 0
  winLen : Nat := 0
  result : Nat := 0
  record : Bytes := []
  /-- The job that the window names has not been released. -/
  busy   : Bool := false
  deriving DecidableEq, Repr, Inhabited

/-- A BAR2 read whose lines are still to come (R343). -/
structure Bar2Read where
  first : Nat := 0
  len   : Nat := 0
  left  : Nat := 0
  data  : Bytes := []
  bad   : Bool := false
  deriving DecidableEq, Repr, Inhabited

/-- A marshalling write to host memory that is held (R298, R379): address, bytes, the engine piece and its job. -/
structure HeldOut where
  addr  : Nat := 0
  data  : Bytes := []
  st    : Nat := 0
  eng   : Nat := 0
  piece : Nat := 0
  job   : Nat := 0
  deriving DecidableEq, Repr, Inhabited

/-- The host interface beside its registers (R341, R344, R361 to R365). -/
structure HostIf where
  rings    : FMap Ring := []
  lastRing : Nat := 15
  fetches  : Nat := 0
  /-- Configuration space words that were written (command register, BARs). -/
  cfg      : FMap W32 := []
  /-- The MSI-X table and pending bits in BAR4. -/
  msix     : FMap W32 := []
  msixPend : Nat := 0
  windows  : FMap Window := []
  /-- Events on their way to the arbiter, the next EVSEQ, the ring's phase, and the LOST mark (R363). -/
  events   : List Event := []
  evSeq    : Nat := 0
  evPhase  : Bool := true
  evLost   : Bool := false
  /-- BAR2 reads that wait for their channels, by number. -/
  bar2 : FMap Bar2Read := []
  bar2Next : Nat := 0
  /-- Host reads outstanding, by tag: station, engine, piece (R339). -/
  reads    : FMap (Nat × Nat × Nat) := []
  readNext : Nat := 0
  /-- Marshalling writes held while OUT_EN or Bus Master Enable is 0, oldest first. -/
  heldOut  : List HeldOut := []
  deriving DecidableEq, Repr, Inhabited

/-! ### Consists (chapter 11) -/

/-- A region declaration (Table 11.2). -/
structure Region where
  external : Bool := false
  all      : Bool := false
  stations : Nat := 0
  rowFirst : Nat := 0
  rowLast  : Nat := 0
  colFirst : Nat := 0
  colLast  : Nat := 0
  slabBase : Nat := 0
  slabEnd  : Nat := 0
  qFirst   : Nat := 0
  qLast    : Nat := 0
  ddrBase  : Nat := 0
  ddrSize  : Nat := 0
  /-- The declaration's 64 bytes, for the comparison of R302. -/
  raw      : Bytes := []
  deriving DecidableEq, Repr, Inhabited

/-- A frame record (Table 11.3) of a golden copy, after patching. -/
structure Frame where
  kind     : Nat := 0
  grades   : Nat := 0
  region   : Nat := 0
  index    : Nat := 0
  stations : Nat := 0
  all      : Bool := false
  unitFirst : Nat := 0
  unitLast : Nat := 0
  strideLog2 : Nat := 0
  offset   : Nat := 0
  payload  : Bytes := []
  /-- Patches that differ between station copies (R304 STN_INDEX), and those after them, in record order: payload byte,
  width in bytes, 1 where the station's number is added, addend. -/
  stnPatch : List (Nat × Nat × Nat × Nat) := []
  /-- The frame's CRC fails (R389). -/
  bad      : Bool := false
  deriving DecidableEq, Repr, Inhabited

/-- A declared token of a consist with its slot (R205). -/
structure TokDecl where
  st      : Nat := 0
  logical : Nat := 0
  slot    : Nat := 0
  cursors : Nat := 1
  rebase  : Bool := false
  init    : Nat := 0
  deriving DecidableEq, Repr, Inhabited

/-- A declared counter with its physical counter (R216). -/
structure CntDecl where
  logical : Nat := 0
  phys    : Nat := 0
  init    : W64 := 0
  deriving DecidableEq, Repr, Inhabited

/-- A slab range saved at a stopping point (R329). -/
structure LiveRange where
  st       : Nat := 0
  bayFirst : Nat := 0
  bayLast  : Nat := 0
  line     : Nat := 0
  lines    : Nat := 0
  deriving DecidableEq, Repr, Inhabited

/-- A stopping point (R329). -/
structure StopDecl where
  k      : Nat := 0
  dist   : Nat := 0
  ranges : List LiveRange := []
  deriving DecidableEq, Repr, Inhabited

/-- A tap of a milepost (Table 14.5). -/
structure TapDecl where
  st    : Nat := 0
  queue : Nat := 0
  count : Nat := 0
  deriving DecidableEq, Repr, Inhabited

/-- A milepost (Table 14.5). -/
structure MileDecl where
  mp   : Nat := 0
  role : Nat := 0
  taps : List TapDecl := []
  deriving DecidableEq, Repr, Inhabited

/-! ### Matrix Units (chapter 02) -/

/-- The state of an accumulator slot (R47). -/
inductive SlotState where | free | live | draining
  deriving DecidableEq, Repr, Inhabited

/-- An accumulator slot: state, tag and type bit (R47). -/
structure Slot where
  state : SlotState := .free
  tag   : Nat := 0
  int   : Bool := false
  deriving DecidableEq, Repr, Inhabited

/-- A weight block in a weight plane (R34): the element codes in the array format, K index times columns plus
column, and the E8M0 scales of its columns (R70). -/
structure WBlock where
  codes  : List Nat := []
  scales : List Nat := []
  deriving DecidableEq, Repr, Inhabited

/-- A weight block that loads into the shadow plane (R34): the bytes that have come, and the first cycle in which
its load can be complete. -/
structure WLoad where
  bytes : Bytes := []
  need  : Nat := 0
  ready : Nat := 0
  /-- The queue of a block that was not readable at the nominal start of its load (R34, R35). -/
  late  : Option Nat := none
  deriving DecidableEq, Repr, Inhabited

/-- An activation row that has issued and travels to the accumulator (R49). -/
structure MuRow where
  due    : Nat := 0
  slot   : Nat := 0
  tag    : Nat := 0
  int    : Bool := false
  isInit : Bool := false
  first  : Bool := false
  last   : Bool := false
  rowInTile : Nat := 0
  colBase : Nat := 0
  /-- The group sums in issue order, one list for each group, one FP32 or INT32 addend for each column: the exact
  sum as (kind, sign-carrying integer, binary exponent). -/
  groups : List (List (Nat × Int × Int)) := []
  /-- What happens to the tile after this row when it is its last: 0 keep, 1 finished-tile queue, 2 queue. -/
  drain  : Nat := 0
  drainQ : Nat := 0
  /-- The last row of a pass. -/
  passEnd : Bool := false
  deriving DecidableEq, Repr, Inhabited

/-- A tile that drains or waits its turn to (R51). -/
structure MuDrain where
  slot  : Nat := 0
  mode  : Nat := 0
  queue : Nat := 0
  row   : Nat := 0
  /-- Consist cycle from which the slot is DRAINING, and in which the next row may drain. -/
  start : Nat := 0
  next  : Nat := 0
  deriving DecidableEq, Repr, Inhabited

/-- The place of an MU in its pass list (R55, R57). -/
structure MuRun where
  desc  : Nat := 0
  /-- Walk index, current (m-group, n-tile), K-block and row of the pass. -/
  walk  : Nat := 0
  g     : Nat := 0
  n     : Nat := 0
  kb    : Nat := 0
  row   : Nat := 0
  /-- Consist cycle before which no row issues (R58). -/
  next  : Nat := 0
  /-- The next block to load: descriptor, walk index, (g, n), K-block; none when the list has no more. -/
  ldDesc : Nat := 0
  ldWalk : Nat := 0
  ldN   : Nat := 0
  ldKb  : Nat := 0
  ldDone : Bool := false
  /-- The next block was not readable when its load could have begun, and the MU has raised a stall request for it. -/
  ldLate : Bool := false
  ldRaised : Bool := false
  deriving DecidableEq, Repr, Inhabited

/-- A Matrix Unit. -/
structure Mu where
  run      : Option MuRun := none
  curDesc  : Nat := 0
  faulted  : Bool := false
  active   : Option WBlock := none
  shadow   : Option WBlock := none
  load     : Option WLoad := none
  /-- The slab line that the next activation rows read (R455), once it has come. -/
  actLine  : Option (Nat × Bytes) := none
  /-- An activation record that has been read from its queue, with its valid bit. -/
  actRec   : Option (Bytes × Bool) := none
  pipe     : List MuRow := []
  initWait : Bool := false
  slots    : FMap Slot := []
  /-- Accumulator elements: slot × 1024 + row × 64 + column (R47). -/
  acc      : FMap W32 := []
  /-- Codes in error: 1 correctable, 2 uncorrectable (R52). -/
  accErr   : FMap Nat := []
  drains   : List MuDrain := []
  /-- The pass list has issued its last row. -/
  ended    : Bool := false
  satSeen  : Bool := false
  deriving DecidableEq, Repr, Inhabited

/-! ### Vector units (chapters 03 and 04) -/

/-- A tile row in a finished-tile compartment (R104). -/
structure FtRow where
  tag   : Nat := 0
  int   : Bool := false
  elems : List W32 := []
  /-- Consist cycle from which a source may read it. -/
  ready : Nat := 0
  deriving DecidableEq, Repr, Inhabited

/-- Elements on their way to a destination stream (R101). -/
structure VuWrite where
  due   : Nat := 0
  /-- 0 the destination, 1 the row-sum destination: its descriptor, and the instruction. -/
  operand : Nat := 0
  desc  : Nat := 0
  inst  : Nat := 0
  /-- Number of the first cell in the stream, cells in a row and in all, bits of a cell, and the cells, none where an
  element is masked off. -/
  first : Nat := 0
  perRow : Nat := 1
  total : Nat := 1
  width : Nat := 32
  cells : List (Option W64) := []
  deriving DecidableEq, Repr, Inhabited

/-- The place of a VU in its program (R100, R101). -/
structure VuRun where
  inst  : Nat := 0
  elem  : Nat := 0
  /-- Consist cycle from which the next issue may begin. -/
  next  : Nat := 0
  /-- Partial sums of the row being reduced, and of the RED row (R96): one optional value for each of 64. -/
  parts : List (Option W64) := []
  redParts : List (Option W64) := []
  /-- Elements of an MX record being gathered (R97). -/
  block : List (Option W64) := []
  /-- Issue cycles of the instruction so far (R91), and the elements whose slab lines have been asked for (R455). -/
  tick  : Nat := 0
  asked : Nat := 0
  deriving DecidableEq, Repr, Inhabited

/-- A vector unit. -/
structure Vu where
  run     : Option VuRun := none
  curInst : Nat := 0
  faulted : Bool := false
  writes  : List VuWrite := []
  /-- Slab lines read for the next elements (R455): operand, scratchpad line offset, bytes. -/
  lines   : List (Nat × Nat × Bytes) := []
  /-- Words that a destination run has gathered for one line: (operand, line offset, words). -/
  wline   : List (Nat × Nat × List (Nat × W32)) := []
  /-- Cells that a queue destination has gathered for one row, by operand. -/
  wrow    : FMap (List Nat) := []
  /-- Rows of queue and finished-tile sources that have been read: operand + 8 × row, and bytes. -/
  qrows   : FMap Bytes := []
  /-- Consist cycle of the last write made. -/
  lastWrite : Nat := 0
  comps   : FMap (List FtRow) := []
  ended   : Bool := false
  flagSeen : Bool := false
  satSeen : Bool := false
  deriving DecidableEq, Repr, Inhabited

/-! ### Slabs (chapter 05) -/

/-- Who made a slab request, and what its data is for. -/
inductive PortUser where
  | muWeight | muAct
  | vuRead (vu operand : Nat)
  | vuWrite (vu : Nat)
  | engine (st e piece : Nat)
  | remote (pkt : Nat)
  | sample (ring : Nat)
  | scrub
  /-- The switch node, for a queue (station × 4,096 + queue): a ring header that is written at admission, by the record's
  pointer; a word of a ring message, by message number and word; a read of the record at a ring's head; a spill's read of a
  ring record; a write and a read of a siding record. -/
  | ringHead (key pos : Nat)
  | ringWord (key seq idx : Nat)
  | ringRead (key : Nat) (eng : Bool)
  | ringCopy (key : Nat)
  | sideWrite (key : Nat)
  | sideRead (key : Nat)
  deriving DecidableEq, Repr, Inhabited

/-- A request at a slab port (R113, R118). -/
structure PortReq where
  order : Nat := 0
  sub   : Nat := 0
  age   : Nat := 0
  user  : PortUser := .muAct
  write : Bool := false
  /-- Slab byte address and length; a write's data with a mask of the words it enables. -/
  addr  : Nat := 0
  len   : Nat := 128
  words : List (Nat × W32) := []
  /-- The instruction of a vector unit's write. -/
  inst  : Nat := 0
  /-- Consist cycle in which a scheduled requester makes it. -/
  due   : Nat := 0
  /-- `due` counts in ARCLK cycles. -/
  arc   : Bool := false
  /-- The job in whose consist time `due` counts. -/
  job   : Option Nat := none
  deriving DecidableEq, Repr, Inhabited

/-- A slab port: waiting requests, and the bank that the last access took with its cycle (R117). -/
structure SlabPort where
  reqs : List PortReq := []
  bank : Nat := 0
  cyc  : Option Nat := none
  /-- The ARCLK cycle for which the port has decided, and one more cycle taken by a scrub's write-back. -/
  seen : Option Nat := none
  deriving DecidableEq, Repr, Inhabited

/-! ### Networks, queues and points (chapters 06 and 07) -/

/-- A message that a sender has ready for a route (R141, R173). -/
structure OutMsg where
  unit  : UnitRef := {}
  dstSt : Nat := 0
  queue : Nat := 0
  net   : Nat := 0
  bytes : Bytes := []
  valid : Bool := true
  /-- 0 not yet offered, 1 request travels, 2 waits for room, 3 decided or granted and the grant travels, 4 granted. -/
  stage : Nat := 0
  due   : Nat := 0
  /-- Words sent, and the message's number in the queue once admitted. -/
  sent  : Nat := 0
  seq   : Nat := 0
  /-- Consist cycle in which its grant reached the sender (R174). -/
  grantAt : Nat := 0
  /-- The place of a points unit's item in the order of its entry's decisions (R145). -/
  order : Nat := 0
  deriving DecidableEq, Repr, Inhabited

/-- A network word in flight to a queue (R138, R178). -/
structure NetWord where
  due   : Nat := 0
  /-- The sender, by which FENCE knows a SEND (R211). -/
  unit  : UnitRef := {}
  seq   : Nat := 0
  idx   : Nat := 0
  bytes : Bytes := []
  /-- `due` counts in ARCLK cycles; and the engine piece (station, engine, piece) whose write ends with this word. -/
  arc   : Bool := false
  eng   : Option (Nat × Nat × Nat) := none
  deriving DecidableEq, Repr, Inhabited

/-- An admission request at a home bay or on its way (R173, R176). -/
structure AdmReq where
  /-- Arrival cycle, and the order key of R176. -/
  due   : Nat := 0
  key   : Nat := 0
  /-- On-chip sender: station, bay, route. Station router: the engine (station, engine, copy) or the packet. -/
  router : Bool := false
  st    : Nat := 0
  bay   : Nat := 0
  route : Nat := 0
  eng   : Option (Nat × Nat × Nat) := none
  pkt   : Option Nat := none
  len   : Nat := 0
  valid : Bool := true
  arrived : Bool := false
  /-- `due` counts in ARCLK cycles until the request arrives, and `adm`, from which it may be admitted, counts so too. -/
  arc   : Bool := false
  adm   : Nat := 0
  /-- Payload of a router message, which arrives whole (R276). -/
  bytes : Bytes := []
  /-- The request of the queue's own combiner for its sum (R186). -/
  comb  : Bool := false
  deriving DecidableEq, Repr, Inhabited

/-- A message held by a queue (R178): its length, header fields and the words that have arrived. -/
structure Msg where
  len   : Nat := 0
  valid : Bool := true
  srcBay : Nat := 0
  srcStn : Nat := 0
  seq   : Nat := 0
  pos   : Nat := 0
  /-- Payload bytes of a short queue or of a siding record; those of a ring lie in the slab. -/
  bytes : FMap Byte := []
  /-- Word index and the cycle from which a receiver may read it. -/
  words : List (Nat × Nat) := []
  deriving DecidableEq, Repr, Inhabited

/-- A station queue beside its descriptor (R169, R181, R192). -/
structure Queue where
  head  : Nat := 0
  tail  : Nat := 0
  seq   : Nat := 0
  msgs  : List Msg := []
  reqs  : List AdmReq := []
  flight : List NetWord := []
  /-- Siding records, oldest first, and the siding's write position and bytes used (R193). -/
  siding : List Msg := []
  sidePos : Nat := 0
  sideUsed : Nat := 0
  /-- The receiver steps over a record until this cycle (R184), and the cycle from which a siding record that it has
  asked for may be read (R194). -/
  busy  : Nat := 0
  ask   : Option Nat := none
  /-- The receiver's reading of the record at the head: bytes of it that have been asked of the slab port, header
  included, line reads not yet served, the first uncorrectable word met, and words of the message that it has read. -/
  asked : Nat := 0
  unread : Nat := 0
  bad   : Option Nat := none
  readW : Nat := 0
  /-- Bytes of the head message that the waiting receiver needs, 0 for all (R158). -/
  want  : Nat := 0
  /-- The combiner of a combining queue (R186): the number of the admitted sum, and the cycle in which it has read the
  contributions, once it reads. -/
  sum   : Option Nat := none
  comb  : Option Nat := none
  spills : W64 := 0
  balance : W64 := 0
  empty : W64 := 0
  full  : W64 := 0
  waves : W64 := 0
  deriving DecidableEq, Repr, Inhabited

/-- A points entry's progress (R145 to R147). -/
structure Points where
  counts : List Nat := []
  epochPos : Nat := 0
  /-- Padding owed at the end of an epoch: (route or input, items). -/
  owed   : List (Nat × Nat) := []
  /-- The consist cycle from which the next decision may be made, and the number of the next item sent (R145). -/
  next   : Nat := 0
  sends  : Nat := 0
  deriving DecidableEq, Repr, Inhabited

/-! ### Tokens and tickets (chapter 08) -/

/-- The state of a token slot (R206). -/
inductive TokState where | unassigned | idle | active | stabled | poisoned
  deriving DecidableEq, Repr, Inhabited

/-- A wait held on a token: by the signal box of a station, or by a remote packet. -/
structure Waiter where
  st    : Nat := 0
  pkt   : Option Nat := none
  cursor : Nat := 0
  k     : Nat := 0
  consume : Bool := true
  deriving DecidableEq, Repr, Inhabited

/-- A token slot (R204, Table 8.6). -/
structure Token where
  state   : TokState := .unassigned
  logical : Nat := 0
  spread  : Bool := false
  owner   : Nat := 0
  consist : Nat := 0
  cursors : Nat := 1
  rebase  : Bool := false
  prod    : Nat := 0
  cons    : List Nat := [0, 0, 0, 0]
  waiters : List Waiter := []
  /-- A station reset took its counts while the owner was stabled (Table 8.3). -/
  wiped   : Bool := false
  deriving DecidableEq, Repr, Inhabited

/-- A token operation on its way, held at the token's station (R208, R220): 0 SIG, 1 WAIT, 2 TKRD. -/
structure TokOp where
  slot  : Nat := 0
  kind  : Nat := 0
  srcSt : Nat := 0
  /-- 0 the signal box, 1 + e engine e (R214). -/
  src   : Nat := 0
  val   : Nat := 0
  cursor : Nat := 0
  flag  : Bool := false
  rd    : Nat := 0
  due   : Nat := 0
  job   : Nat := 0
  deriving DecidableEq, Repr, Inhabited

/-- A ticket-office request on its way (R217, R218): 0 TICKET, 1 TKLD, 2 TKST. -/
structure TkoOp where
  k     : Nat := 0
  kind  : Nat := 0
  st    : Nat := 0
  val   : W64 := 0
  rd    : Nat := 0
  due   : Nat := 0
  job   : Nat := 0
  deriving DecidableEq, Repr, Inhabited

/-- A value on its way to a signal-box register (R217, R220). -/
structure Reply where
  rd  : Nat := 0
  val : W64 := 0
  due : Nat := 0
  /-- The value is written; a wake of a WAIT writes none. -/
  write : Bool := true
  /-- It ends the signal box's wait. -/
  wakes : Bool := true
  /-- It comes from the ticket office. -/
  ticket : Bool := false
  /-- The wait ended on a POISONED slot (R215): its slot and station. -/
  poisoned : Option (Nat × Nat × Nat) := none
  deriving DecidableEq, Repr, Inhabited

/-! ### Marshalling engines and DDR (chapter 09) -/

/-- A piece of a transfer (R225): what it reads, what it writes, and how far it is. -/
structure Piece where
  /-- The descriptor's number in the engine's order, and the piece's row and offset in the row. -/
  run  : Nat := 0
  row  : Nat := 0
  off  : Nat := 0
  src  : Nat := 0
  dst  : Nat := 0
  len  : Nat := 0
  /-- The piece whose read brings the source line (R227). -/
  rd   : Nat := 0
  /-- 0 reading, 1 data held, 2 writing, 3 done. -/
  stage : Nat := 0
  data : Bytes := []
  /-- Writes still to take effect (multicast has several). -/
  left : Nat := 0
  /-- When its data is at the engine, or its write took effect: in consist cycles, or in ARCLK cycles where `arc`. -/
  due  : Nat := 0
  arc  : Bool := false
  deriving DecidableEq, Repr, Inhabited

/-- A descriptor that an engine runs or has run and not yet completed (R226). -/
structure EngDesc where
  id    : Nat := 0
  desc  : Nat := 0
  addSrc : Nat := 0
  addDst : Nat := 0
  issued : Bool := false
  /-- A request of it has failed: the piece from which on nothing is written (R232). -/
  cut : Option Nat := none
  deriving DecidableEq, Repr, Inhabited

/-- A source line that an engine has read (R227): its kind and address, the piece that read it, and its data. -/
structure SrcLine where
  kind : Nat := 0
  line : Nat := 0
  rd   : Nat := 0
  data : Option Bytes := none
  deriving DecidableEq, Repr, Inhabited

/-- A row's admission to a queue, kept for each copy (R173, R228): the row, the number that the queue gave the message
once it is granted, the request's stage (0 travels, 1 waits for room), and when the next word may leave. -/
structure QGrant where
  run  : Nat := 0
  row  : Nat := 0
  seq  : Option Nat := none
  held : Bool := false
  next : Nat := 0
  arc  : Bool := false
  deriving DecidableEq, Repr, Inhabited

/-- A marshalling engine (R223 to R232). -/
structure Engine where
  busy  : Bool := false
  /-- The job whose list it runs. -/
  job   : Nat := 0
  /-- Descriptors not yet completed, oldest first; the last one issues. -/
  descs : List EngDesc := []
  /-- The next piece to issue, requests issued of the descriptor, the cycle of its first, and the cycle from which the
  next may issue. -/
  row   : Nat := 0
  off   : Nat := 0
  count : Nat := 0
  first : Nat := 0
  next  : Nat := 0
  runNext : Nat := 0
  pieces : FMap Piece := []
  pieceNext : Nat := 0
  curDesc : Nat := 0
  /-- A failure has stopped it (R232), and ST_MEe_STATUS.ERROR. -/
  halted : Bool := false
  error : Bool := false
  /-- The source lines that the descriptor has read, the last one used last, and the last source line of the descriptor
  before it (R227). -/
  lines : List SrcLine := []
  prevLine : Option SrcLine := none
  /-- The source queue's message: its row and bytes, and when it is at the engine. -/
  rowBuf : Option (Nat × Nat × Bytes × Nat) := none
  grants : FMap QGrant := []
  /-- The cycle in which the last write reaches its destination. -/
  wdue  : Nat := 0
  warc  : Bool := false
  deriving DecidableEq, Repr, Inhabited

/-- A line of the remote line store (R234): global line address, data, last use; none while its fill is pending. -/
structure RlsLine where
  way  : Nat := 0
  addr : Nat := 0
  data : Bytes := []
  used : Nat := 0
  deriving DecidableEq, Repr, Inhabited

/-- A fill of the remote line store (R235, R236). -/
structure RlsFill where
  addr : Nat := 0
  /-- The line, once it has returned. -/
  data : Option Bytes := none
  /-- Whether it is installed when it returns. -/
  install : Bool := true
  waiters : List (Nat × Nat) := []
  deriving DecidableEq, Repr, Inhabited

/-- Who made a DDR request. -/
inductive DdrUser where
  | engine (st e piece : Nat)
  | remote (pkt : Nat)
  | bar2 (tag : Nat)
  | writeBack
  | scrub
  | sampling (ring : Nat)
  | log (job : Nat)
  | siding (st q : Nat)
  deriving DecidableEq, Repr, Inhabited

/-- A DDR request (R245, R249). -/
structure DdrReq where
  user  : DdrUser := .scrub
  write : Bool := false
  off   : Nat := 0
  len   : Nat := 128
  data  : Bytes := []
  /-- Parts of one masked write: offset and bytes; where there are none, `data` is written at `off`. -/
  segs  : List (Nat × Bytes) := []
  job   : Option Nat := none
  /-- Arrival at the port, then delivery: in consist cycles of the job, or in ARCLK cycles where `arc`. -/
  due   : Nat := 0
  arc   : Bool := true
  age   : Nat := 0
  /-- It has reached the port; and it waited there over a retrain (R251). -/
  arrived : Bool := false
  waited  : Bool := false
  /-- What the symbol code found in the line when it was read: 0 nothing, 1 + d corrected in device d, 32 uncorrectable. -/
  err   : Nat := 0
  deriving DecidableEq, Repr, Inhabited

/-- A DDR channel (R244 to R251) beside its registers. -/
structure DdrCh where
  /-- 0 reordering, 1 timetabled, 2 offline, 3 not trained. -/
  service : Nat := 3
  job     : Option Nat := none
  /-- Requests on their way to or waiting at the port, oldest first; requests served and not yet done; held. -/
  port    : List DdrReq := []
  served  : List DdrReq := []
  held    : List DdrReq := []
  /-- Recent arrivals for R246: cycle, rank, write, bank. -/
  recent  : List (Nat × Nat × Bool × Nat) := []
  /-- The last refresh of each rank, in ARCLK cycles. -/
  refresh : List Nat := [0, 0]
  /-- The last gap in which each rank was refreshed: its number from 1, or 0 (R247). -/
  gaps    : List Nat := [0, 0]
  /-- Corrected lines to write back: DDR line offset. -/
  backs   : List Nat := []
  scrubOn : Bool := false
  scrubNext : Nat := 0
  retrain : Option Nat := none
  capacity : Nat := 3
  /-- A training of the channel has ended: DM_STATUS shows it (R408). -/
  known   : Bool := false
  ages    : Nat := 0
  deriving DecidableEq, Repr, Inhabited

/-! ### Ermus fabric (chapter 10) -/

/-- A packet (Table 10.8). -/
structure Packet where
  op    : Nat := 0
  status : Nat := 0
  src   : Nat := 0
  dest  : Nat := 0
  ctx   : Nat := 0
  addr  : Nat := 0
  tag   : Nat := 0
  len   : Nat := 0
  arg   : W64 := 0
  data  : Bytes := []
  vc    : Nat := 0
  /-- The dimension the packet travels in, 3 for none yet (R268). -/
  dim   : Nat := 3
  /-- The physical input port it came in on, none for a packet of this device; its pool and the flits that it still
  holds there. -/
  port  : Option Nat := none
  pool  : Nat := 0
  flits : Nat := 0
  /-- It has been delivered to this device and waits for its target. -/
  arrived : Bool := false
  /-- The ARCLK cycle from which the port switches may send it on (R270), and its flits that they have sent. -/
  due   : Nat := 0
  sent  : Nat := 0
  /-- Its request has been taken and its answer comes later: parts still to come, and whether one was uncorrectable. -/
  taken : Bool := false
  left  : Nat := 0
  bad   : Bool := false
  deriving DecidableEq, Repr, Inhabited

/-- A physical Ermus port (R255 to R264, R285). Pools are numbered 2 × class + virtual channel. -/
structure EpPort where
  /-- Flits kept for replay: SEQ, bytes, times sent. -/
  replay  : List (Nat × Bytes × Nat) := []
  txNext  : Nat := 0
  rxNext  : Nat := 0
  /-- A flit has been received in order since the link came up. -/
  rxSome  : Bool := false
  nakSent : Bool := false
  credits : List Nat := [0, 0, 0, 0]
  /-- Flits of a packet that has not come whole, by pool. -/
  rxPools : FMap (List Bytes) := []
  /-- Flits received since the last acknowledgement, and the ARCLK cycle of that. -/
  unacked : Nat := 0
  ackFrom : Nat := 0
  /-- The ARCLK cycle of the last acknowledgement received, or in which the replay buffer last became non-empty. -/
  lastAck : Nat := 0
  attempts : Nat := 0
  /-- The ring whose PORT_OPEN or PORT_CLOSE waits for the port, and the drain's limit. -/
  ring    : Option Nat := none
  drainEnd : Option Nat := none
  /-- Credits to return, by pool. -/
  owe     : List Nat := [0, 0, 0, 0]
  /-- The input of the port switch that the port served last: an input port, or 8 for this device's own (R270). -/
  served  : Nat := 8
  deriving DecidableEq, Repr, Inhabited

/-- An outstanding remote operation of a station (R278). -/
structure RemEntry where
  /-- 0 the signal box, 1 + e engine e. -/
  unit  : Nat := 0
  /-- Operation of Table 10.8; write entries are store, message, combine and signal. -/
  op    : Nat := 0
  rd    : Nat := 0
  size  : Nat := 8
  addr  : Nat := 0
  issued : Nat := 0
  limit : Nat := 0
  job   : Nat := 0
  piece : Nat := 0
  fill  : Bool := false
  /-- Place in the order of issue, by which FENCE knows an earlier write (R211). -/
  order : Nat := 0
  deriving DecidableEq, Repr, Inhabited

/-! ### Signal boxes and stations (chapters 06, 12, 17) -/

/-- What a signal box waits for. -/
inductive SbWait where
  | none
  /-- WAIT on a token, or TICKET or TKLD for its reply: `Reply` ends it. -/
  | reply
  /-- A remote operation's response, by entry tag (R277). -/
  | remote (tag : Nat)
  /-- FENCE, until this consist cycle at least (R211): for each engine the pieces numbered below a count, and the
  remote writes ordered below a count, must have taken effect. -/
  | fence (least : Nat) (pieces : List Nat) (remote : Nat)
  /-- STOP at a stopping point at which stabling is due (R330). -/
  | stop (k : Nat)
  deriving DecidableEq, Repr, Inhabited

/-- A start on its way to a unit, or a completion on its way to the signal box (R154, R230). Kind 0 MU, 1 VU,
2 engine. -/
structure UnitMsg where
  kind : Nat := 0
  unit : Nat := 0
  idx  : Nat := 0
  ovr  : Nat := 0
  due  : Nat := 0
  deriving DecidableEq, Repr, Inhabited

/-- A signal box (R152, R154). -/
structure SigBox where
  regs    : FMap W64 := []
  pc      : Nat := 0
  running : Bool := false
  ended   : Bool := false
  /-- Consist cycle from which the next instruction may issue, and from which each register may be used. -/
  next    : Nat := 0
  ready   : FMap Nat := []
  wait    : SbWait := .none
  /-- Pending starts, keyed by 512 × kind + unit; starts and completions on their way. -/
  pend    : FMap UnitMsg := []
  starts  : List UnitMsg := []
  dones   : List UnitMsg := []
  replies : List Reply := []
  deriving DecidableEq, Repr, Inhabited

/-- A tap register in use (R372 to R376): the queue, the job, its instance and milepost, messages left to fold, and
the partial digest `y` and byte count `n` of R374. -/
structure Tap where
  queue : Nat := 0
  job   : Nat := 0
  inst  : Nat := 0
  mp    : Nat := 0
  left  : Nat := 0
  y     : Nat := 0
  n     : Nat := 0
  deriving DecidableEq, Repr, Inhabited

/-- A result of a late latency entry in an elastic run (R310): its unit, the consist cycle in which it falls due as
declared, the one in which the part writes it, its number, and whether its stall request is raised. -/
structure LateResult where
  unit   : UnitRef := {}
  due    : Nat := 0
  act    : Nat := 0
  id     : Nat := 0
  raised : Bool := false
  deriving DecidableEq, Repr, Inhabited

/-- The job that still ends on a station while a newer one runs there (R327): its plane, its signal box, and what a
station holds for its job. -/
structure Prev where
  job     : Nat := 0
  plane   : Bool := false
  sb      : SigBox := {}
  late    : List LateResult := []
  milesRun : Nat := 0
  ptSeen  : Bool := false
  work    : Bool := false
  moved   : Bool := false
  deriving DecidableEq, Repr, Inhabited

/-- A station beside its registers. -/
structure Station where
  /-- The job whose plane the signal box holds, and during an overlap the job before it, which still ends (R327). -/
  job     : Option Nat := none
  prev    : Option Prev := none
  /-- Token operations on their way to this station's slots, and requests on their way from it to the ticket office. -/
  tokOps  : List TokOp := []
  tkoOps  : List TkoOp := []
  /-- The active plane of the station-level state (R106, R326); bays and VUs have selectors of their own. -/
  plane   : Bool := false
  /-- The job for which the standby planes hold an installation, and whether they are armed (R326). -/
  standby : Option Nat := none
  armed   : Bool := false
  /-- The plane of each bay and vector unit, where it is plane 1. -/
  bayPlane : FMap Bool := []
  vuPlane : FMap Bool := []
  /-- Bays and vector units that have still to take the armed plane up, as bit masks. -/
  bayWait : Nat := 0
  vuWait  : Nat := 0
  sb      : SigBox := {}
  /-- The slab patrol scrub has been started (R125). -/
  scrubOn : Bool := false
  /-- The ARCLK cycle from which the scrub reads its next line. -/
  scrubNext : Nat := 0
  /-- The line that the scrub read last with its ARCLK cycle, and the words that it corrected there and still writes
  back (R125). -/
  scrubRead : Option (Nat × Nat) := none
  scrubFix : List Nat := []
  /-- Power (R427, R428): the ARCLK cycle at which the present transition ends; a wake waits for admission. -/
  pwrDue  : Option Nat := none
  pwrWait : Bool := false
  /-- A self-test and wipe under way, and when it ends (R131, R377). -/
  testDue : Option Nat := none
  /-- The station's drain before a reset, with its limit and ring (R396). -/
  drainDue : Option Nat := none
  /-- Tap registers in use, and the mileposts that the station has executed. -/
  taps    : List Tap := []
  late    : List LateResult := []
  milesRun : Nat := 0
  ptSeen  : Bool := false
  /-- A unit issued work in the present cycle; a queue made progress in it (R191, R398). -/
  work    : Bool := false
  moved   : Bool := false
  deriving DecidableEq, Repr, Inhabited

/-! ### Jobs (chapters 12 to 15) -/

/-- Where a job stands. -/
inductive JobPhase where
  /-- Queued, not yet installing (R323, R325). -/
  | queued
  /-- Its consist is being installed, or is installed and waits for consist time 0 (R326). -/
  | installing
  | running
  /-- Stabling after quiescence (R335), then stabled. -/
  | stabling | stabled
  /-- Restoring: its installation runs or is complete (R336). -/
  | restoring
  /-- A fault or cancellation has decided the job; its units stop (R385). -/
  | stopping
  /-- Its units have stopped or finished; the completion record is owed (R357). -/
  | finishing
  | ended
  deriving DecidableEq, Repr, Inhabited

/-- A stall request (R158): its unit, queue (4,095 for none), cause, and the cycle it cleared in. -/
structure StallReq where
  unit    : UnitRef := {}
  queue   : Nat := 4095
  cause   : Nat := 0
  raised  : Nat := 0
  cleared : Option Nat := none
  deriving DecidableEq, Repr, Inhabited

/-- A milepost instance that is armed (R373 to R375). -/
structure Arming where
  n    : Nat := 0
  mp   : Nat := 0
  role : Nat := 0
  /-- Stations that have armed it, and the taps still folding. -/
  stations : Nat := 0
  left : Nat := 0
  /-- Finished taps: (station × 4,096 + queue, y). -/
  ys   : List (Nat × Nat) := []
  deriving DecidableEq, Repr, Inhabited

/-- An installation in progress (R301, R326): frames still to write, and the phase. -/
structure Install where
  frames : List Nat := []
  slab   : List Nat := []
  next   : Nat := 0
  armed  : Bool := false
  deriving DecidableEq, Repr, Inhabited

/-- A spill of a firing (R192): the queue (station × 4,096 + queue), the messages that move, and, once it has begun, the
first cycle in which it can be complete. -/
structure Spill where
  queue : Nat := 0
  msgs  : Nat := 0
  done  : Option Nat := none
  deriving DecidableEq, Repr, Inhabited

/-- A job (R322, R355, Table 13.10), keyed by its handle. -/
structure Job where
  consist : Nat := 0
  rt      : Bool := false
  abortOk : Bool := false
  window  : Option Nat := none
  countersign : Bool := false
  recPhase : Bool := false
  vector  : Option Nat := none
  deadline : Nat := 0
  result  : Nat := 0
  winLen  : Nat := 0
  args    : List W64 := []
  argBytes : Bytes := []
  seq     : Nat := 0
  phase   : JobPhase := .queued
  install : Option Install := none
  /-- The fill has started a deadline job (R325). -/
  filled  : Bool := false
  /-- The run of a real-time job, in ARCLK cycles (R318, R323). -/
  runBegin : Option Nat := none
  runEnd  : Option Nat := none
  late    : Bool := false
  /-- Consist time (R139). -/
  cyc     : Nat := 0
  started : Bool := false
  /-- The stall wave (R158): requests, the cycle of the freeze, and the end of one that has begun. -/
  stalls  : List StallReq := []
  freezeAt : Option Nat := none
  frozen  : Bool := false
  frozenAt : Nat := 0
  lastClear : Nat := 0
  waves   : Nat := 0
  frozenCyc : Nat := 0
  /-- The stall-quorum detector (R191, R192): count, spills still to run, and the consist cycle of the last firing. -/
  quorum  : Nat := 0
  spills  : List Spill := []
  firedAt : Nat := 0
  quorums : Nat := 0
  spilled : Nat := 0
  slip    : Nat := 0
  /-- Stopping points (R330, R332): last passed and its time, stations past each, the point requested, the limit. -/
  passed  : Nat := 0
  passedAt : Nat := 0
  passing : FMap Nat := []
  request : Option Nat := none
  limit   : Option Nat := none
  /-- The deciding fault: context ID, class, address (R384). -/
  fault   : Option (Nat × Nat × Nat) := none
  faultAt : Nat := 0
  cancel  : Bool := false
  /-- The rings whose CANCEL_JOB waits for the job's end (R387). -/
  rings   : List Nat := []
  status  : Nat := 0
  endCyc  : Nat := 0
  /-- Stations whose program has ended; stations lost to a station reset (R379). -/
  progEnd : Nat := 0
  lost    : Nat := 0
  flags   : Nat := 0
  /-- Mileposts (R373 to R376): instances, records written, digests of weight and input records. -/
  arms    : List Arming := []
  records : Nat := 0
  wDigests : FMap Bytes := []
  iDigests : FMap Bytes := []
  /-- ARCLK cycle at which a stabling or restore may be complete (R335). -/
  due     : Nat := 0
  deriving DecidableEq, Repr, Inhabited

/-- What stabling saves (Table 12.4). -/
structure Saved where
  k      : Nat := 0
  cyc    : Nat := 0
  slab   : List Host.Cell := []
  queues : FMap Queue := []
  accs   : FMap (FMap Slot × FMap W32) := []
  comps  : FMap (FMap (List FtRow)) := []
  points : FMap Points := []
  tokens : FMap Token := []
  boxes  : FMap SigBox := []
  miles  : FMap Nat := []
  deriving DecidableEq, Repr, Inhabited

/-- A booked link lane (R142, Table 11.5). -/
structure Booking where
  entry   : Nat := 0
  lane    : Nat := 0
  link    : Nat := 0
  dir     : Nat := 0
  gateway : Bool := false
  pos     : Nat := 0
  gate    : Nat := 0
  deriving DecidableEq, Repr, Inhabited

/-- A resident consist (R301), keyed by its index. -/
structure Consist where
  digest   : Bytes := []
  stations : Nat := 0
  param    : Bool := false
  format3  : Bool := false
  signed   : Bool := false
  elastic  : Bool := false
  bankHash : Bool := false
  nRegions : Nat := 0
  regions  : List Region := []
  frames   : List Frame := []
  base     : Nat := 0
  size     : Nat := 0
  /-- decl, act, pad and late of each latency ID (R309). -/
  decl     : List Nat := []
  act      : List Nat := []
  pad      : List Nat := []
  late     : List Nat := []
  tokens   : List TokDecl := []
  counters : List CntDecl := []
  ttMask   : Nat := 0
  ttP      : Nat := 0
  ttPhi    : Nat := 0
  ports    : Nat := 0
  bookings : List Booking := []
  runMax   : Nat := 4294967295
  stops    : List StopDecl := []
  miles    : List MileDecl := []
  logBase  : Nat := 0
  logSize  : Nat := 0
  /-- Bytes of the ring regions and slab sidings of its queues (R335). -/
  qBytes   : Nat := 0
  /-- Extents in 64 KiB units: first unit and length (R457). -/
  golden   : Nat × Nat := (0, 0)
  stabling : Nat × Nat := (0, 0)
  /-- Bit r: the standby plane of region r is marked invalid (R303). -/
  regInv   : Nat := 0
  partialD : Bytes := []
  saved    : Option Saved := none
  deriving DecidableEq, Repr, Inhabited

/-! ### Timetable, faults, ganger, maintenance, sideband -/

/-- An entry of the timetable (Table 12.1). -/
structure TtEntry where
  len    : Nat := 0
  rebase : Bool := false
  codes  : List Nat := []
  deriving DecidableEq, Repr, Inhabited

/-- A timetable image (R320). -/
structure Table where
  pools   : List Nat := []
  entries : List TtEntry := []
  raw     : Bytes := []
  /-- The greatest P(e) of R432. -/
  power   : Nat := 0
  deriving DecidableEq, Repr, Inhabited

/-- The timetable (R316 to R321). -/
structure Timetable where
  inForce : Option Table := none
  pending : Option Table := none
  entry   : Nat := 0
  /-- The next slot boundary, in ARCLK cycles. -/
  next    : Nat := 0
  /-- The runs that have begun and not ended: consist and first ARCLK cycle (R318). -/
  runs    : FMap Nat := []
  deriving DecidableEq, Repr, Inhabited

/-- The ganger's triplets (R391): three copies of each of the four registers. -/
structure Ganger where
  enable   : List Nat := [0, 0, 0]
  interval : List Nat := [256, 256, 256]
  cursor   : List Nat := [0, 0, 0]
  total    : List Nat := [0, 0, 0]
  /-- The Control Office's own values: INTERVAL, frames counted in the pass. -/
  wantInterval : Nat := 256
  counted  : Nat := 0
  next     : Nat := 0
  /-- Frames that the Control Office expects in the present pass. -/
  expect   : Nat := 0
  deriving DecidableEq, Repr, Inhabited

/-- A maintenance activity in progress (R393): its code of Table 13.11, or 0x62, 0x50, 0xB0, 0x21 for SS, TD, WI and
PR, and its target. -/
structure Activity where
  code   : Nat := 0
  target : Nat := 0
  deriving DecidableEq, Repr, Inhabited

/-- SAMPLE_SCRATCHPAD in progress (R399), keyed by its ring. -/
structure Sampling where
  mask  : Nat := 0
  first : Nat := 0
  bytes : Nat := 0
  dest  : Nat := 0
  /-- Writes to DDR that have still to take effect. -/
  left  : Nat := 0
  deriving DecidableEq, Repr, Inhabited

/-- Clock crossings (R437, R439), by `cdcKey`: the events that each has merged since its last record, and the cycle from
which it is idle. -/
structure Cdc where
  merged : FMap Nat := []
  busyTo : FMap Nat := []
  /-- Crossings that have timed out (Table 17.6): far clock and index. -/
  lost   : List (Nat × Nat) := []
  deriving DecidableEq, Repr, Inhabited

/-- I3C and JTAG (R449, R452). -/
structure Side where
  offset  : Nat := 0
  dynAddr : Option Nat := none
  /-- Target events enabled by ENEC and DISEC. -/
  events  : Nat := 0
  /-- JTAG instruction: 0 BYPASS, 1 IDCODE, 2 SAMPLE/PRELOAD, 3 EXTEST. -/
  jtag    : Nat := 1
  boundary : W64 := 0
  /-- EXTEST drives the pins. -/
  driving : Bool := false
  /-- Milliseconds in a row with AVG_1MS above 2,400 (Table 18.6). -/
  hotMs   : Nat := 0
  deriving DecidableEq, Repr, Inhabited

/-- What a unit waits for (R156, R162): the cause code it counts under, and the queue (station × 4,096 + queue) whose
EMPTY counter its wait as a receiver, or whose FULL counter its wait as a sender, advances (R163). -/
structure WaitRec where
  cause : Nat := 0
  empty : Option Nat := none
  full  : Option Nat := none
  deriving DecidableEq, Repr, Inhabited

/-- A load in progress (R300): the command, and what it reads of host memory in its passes. -/
structure LoadRun where
  ring   : Nat := 0
  cmd    : Cmd := {}
  partialLoad : Bool := false
  consist : Nat := 0
  target : Nat := 0
  /-- The golden-copy extent that a full load took once check 1 had passed (R457). -/
  extent : Option (Nat × Nat) := none
  image  : HostData := none
  pass2  : HostData := none
  patch  : HostData := none
  deriving DecidableEq, Repr, Inhabited

/-- Everything but the memories and the queue. -/
structure Dev where
  chip  : Chip := {}
  clk   : Clk := {}
  boot  : Boot := {}
  sec   : Sec := {}
  host  : HostIf := {}
  consists : FMap Consist := []
  load  : Option LoadRun := none
  jobs  : FMap Job := []
  tt    : Timetable := {}
  stn   : FMap Station := []
  mu    : FMap Mu := []
  vu    : FMap Vu := []
  slabPort : FMap SlabPort := []
  /-- Word codes in error, by scratchpad offset / 4: 1 correctable, 2 uncorrectable (R122). -/
  slabErr : FMap Nat := []
  /-- DDR lines in error, by DDR offset / 128: bit 20 i + d says that codeword i has an error in its symbol of device d
  (R242). -/
  ddrErr : FMap Nat := []
  /-- DDR ranges of undefined contents (R296): first offset, end, and the free value's tag. -/
  ddrUndef : List (Nat × Nat × Nat) := []
  queues : FMap Queue := []
  outbox : FMap (List OutMsg) := []
  /-- Slots of grid and gateway links that a word has taken: ARCLK cycle and link lane (R142). -/
  gridUsed : List (Nat × Nat) := []
  points : FMap Points := []
  tokens : FMap Token := []
  /-- Engine signals on their way to tokens, and answers of tickets, are held by their station's signal box. -/
  eng   : FMap Engine := []
  rls   : FMap (List RlsLine) := []
  fills : FMap RlsFill := []
  rlsUse : Nat := 0
  ddr   : FMap DdrCh := []
  ep    : FMap EpPort := []
  pkts  : FMap Packet := []
  pktNext : Nat := 0
  rem   : FMap RemEntry := []
  remNext : Nat := 0
  faultLost : Bool := false
  gang  : Ganger := {}
  maint : List Activity := []
  samples : FMap Sampling := []
  cdc   : Cdc := {}
  side  : Side := {}
  /-- Ages given to slab and DDR requests, so that older comes before newer (R455). -/
  age   : Nat := 0
  /-- The units that wait, by station, class and unit number. -/
  waits : FMap WaitRec := []
  /-- The counter that picks the next free value; the model's own field. -/
  free  : Nat := 0
  /-- Registers whose clear was written in the present ARCLK cycle: at its end they are 0, whatever was counted in it
  (R64, R84). A key above the BAR0 offsets is `queueClearKey`. -/
  cleared : List Nat := []
  /-- Flag registers with the flags raised in the present ARCLK cycle, which a host clear in it leaves at 1 (R84, R86). -/
  raised : FMap Nat := []
  out   : List Output := []
  deriving DecidableEq, Repr, Inhabited

/-- The state of the block: memories, running parts, and the commands that wait, first in, first out. -/
structure State where
  mem     : Mems := {}
  dev     : Dev := {}
  pending : List Instr := []
  deriving DecidableEq, Repr, Inhabited

/-- One write of a command: a key's new value, or a range of keys put back to what an unlisted key reads as. -/
inductive WEntry (α : Type) where
  | put (k : Nat) (v : α)
  | clear (lo hi : Nat)
  deriving DecidableEq, Repr

/-- The writes that a command has made, the newest first, store by store. -/
structure WLog where
  slab  : List (WEntry Byte) := []
  ddr   : List (WEntry Byte) := []
  regs  : List (WEntry W64) := []
  plane : List (WEntry W64) := []
  deriving DecidableEq, Repr

/-- The machine while a command acts: the stores as they stood before it, its writes so far, and the running
parts. `act` (Ops.lean) commits the writes when the command ends. -/
structure Mach where
  mem : Mems
  dev : Dev
  log : WLog := {}
  deriving DecidableEq, Repr

/-- The fuses of the part that the model takes at reset: an SLN16-A1 whose rows, stations and ports needed no repair
(DESIGN CHOICE, log 2). -/
def Chip.reset : Chip :=
  { grade := 2, stepping := 1
    physStn := [0, 1, 2, 3, 0, 1, 2, 3, 0, 1, 2, 3, 0, 1, 2, 3]
    spareRow := List.replicate 16 16, rowFixed := List.replicate 16 false
    defect := [0, 0, 0, 0] }

/-- The machine right after a cold reset, with PERST_N still low (R378, R444): every register at its Reset value (no
register is listed), every memory wiped, no consist resident, no command waiting. -/
def State.reset : State := { dev := { chip := Chip.reset } }

end Sys2Proof.Machine
end

