-- ==== Sys2Proof/WellFormed.lean ====
section
/-! DEFINITION. Which commands name something that a part can have: the ranges of the operands. Ranges that depend on
the grade (an enabled station) or on state (a job that exists) are no matter of form: the meanings check them. -/

namespace Sys2Proof

/-- The operands of a command lie in the ranges that the spec gives them: 16 rings (R345), 16 logical stations, 256
bays, 32 vector units (R13), 4,096 queues (R169), 48 token slots (R204), 64 ticket-office counters (R216), 8 engines
(R223), 16 channels (R237), 8 ports (R21), 12-bit job handles (R355), 15 points entries or fewer (R144). -/
def Instr.wellFormed : Instr → Bool
  | .negotiate r | .identify r | .unloadConsist r | .cancelJob r | .releaseResult r | .dumpTokens r
  | .startMaintenance r | .stopMaintenance r | .sampleScratchpad r | .resetDomain r | .portClose r | .portOpen r
  | .wipe r => r < 16
  | .loadFirmware r _ | .loadPartial r _ | .setTimetable r _ | .submitJob r _ | .readCounters r _ | .attest r _
  | .lifecycleAdvance r _ => r < 16
  | .loadConsist r _ _ _ => r < 16
  | .commandFetch r p => r < 16 && (p.all fun b => b.length == 64)
  | .doorbellWrite r _ | .ringCtrlWrite r _ => r < 16
  | .evqCtrlWrite _ | .evqHeadWrite _ | .faultHeadWrite _ | .release | .burn _ | .burnDone | .revoke _ => true
  | .tkoValueWrite k _ => k < 64
  | .coPwrCapWrite _ => true
  | .epTopologyWrite w _ => w < 3
  | .secBootDeadlineWrite _ => true
  | .registerWrite bar _ _ _ => bar == 0 || bar == 4
  | .muClrSat st b | .muClrCe st b => st < 16 && b < 256
  | .vuClrSat st v | .vuClrNan st v | .vuClrAmax st v => st < 16 && v < 32
  | .slabClrCe st b | .slabClrUe st b | .slabClrConf st b | .slabClrUnsched st b | .ptClrOvf st b
  | .ptClrBadtag st b => st < 16 && b < 256
  | .qClrLenerr st | .qClrSat st | .qClrLeftover st | .qClrRefused st | .qClrQsel st | .tkClrLost st => st < 16
  | .tkoClrPlain => true
  | .meClrMerged st k => st < 16 && k < 256
  | .meClrRls st => st < 16
  | .dmClrCe c | .dmClrUe c | .dmClrTt c => c < 16
  | .epClrTimeouts | .epClrLate | .epClrTarget => true
  | .epClrErr p | .epClrDiscard p => p < 8
  | .ilClrRefusals | .ttClrStable | .ttClrAbort | .ttClrMiss | .coClrBar2 | .coClrEvlost | .gangClrRepairs
  | .gangClrVotes | .faultClrLost | .faultClrDrain | .cdcClrOverruns | .cdcClrTimeouts => true
  | .bar2Read a n => 0 < n && n ≤ 4096 && a + n ≤ 2 ^ 36
  | .bar2Write a d => d.length ≤ 4096 && a + d.length ≤ 2 ^ 36
  | .pcieConfigRequest _ r _ => r < 1024
  | .sbNop st | .sbEnd st | .sbJmp st | .sbBnz st | .sbLoop st | .sbLi st | .sbLih st | .sbAlu st | .sbFpu st
  | .sbRecv st | .sbSend st | .sbCtl st | .sbMugo st | .sbVugo st | .sbJoin st | .sbSig st | .sbWait st
  | .sbFence st | .sbTkrd st | .sbTicket st | .sbTkld st | .sbTkst st | .sbMgo st | .sbMgor st | .sbMjoin st
  | .sbMstat st | .sbRld st | .sbRst st | .sbRsig st | .sbRwait st | .sbRtkt st | .sbRmsg st | .sbRstat st
  | .sbStop st | .sbMilepost st => st < 16
  | .unitCompletionSeen st k u => st < 16 && k < 3 && u < 256
  | .muStart st b | .weightBlockLoad st b | .rowIssue st b | .accumulatorUpdate st b | .slotDrain st b =>
    st < 16 && b < 256
  | .vuStart st v | .vuNop st v | .vuCopy st v | .vuAdd st v | .vuSub st v | .vuMul st v | .vuFma st v
  | .vuMin st v | .vuMax st v | .vuAbs st v | .vuNeg st v | .vuCmplt st v | .vuSel st v | .vuDiv st v
  | .vuSqrt st v | .vuRcp st v | .vuRcpe st v | .vuRsqe st v | .vuExp st v | .vuLog st v | .vuRowsum st v
  | .vuRowmax st v | .vuRowamax st v | .vuCvt st v | .vuScalesel st v | .vuResultWrite st v => st < 16 && v < 32
  | .elasticResultDue st => st < 16
  | .slabAccess st b => st < 16 && b < 256
  | .slabScrubRead st => st < 16
  | .messageOffer st b r | .admissionGrant st b r | .wordSend st b r => st < 16 && b < 256 && r < 64
  | .admissionRequest st q | .admission st q | .wordArrival st q | .queueRead st q | .combination st q =>
    st < 16 && q < 4096
  | .pointsDecision st b e | .epochEnd st b e => st < 16 && b < 256 && e < 16
  | .freezeBegin j | .freezeEnd j | .quorumFire j | .spillDone j => j < 4096
  | .tokenOpArrival st t => st < 16 && t < 48
  | .waiterWake st => st < 16
  | .ticketRequestArrival k => k < 64
  | .ticketReply st => st < 16
  | .engineStart st e | .engineRequest st e | .descriptorComplete st e => st < 16 && e < 8
  | .rlsFill st _ => st < 16
  | .ddrRequest c | .ddrReadData c | .ddrWriteBack c | .ddrScrubRead c | .ddrRetrainDone c => c < 16
  | .ddrReorderServe c _ => c < 16
  | .refreshGap c r => c < 16 && r < 2
  | .ddrTrainingDone t _ => t < 65536
  | .portTrainingDone p | .linkAckDue p | .laneLockLoss p | .ackTimeout p | .portDrainDone p => p < 8
  | .ident p _ _ _ _ => p < 8
  | .flitReceive p f _ => p < 8 && f.length == 512
  | .nak p s => p < 8 && s < 65536
  | .retrainAttemptDone p _ => p < 8
  | .packetTransit _ | .remoteLoad _ | .remoteStore _ | .remoteMessage _ | .remoteCombine _ | .remoteTokenSignal _
  | .remoteTokenWait _ | .remoteTicketFetch _ | .remoteResponse _ => true
  | .remoteTimeout st t => st < 16 && t < 65536
  | .slotBoundary => true
  | .runEnd j | .installationStart j | .installFrameWrite j | .consistTimeZero j | .jobEnd j | .completionRecord j
  | .quiescence j | .stablingDone j | .restoreDone j | .jobFaultStop j => j < 4096
  | .bayPlaneSwitch st b => st < 16 && b < 256
  | .vuPlaneSwitch st v => st < 16 && v < 32
  | .sbPlaneTakeup st => st < 16
  | .drainForced f st u => f < 4 && st < 16 && u < 256
  | .eventTaken => true
  | .cdcOverrun far => 0 < far % 8 && far % 8 < 5 && far / 8 < 16
  | .cdcTimeout far idx => 0 < far && far < 6 && idx < 16
  | .pllLockLoss far idx => 0 < far && far < 6 && idx < 16
  | .sysclkLoss | .gangerFrameCheck => true
  | .stationWake st | .powerTransitionDone st => st < 16
  | .domainReset k i => k < 5 && i < 16
  | .stationWipeDone st => st < 16
  | .coldReset | .warmDeviceReset | .perstNDeassert | .pcieHotReset | .bootDeadline | .railExcursion | .thermalTrip =>
    true
  | .sensorUpdate t a b => t.length == 8 && a < 4096 && b < 4096
  | .i3cPrivateWrite _ | .i3cPrivateRead | .rstdaa | .getpid | .getstatus => true
  | .setdasa a | .entdaa a => a < 128
  | .enec e | .disec e => e < 256
  | .bypass | .idcode | .samplePreload _ _ | .extest | .lossOfPower => true
  | .noSignal p => p < 8
  | .hostReadCompletion _ _ | .completionTimeout _ | .linkEntryIntoL0 => true

end Sys2Proof
end

