-- ==== Sys2Proof/Machine/Ops.lean ====
section
/-! DEFINITION. The named operations over the stores and the running parts that every meaning is written with, and
`act`, the frame that every command runs in: its checks, its effect on a `Mach`, and the commit of its writes. -/

namespace Sys2Proof.Machine
open Sys2Proof

/-! ### The stores: what an unlisted key reads as, and the commit of a command's writes -/

/-- A byte of a slab or of DDR space that no command has written reads 0: both are wiped at cold reset (R131,
R380). -/
def memReset (_ : Nat) : Byte := 0

/-- The place of a plane word: station, plane, kind and index. Kind 0 is a register of the station block by its local
offset, 1 a table entry by its ST_TBL_SEL value, 2 word w of queue descriptor q as 4q + w. -/
def planeKey (st : Nat) (plane : Bool) (kind idx : Nat) : Nat := ((st * 2 + b2n plane) * 4 + kind) * 2 ^ 32 + idx

/-- The Reset value of a plane word: a wheel entry names no input (IN = 7, Table 6.21); all others are 0. -/
def planeReset (k : Nat) : W64 :=
  if k / 2 ^ 32 % 4 = 1 ∧ k % 16 = 1 then 7 else 0

/-- One write on a store. -/
def applyEntry {α : Type} [DecidableEq α] (d : Nat → α) (m : List (Nat × α)) : WEntry α → List (Nat × α)
  | .put k v => storePut d m k v
  | .clear lo hi => storeClear m lo hi

/-- All writes of a log, the oldest first. -/
def applyLog {α : Type} [DecidableEq α] (d : Nat → α) (m : List (Nat × α)) : List (WEntry α) → List (Nat × α)
  | [] => m
  | e :: es => applyEntry d (applyLog d m es) e

/-- What a key reads as under a log: the newest write that covers it, or the store. -/
def readLog {α : Type} (d : Nat → α) (m : List (Nat × α)) : List (WEntry α) → Nat → α
  | [], k => storeGet d m k
  | .put k' v :: es, k => if k' = k then v else readLog d m es k
  | .clear lo hi :: es, k => if lo ≤ k ∧ k < hi then d k else readLog d m es k

/-- The stores after a command's writes. -/
def Mems.commit (m : Mems) (l : WLog) : Mems :=
  { slab := applyLog memReset m.slab l.slab
    ddr := applyLog memReset m.ddr l.ddr
    regs := applyLog regReset m.regs l.regs
    plane := applyLog planeReset m.plane l.plane }

/-- The canonical form of all four stores. -/
abbrev Mems.wf (m : Mems) : Prop :=
  storeWf memReset m.slab ∧ storeWf memReset m.ddr ∧ storeWf regReset m.regs ∧ storeWf planeReset m.plane

/-! ### Reading and writing the stores -/

/-- A byte of the scratchpad, by scratchpad offset (R112). -/
def Mach.slabByte (m : Mach) (a : Nat) : Byte := readLog memReset m.mem.slab m.log.slab a

/-- n bytes of the scratchpad. -/
def Mach.slabRead (m : Mach) (a n : Nat) : Bytes := (List.range n).map fun i => m.slabByte (a + i)

/-- Writes bytes to the scratchpad. -/
def Mach.slabWrite (m : Mach) (a : Nat) : Bytes → Mach
  | [] => m
  | b :: bs => Mach.slabWrite { m with log := { m.log with slab := .put a b :: m.log.slab } } (a + 1) bs

/-- A byte of DDR space. A range of undefined contents reads free values (R296, log 3). -/
def Mach.ddrByte (m : Mach) (a : Nat) : Byte :=
  match m.dev.ddrUndef.find? fun r => r.1 ≤ a && a < r.2.1 with
  | some r => Config.freeByte r.2.2 a
  | none => readLog memReset m.mem.ddr m.log.ddr a

/-- n bytes of DDR space. -/
def Mach.ddrRead (m : Mach) (a n : Nat) : Bytes := (List.range n).map fun i => m.ddrByte (a + i)

/-- The ranges of undefined contents without [lo, hi). -/
def cutRanges (rs : List (Nat × Nat × Nat)) (lo hi : Nat) : List (Nat × Nat × Nat) :=
  rs.flatMap fun r =>
    if hi ≤ r.1 ∨ r.2.1 ≤ lo then [r]
    else (if r.1 < lo then [(r.1, lo, r.2.2)] else []) ++ (if hi < r.2.1 then [(hi, r.2.1, r.2.2)] else [])

/-- Puts bytes into the DDR log. -/
def Mach.ddrPut (m : Mach) (a : Nat) : Bytes → Mach
  | [] => m
  | b :: bs => Mach.ddrPut { m with log := { m.log with ddr := .put a b :: m.log.ddr } } (a + 1) bs

/-- Writes bytes to DDR space; what was undefined there is defined from now on, and the lines' codes are good. -/
def Mach.ddrWrite (m : Mach) (a : Nat) (bs : Bytes) : Mach :=
  Mach.ddrPut { m with dev := { m.dev with ddrUndef := cutRanges m.dev.ddrUndef a (a + bs.length) } } a bs

/-- Wipes [lo, hi) of the scratchpad: zeros with valid codes (R380). -/
def Mach.slabWipe (m : Mach) (lo hi : Nat) : Mach :=
  { m with
    log := { m.log with slab := .clear lo hi :: m.log.slab }
    dev := { m.dev with slabErr := fkeep m.dev.slabErr fun k => k * 4 < lo || hi ≤ k * 4 } }

/-- Wipes [lo, hi) of DDR space (R380, R381). -/
def Mach.ddrWipe (m : Mach) (lo hi : Nat) : Mach :=
  { m with
    log := { m.log with ddr := .clear lo hi :: m.log.ddr }
    dev := { m.dev with
      ddrErr := fkeep m.dev.ddrErr fun k => k * 128 < lo || hi ≤ k * 128
      ddrUndef := cutRanges m.dev.ddrUndef lo hi } }

/-- The stored bits of a register. -/
def Mach.raw (m : Mach) (o : Nat) : Nat := (readLog regReset m.mem.regs m.log.regs o).toNat

/-- Stores a register. -/
def Mach.setRaw (m : Mach) (o : Nat) (v : Nat) : Mach :=
  { m with log := { m.log with regs := .put o (BitVec.ofNat 64 v) :: m.log.regs } }

/-- Puts the registers of [lo, hi) back to their Reset values (R9). -/
def Mach.resetRegs (m : Mach) (lo hi : Nat) : Mach :=
  { m with log := { m.log with regs := .clear lo hi :: m.log.regs } }

/-- A word of a configuration plane. -/
def Mach.planeWord (m : Mach) (k : Nat) : Nat := (readLog planeReset m.mem.plane m.log.plane k).toNat

/-- Stores a word of a configuration plane. -/
def Mach.setPlane (m : Mach) (k : Nat) (v : Nat) : Mach :=
  { m with log := { m.log with plane := .put k (BitVec.ofNat 64 v) :: m.log.plane } }

/-- Puts both planes of a station back to Reset. -/
def Mach.resetPlanes (m : Mach) (st : Nat) : Mach :=
  { m with log := { m.log with plane := .clear (st * 8 * 2 ^ 32) ((st + 1) * 8 * 2 ^ 32) :: m.log.plane } }

/-- Puts the registers at offsets [lo, hi) of a station's planes back to Reset. -/
def Mach.resetPlaneRegs (m : Mach) (st lo hi : Nat) : Mach :=
  [false, true].foldl
    (fun m p => { m with log := { m.log with plane := .clear (planeKey st p 0 lo) (planeKey st p 0 hi) :: m.log.plane } }) m

/-- Sets bit i of a stored register. -/
def Mach.setBit (m : Mach) (o i : Nat) : Mach := m.setRaw o (m.raw o ||| 2 ^ i)

/-- Sets field [hi:lo] of a stored register. -/
def Mach.setField (m : Mach) (o hi lo v : Nat) : Mach := m.setRaw o (setBits (m.raw o) hi lo v)

/-! ### Counters -/

/-- One event at a statistic counter: COUNT stops at 2^48 − 1, and OVF is set by an event that finds it there
(Table 2.14). -/
def statBump (x : Nat) : Nat :=
  if x % 2 ^ 48 = 2 ^ 48 - 1 then x % 2 ^ 63 + 2 ^ 63 else x + 1

/-- n events at a statistic counter. -/
def Mach.stat (m : Mach) (o : Nat) : Nat → Mach
  | 0 => m
  | n + 1 => Mach.stat (m.setRaw o (statBump (m.raw o))) o n

/-- Advances a counter that never wraps in service. -/
def Mach.count (m : Mach) (o n : Nat) : Mach := m.setRaw o ((m.raw o + n) % 2 ^ 64)

/-- A clear of a statistic counter: COUNT and OVF become 0 (R64). -/
def Mach.clearStat (m : Mach) (o : Nat) : Mach := m.setRaw o 0

/-- Records that the clear of registers was written in the present ARCLK cycle: what is counted in it is lost when the
cycle ends (R64, `Mach.settleClears`). -/
def Mach.noteClear (m : Mach) (l : List Nat) : Mach := { m with dev := { m.dev with cleared := m.dev.cleared ++ l } }

/-- Raises sticky flags of a flag register, and notes them for a host clear in the same ARCLK cycle (R84, R86). -/
def Mach.raiseFlags (m : Mach) (o fl : Nat) : Mach :=
  let m := m.setRaw o (m.raw o ||| fl)
  if fl = 0 then m
  else { m with dev := { m.dev with raised := fput m.dev.raised o (fget 0 m.dev.raised o ||| fl) } }

/-- Flags of a flag register that an operation has raised in the present ARCLK cycle. -/
def Mach.raisedNow (m : Mach) (o : Nat) : Nat := fget 0 m.dev.raised o

/-! ### The running parts -/

/-- A station beside its registers. -/
def Mach.stn (m : Mach) (n : Nat) : Station := fget {} m.dev.stn n
def Mach.setStn (m : Mach) (n : Nat) (s : Station) : Mach := { m with dev := { m.dev with stn := fput m.dev.stn n s } }
def Mach.modStn (m : Mach) (n : Nat) (f : Station → Station) : Mach := m.setStn n (f (m.stn n))

/-- The Matrix Unit of bay b of station n. -/
def Mach.muOf (m : Mach) (n b : Nat) : Mu := fget {} m.dev.mu (n * 256 + b)
def Mach.setMu (m : Mach) (n b : Nat) (u : Mu) : Mach := { m with dev := { m.dev with mu := fput m.dev.mu (n * 256 + b) u } }

/-- Vector unit v of station n. -/
def Mach.vuOf (m : Mach) (n v : Nat) : Vu := fget {} m.dev.vu (n * 32 + v)
def Mach.setVu (m : Mach) (n v : Nat) (u : Vu) : Mach := { m with dev := { m.dev with vu := fput m.dev.vu (n * 32 + v) u } }

/-- The slab port of bay b of station n. -/
def Mach.portOf (m : Mach) (n b : Nat) : SlabPort := fget {} m.dev.slabPort (n * 256 + b)
def Mach.setPort (m : Mach) (n b : Nat) (p : SlabPort) : Mach :=
  { m with dev := { m.dev with slabPort := fput m.dev.slabPort (n * 256 + b) p } }

/-- Queue q of station n. -/
def Mach.queue (m : Mach) (n q : Nat) : Queue := fget {} m.dev.queues (n * 4096 + q)
def Mach.setQueue (m : Mach) (n q : Nat) (x : Queue) : Mach :=
  { m with dev := { m.dev with queues := fput m.dev.queues (n * 4096 + q) x } }
def Mach.modQueue (m : Mach) (n q : Nat) (f : Queue → Queue) : Mach := m.setQueue n q (f (m.queue n q))

/-- What `Dev.cleared` notes for Q_SPILLS and Q_BALANCE of queue q of station n: a key above the BAR0 offsets. -/
def queueClearKey (n q : Nat) : Nat := 2 ^ 35 + n * 4096 + q

/-- The end of an ARCLK cycle in which clears were written: their counters are 0 and the events counted beside the clears
are lost (R64, R84, R135, R202). -/
def Mach.settleClears (m : Mach) : Mach :=
  let m := m.dev.cleared.foldl
    (fun m k => if k < 2 ^ 35 then m.clearStat k
      else m.modQueue ((k - 2 ^ 35) / 4096) (k % 4096) fun x => { x with spills := 0, balance := 0 }) m
  { m with dev := { m.dev with cleared := [], raised := [] } }

/-- The messages that wait at the L port of bay b for a route (R141). -/
def outKey (n b r : Nat) : Nat := (n * 256 + b) * 64 + r
def Mach.outbox (m : Mach) (n b r : Nat) : List OutMsg := fget [] m.dev.outbox (outKey n b r)
def Mach.setOutbox (m : Mach) (n b r : Nat) (l : List OutMsg) : Mach :=
  { m with dev := { m.dev with
      outbox := if l.isEmpty then fdel m.dev.outbox (outKey n b r) else fput m.dev.outbox (outKey n b r) l } }

/-- The progress of points entry e of bay b. -/
def ptKey (n b e : Nat) : Nat := (n * 256 + b) * 16 + e
def Mach.points (m : Mach) (n b e : Nat) : Points := fget {} m.dev.points (ptKey n b e)
def Mach.setPoints (m : Mach) (n b e : Nat) (p : Points) : Mach :=
  { m with dev := { m.dev with points := fput m.dev.points (ptKey n b e) p } }

/-- Token slot t of station n. -/
def Mach.token (m : Mach) (n t : Nat) : Token := fget {} m.dev.tokens (n * 48 + t)
def Mach.setToken (m : Mach) (n t : Nat) (x : Token) : Mach :=
  { m with dev := { m.dev with tokens := fput m.dev.tokens (n * 48 + t) x } }

/-- Engine e of station n. -/
def Mach.engine (m : Mach) (n e : Nat) : Engine := fget {} m.dev.eng (n * 8 + e)
def Mach.setEngine (m : Mach) (n e : Nat) (x : Engine) : Mach :=
  { m with dev := { m.dev with eng := fput m.dev.eng (n * 8 + e) x } }

/-- DDR channel c. -/
def Mach.ch (m : Mach) (c : Nat) : DdrCh := fget {} m.dev.ddr c
def Mach.setCh (m : Mach) (c : Nat) (x : DdrCh) : Mach := { m with dev := { m.dev with ddr := fput m.dev.ddr c x } }
def Mach.modCh (m : Mach) (c : Nat) (f : DdrCh → DdrCh) : Mach := m.setCh c (f (m.ch c))

/-- Physical Ermus port p. -/
def Mach.ep (m : Mach) (p : Nat) : EpPort := fget {} m.dev.ep p
def Mach.setEp (m : Mach) (p : Nat) (x : EpPort) : Mach := { m with dev := { m.dev with ep := fput m.dev.ep p x } }
def Mach.modEp (m : Mach) (p : Nat) (f : EpPort → EpPort) : Mach := m.setEp p (f (m.ep p))

/-- A job, a resident consist. -/
def Mach.job (m : Mach) (h : Nat) : Option Job := ffind m.dev.jobs h
def Mach.setJob (m : Mach) (h : Nat) (j : Job) : Mach := { m with dev := { m.dev with jobs := fput m.dev.jobs h j } }
def Mach.modJob (m : Mach) (h : Nat) (f : Job → Job) : Mach :=
  match m.job h with
  | some j => m.setJob h (f j)
  | none => m
def Mach.consist (m : Mach) (c : Nat) : Option Consist := ffind m.dev.consists c
def Mach.setConsist (m : Mach) (c : Nat) (x : Consist) : Mach :=
  { m with dev := { m.dev with consists := fput m.dev.consists c x } }

/-- ARCLK cycles since ARCLK started (CO_ARCLK_NOW). -/
def Mach.now (m : Mach) : Nat := m.dev.clk.arclk

/-- Something the device sends out. -/
def Mach.emit (m : Mach) (o : Output) : Mach := { m with dev := { m.dev with out := o :: m.dev.out } }

/-- The next free value (log 3), and the machine with the counter advanced. -/
def Mach.freeVal (m : Mach) : W64 × Mach :=
  (Config.freeWord m.dev.free, { m with dev := { m.dev with free := m.dev.free + 1 } })

/-- The next age of a request (R455). -/
def Mach.nextAge (m : Mach) : Nat × Mach := (m.dev.age, { m with dev := { m.dev with age := m.dev.age + 1 } })

/-! ### The part: stations, positions and repair (chapter 01) -/

/-- Enabled stations of the part. -/
def Mach.stations (m : Mach) : Nat := Config.gradeStations m.dev.chip.grade

/-- The grid position of a logical station (R17). -/
def Mach.position (m : Mach) (n : Nat) : Nat := nth 0 (Config.gradePositions m.dev.chip.grade) n

/-- The physical bay row of logical row r of a station, 0 to 16: the unused row SPARE_ROW is stepped over, and the slabs
of the row's bays and the two vector units wired to it follow it (R19). -/
def Mach.physRow (m : Mach) (n r : Nat) : Nat := if r < nth 16 m.dev.chip.spareRow n then r else r + 1

/-- The physical bay, with its slab, of logical bay b, and the physical vector unit of logical vector unit v (R19). -/
def Mach.physBay (m : Mach) (n b : Nat) : Nat := 16 * m.physRow n (b / 16) + b % 16
def Mach.physVu (m : Mach) (n v : Nat) : Nat := 2 * m.physRow n (v / 2) + v % 2

/-- Coordinates of a grid position (R16). -/
def posX (p : Nat) : Nat := 2 * (p / 4 % 2) + p % 4 % 2
def posY (p : Nat) : Nat := 2 * (p / 4 / 2) + p % 4 / 2

/-- The distance of two coordinates on one axis. -/
def axisHops (a b : Nat) : Nat := (a - b) + (b - a)

/-- Whether a walk between two coordinates crosses from 1 to 2. -/
def axisBridge (a b : Nat) : Nat := if (a < 2) = (b < 2) then 0 else 1

/-- Hops and bridge hops of a minimal route between positions (R27). -/
def gridHops (p q : Nat) : Nat := axisHops (posX p) (posX q) + axisHops (posY p) (posY q)
def gridBridges (p q : Nat) : Nat := axisBridge (posX p) (posX q) + axisBridge (posY p) (posY q)

/-- Nominal latency of a minimal route between positions with the endpoint latency given (R26, Table 1.10). -/
def gridLatency (endpoint p q : Nat) : Nat :=
  endpoint + 7 * (gridHops p q - gridBridges p q) + 16 * gridBridges p q

/-- Station to station: 0 for a station to itself (R26). -/
def Mach.stnLatency (m : Mach) (a b : Nat) : Nat :=
  if a = b then 0 else gridLatency 8 (m.position a) (m.position b)

/-- Station to DDR channel. -/
def Mach.chLatency (m : Mach) (n c : Nat) : Nat := gridLatency 10 (m.position n) (nth 0 Config.channelPosition c)

/-- Station to physical Ermus port. -/
def Mach.portLatency (m : Mach) (n p : Nat) : Nat := gridLatency 12 (m.position n) (nth 0 Config.portPosition p)

/-- The current map of ports: six logical ports, then spares 0 and 1. Stored as the register CO_PORT_MAP holds it once
a substitution has changed it (R24, R271). -/
def Mach.portMap (m : Mach) : List Nat :=
  if bit (m.raw Reg.coPortMap) 31 then (List.range 8).map fun j => bits (m.raw Reg.coPortMap) (3 * j + 2) (3 * j)
  else m.dev.chip.portFuse

/-- The physical port of a logical port, and back. -/
def Mach.physPort (m : Mach) (l : Nat) : Nat := nth 0 m.portMap l
def Mach.logPort (m : Mach) (p : Nat) : Option Nat := (findIndex (· == p) m.portMap).bind fun l => if l < 6 then some l else none

/-- The capacity of DDR space in bytes (DM_CAPACITY), 0 before training. -/
def Mach.capacity (m : Mach) : Nat := m.raw Reg.dmCapacity

/-- The depot area: the top 4 GiB of DDR space (R241). -/
def Mach.depotBase (m : Mach) : Nat := m.capacity - 2 ^ 32

/-- The life-cycle state that the fuses hold (Table 16.4): each step is two fuses, blown together. -/
def Mach.lifeCycle (m : Mach) : Nat :=
  let f := m.dev.chip.lcFuse
  if bits f 5 4 ≠ 0 then 3 else if bits f 3 2 ≠ 0 then 2 else if bits f 1 0 ≠ 0 then 1 else 0

/-- The always-on crossing has timed out: always-on reads return 0, and writes are discarded (Table 17.6). -/
def Mach.aonLost (m : Mach) : Bool := m.dev.cdc.lost.contains (4, 0)

/-- BAR0 offsets of the always-on domain (R23, R366, R422, R450, Table 15.1). -/
def alwaysOn (o : Nat) : Bool :=
  (decide (0x100 ≤ o) && decide (o < 0x168)) || o / 8 == Reg.coSeqNext / 8
    || (decide (Reg.sbTemp ≤ o) && decide (o < 0x3118)) || (decide (secBase ≤ o) && decide (o < secBase + 0x6000))
    || (decide (0x1000000 ≤ o) && decide (o < 0x2000000) && o % 0x100000 / 4 == 16)
    || o / 4 == Reg.epDeviceId / 4 || o / 4 == Reg.epTorus / 4 || o / 4 == Reg.epDimMap / 4

/-- Whether BAR0 reaches the register at an offset: no block stands for a station that is not enabled, and while the
boot ROM runs there are the always-on registers, those of
Table 16.6 and the command-ring registers of ring 0 alone (R404). -/
def Mach.bar0Open (m : Mach) (o : Nat) : Bool :=
  if decide (0x1000000 ≤ o) && decide (o < 0x2000000) && decide (m.stations ≤ o / 0x100000 - 16) then false
  else if alwaysOn o then !m.aonLost
  else m.dev.boot.fw || (decide (ringBase 0 ≤ o) && decide (o < ringBase 0 + 0x18)) || o / 4 == Reg.doorbell 0 / 4

/-! ### Events, MSI-X and host writes (chapter 13) -/

/-- A context ID (R382): job, station, bay field, unit class and sub-unit. Units outside the stations have station field
0, but for a station's drain (Table 15.9; log 29). -/
def ctxId (job : Option Nat) (u : UnitRef) : Nat :=
  pack [(20, 12, job.getD 0), (16, 4, if 8 ≤ u.cls ∧ ¬(u.cls = 8 ∧ u.sub = 2) then 0 else u.st), (8, 8, u.bay), (4, 4, u.cls), (0, 4, u.sub)]

/-- The round trip of an event crossing in ARCLK cycles (Table 17.5), by far clock of Table 17.6: 1 DCLK, 2 FBCLK,
3 HCLK, 4 AONCLK. The FBCLK frequency is per port and not given (log 10). -/
def eventTrip (far : Nat) : Nat :=
  if far = 1 then 14 else if far = 2 then Config.fbclkTrip else if far = 3 then 18 else 463

/-- An event of the ARCLK domain goes to the arbiter (R361). -/
def Mach.event (m : Mach) (e : Event) : Mach :=
  { m with dev := { m.dev with host := { m.dev.host with events := m.dev.host.events ++ [{ e with due := m.now }] } } }

/-- A crossing of Table 17.6: its far clock and its index, a channel group or a physical port. Each far clock has its own
crossing (R256, R423). -/
def cdcKey (far idx : Nat) : Nat := far * 16 + idx

/-- An event of another clock domain goes through its handshake crossing; one that finds the crossing busy is merged
(R437). -/
def Mach.farEvent (m : Mach) (far idx : Nat) (e : Event) : Mach :=
  let c := m.dev.cdc
  let k := cdcKey far idx
  if m.now < fget 0 c.busyTo k then
    let m := (m.setBit Reg.cdcStatus (far - 1)).stat Reg.cdcOverruns 1
    { m with dev := { m.dev with cdc := { c with merged := fput c.merged k (fget 0 c.merged k + 1) } } }
  else
    let m := m.event e
    { m with dev := { m.dev with cdc := { c with busyTo := fput c.busyTo k (m.now + eventTrip far) } } }

/-- Words of the MSI-X table (R344): 4 words for each vector. A vector's mask bit is bit 0 of its word 3, and it is set
at reset by the MSI-X rules that R365 names (log 11). -/
def Mach.msixWord (m : Mach) (i : Nat) : Nat := ((ffind m.dev.host.msix i).map (·.toNat)).getD (if i % 4 = 3 then 1 else 0)

/-- MSI-X message control: bit 15 enable, bit 14 function mask. The model keeps it with the configuration words
(log 11). -/
def msixControl : Nat := 0x2C

/-- Raises an MSI-X vector: sent, or left pending while masked (R365). -/
def Mach.msix (m : Mach) (v : Nat) : Mach :=
  let ctl := ((ffind m.dev.host.cfg msixControl).map (·.toNat)).getD 0
  if bit ctl 31 then
    if bit ctl 30 ∨ bit (m.msixWord (4 * v + 3)) 0 then
      { m with dev := { m.dev with host := { m.dev.host with msixPend := m.dev.host.msixPend ||| 2 ^ v } } }
    else m.emit (.msix v)
  else m

/-- Bus Master Enable of the function: bit 2 of the command register. -/
def Mach.busMaster (m : Mach) : Bool := bit (((ffind m.dev.host.cfg 1).map (·.toNat)).getD 0) 2

/-- A posted write to host memory. -/
def Mach.hostWrite (m : Mach) (a : Nat) (d : Bytes) : Mach := m.emit (.hostWrite a d)

/-! ### Faults (chapter 15) -/

/-- The station whose units a fault class and unit class hold (Table 15.3, R386). -/
def faultHolds (cls ucls : Nat) : Bool := (cls == 1 && ucls < 3) || cls == 2

/-- Completion status that a fault class gives (R384). -/
def faultStatusOf (cls : Nat) : Nat := if cls = 6 then 0x51 else if cls = 14 then 0x41 else 0x50

/-- Writes a fault record and sends its event, or counts it lost while 63 are unconsumed (R383, Table 15.11). -/
def Mach.faultRecord (m : Mach) (cls : Nat) (u : UnitRef) (job : Option Nat) (addr : Nat) (secondary held : Bool) :
    Mach :=
  let w := bits (m.raw Reg.faultStatus) 5 0
  let head := m.raw Reg.faultHead % 64
  if (w + 64 - head) % 64 = 63 then
    let m := m.setBit Reg.faultStatus 6
    let m := m.stat Reg.faultLost 1
    { m with dev := { m.dev with faultLost := true } }
  else
    let w0 := pack [(0, 8, cls), (8, 1, b2n job.isNone), (9, 1, b2n secondary), (10, 1, b2n held),
      (11, 1, b2n m.dev.faultLost)]
    let ctx := ctxId job u
    let prog := if 8 ≤ u.cls then 0 else m.raw (Reg.stProgress u.st)
    let words := [w0, ctx, addr % 2 ^ 32, addr / 2 ^ 32 % 2 ^ 32, prog % 2 ^ 32, prog / 2 ^ 32,
      m.now % 2 ^ 32, m.now / 2 ^ 32 % 2 ^ 32]
    let m := (words.zip (List.range 8)).foldl (fun m x => m.setRaw (Reg.faultRec w x.2) x.1) m
    let m := m.setField Reg.faultStatus 6 0 ((w + 1) % 64 + 64 * b2n ((w + 65 - head) % 64 == 63))
    let m := { m with dev := { m.dev with faultLost := false } }
    m.event { addr := Reg.faultRec w 0, bit := 0, ctx := ctx, info := addr % 2 ^ 32 }

/-- Raises a fault of a unit (R383 to R386): the record, the hold of a station, and what it decides for the job. The
first ARCLK cycle in which a job faults decides its outcome, and in that cycle the lowest context ID; a later fault is
SECONDARY. -/
def Mach.faultHolding (m : Mach) (holds : Option Nat) (cls : Nat) (u : UnitRef) (job : Option Nat) (addr : Nat) : Mach :=
  let ctx := ctxId job u
  let j := job.bind m.job
  let secondary := match j with
    | some j => j.fault.isSome && j.faultAt != m.now
    | none => false
  let m := m.faultRecord cls u job addr secondary holds.isSome
  let m := match holds with
    | some st => m.setRaw (Reg.stFaultStatus st) (1 + 2 * (job.getD 0))
    | none => m
  match job, j with
  | some h, some j =>
    if secondary then m
    else
      let decides := match j.fault with
        | some f => decide (ctx < f.1)
        | none => true
      if decides then
        m.setJob h { j with fault := some (ctx, cls, addr), faultAt := m.now, status := faultStatusOf cls }
      else m
  | _, _ => m

/-- Raises a fault of a unit, which holds its station where Table 15.3 says so. -/
def Mach.fault (m : Mach) (cls : Nat) (u : UnitRef) (job : Option Nat) (addr : Nat) : Mach :=
  m.faultHolding (if faultHolds cls u.cls then some u.st else none) cls u job addr

/-! ### The frame of a command -/

/-- What the device needs for a command to come about at all. -/
inductive Need where
  /-- Nothing: power arrives or goes. -/
  | always
  /-- The always-on domain: power, and rails within tolerance. -/
  | aon
  /-- The device is out of PERST_N and runs its clocks. -/
  | run
  deriving DecidableEq, Repr

/-- Whether the device, as its power and reset pins stand, carries a command out (R443, R444, R451). -/
def Dev.runs (d : Dev) : Need → Bool
  | .always => true
  | .aon => d.clk.powered
  | .run => d.clk.powered && !d.clk.tripped && !d.clk.perst && d.clk.arclkOn

/-- Every command's frame. A device whose rails left their tolerance has no defined state (R445). A command with an
operand that names nothing on the part is refused. A command for which the device is not powered or clocked changes
nothing. Any other command has its effect on a `Mach`, and its writes are committed to the stores. -/
def act (need : Need) (i : Instr) (s : State) (f : Mach → Mach) : Host.Outcome State Fault Refusal :=
  if s.dev.clk.undef ∧ need ≠ .always then .fault .undefinedState
  else if i.wellFormed = false then .refused .illFormed
  else if s.dev.runs need = false then .next s
  else
    let m := f { mem := s.mem, dev := s.dev }
    .next { mem := s.mem.commit m.log, dev := m.dev, pending := s.pending }

end Sys2Proof.Machine
end

