-- ==== Sys2Proof/Machine/Timing.lean ====
section
/-! DEFINITION. Consist time, declared latencies, the stall wave and the stall counters (R139, R154 to R163, R309),
planes in force, and which units may act. -/

namespace Sys2Proof.Machine
open Sys2Proof

/-! ### Jobs and consist time -/

/-- The consist of a job. -/
def Mach.consistOf (m : Mach) (j : Job) : Consist := (m.consist j.consist).getD {}

/-- The latency of an ID for a job's units: the declared one, which a pad makes exact (R309), or the part's where a run
is elastic and the part is slower (R310). -/
def Mach.lat (m : Mach) (j : Job) (id : Nat) : Nat :=
  nth 0 (m.consistOf j).decl id + nth 0 (m.consistOf j).late id

/-- The gateway bays (R137). -/
def gateways : List Nat := [119, 120, 135, 136]

/-- Hops between two bays of the 16 × 16 grid. -/
def bayHops (a b : Nat) : Nat := axisHops (a / 16) (b / 16) + axisHops (a % 16) (b % 16)

/-- Hops from a bay to the nearest gateway bay. -/
def gateHops (b : Nat) : Nat := (gateways.map (bayHops b)).foldl min 30

/-- The leg between a station's router and a bay, inward with the write or the read at its end, and outward (Table
6.3). -/
def Mach.legIn (m : Mach) (j : Job) (b : Nat) : Nat := m.lat j Config.netHop * gateHops b + m.lat j Config.netGate + 2
def Mach.legOut (m : Mach) (j : Job) (b : Nat) : Nat := m.lat j Config.netHop * gateHops b + m.lat j Config.netGate

/-- Whether a channel serves a job in timetabled service: the job's requests there keep to consist time (R245); every
other one keeps to ARCLK. -/
def Mach.timetabledFor (m : Mach) (c h : Nat) : Bool := (m.ch c).service == 1 && (m.ch c).job == some h

/-- By how many cycles the part is slower than declared in an entry (R310). -/
def Mach.lateOf (m : Mach) (j : Job) (id : Nat) : Nat := nth 0 (m.consistOf j).late id

/-- In an elastic run, notes a result of a unit that is written in consist cycle `act`, `late` cycles after it falls due
under the declared latencies (R310). A freeze, which WAVE_REQ and WAVE_REL time, is no result of a unit (log 87). -/
def Mach.noteResult (m : Mach) (u : UnitRef) (late act : Nat) : Mach :=
  if late = 0 then m
  else
    let (n, m) := m.nextAge
    m.modStn u.st fun s => { s with late := s.late ++ [{ unit := u, due := act - late, act := act, id := n }] }

/-- Notes a result that one entry makes late and that is written `lat` cycles on. -/
def Mach.noteLate (m : Mach) (u : UnitRef) (j : Job) (id lat : Nat) : Mach := m.noteResult u (m.lateOf j id) (j.cyc + lat)

/-- A job's units act: it runs, or the ARCLK cycle in which its deciding fault came is not over (R385). -/
def Job.acts (j : Job) (now : Nat) : Bool :=
  j.started && !j.frozen &&
    (j.phase == .running && j.fault.isNone || (j.phase == .running && j.faultAt == now))

/-- The job whose units on a station may act now, with its handle. -/
def Mach.liveJob (m : Mach) (st : Nat) : Option (Nat × Job) :=
  match (m.stn st).job with
  | none => none
  | some h =>
    match m.job h with
    | some j => if j.acts m.now && !bit j.lost st then some (h, j) else none
    | none => none

/-- The job on a station, whatever its phase. -/
def Mach.stnJob (m : Mach) (st : Nat) : Option (Nat × Job) :=
  (m.stn st).job.bind fun h => (m.job h).map fun j => (h, j)

/-- A consist runs on a station (R125). -/
def Mach.consistRuns (m : Mach) (st : Nat) : Bool :=
  (m.stn st).prev.isSome || (m.stnJob st).any fun x => x.2.started

/-- The job of a station, for what its units do. -/
def Mach.jobOf (m : Mach) (st : Nat) : Nat := ((m.stn st).job).getD 0

/-- Exchanges what a station holds for its job with what it holds for the job before it, which still ends (R327). -/
def Mach.swap (m : Mach) (st : Nat) : Mach :=
  let s := m.stn st
  match s.prev with
  | none => m
  | some p => m.setStn st { s with
      job := some p.job, plane := p.plane, sb := p.sb, late := p.late, milesRun := p.milesRun, ptSeen := p.ptSeen
      work := p.work, moved := p.moved
      prev := some { job := s.job.getD 0, plane := s.plane, sb := s.sb, late := s.late, milesRun := s.milesRun
                     ptSeen := s.ptSeen, work := s.work, moved := s.moved } }

/-- Acts for the job before on a station where `old`, and for its present job otherwise. -/
def Mach.asOld (m : Mach) (st : Nat) (old : Bool) (f : Mach → Mach) : Mach :=
  if old && (m.stn st).prev.isSome then (f (m.swap st)).swap st else f m

/-- Acts for a job on a station. -/
def Mach.inJob (m : Mach) (st h : Nat) (f : Mach → Mach) : Mach :=
  m.asOld st ((m.stn st).job != some h && ((m.stn st).prev.any fun p => p.job == h)) f

/-- The machine as a job on a station sees it. -/
def Mach.seenBy (m : Mach) (st h : Nat) : Mach :=
  if (m.stn st).job != some h && ((m.stn st).prev.any fun p => p.job == h) then m.swap st else m

/-- The stations of a job as a list. -/
def Mach.jobStations (m : Mach) (j : Job) : List Nat := maskBits (m.consistOf j).stations 16

/-- Consist time of the job on a station (ST_CONSIST_CYC). -/
def Mach.cyc (m : Mach) (st : Nat) : Nat := ((m.stnJob st).map (·.2.cyc)).getD 0

/-- Marks that a unit of a station issued work in this cycle, and that a queue of it made progress (R191, R398). -/
def Mach.work (m : Mach) (st : Nat) : Mach := m.modStn st fun s => { s with work := true }
def Mach.moved (m : Mach) (st : Nat) : Mach := m.modStn st fun s => { s with moved := true }

/-! ### Configuration planes (R294, R326) -/

/-- The active plane of a bay: 1 where it has switched to plane 1. -/
def Mach.bayPlane (m : Mach) (st b : Nat) : Bool := fget false (m.stn st).bayPlane b
def Mach.vuPlane (m : Mach) (st v : Nat) : Bool := fget false (m.stn st).vuPlane v

/-- Acts for the job whose plane a bay or a vector unit holds: during an overlap each switches alone (R327). -/
def Mach.inBay (m : Mach) (st b : Nat) (f : Mach → Mach) : Mach :=
  m.asOld st ((m.stn st).prev.any fun p => m.bayPlane st b == p.plane) f
def Mach.inVu (m : Mach) (st v : Nat) (f : Mach → Mach) : Mach :=
  m.asOld st ((m.stn st).prev.any fun p => m.vuPlane st v == p.plane) f

/-- Acts for the job whose list an engine runs. -/
def Mach.inEngine (m : Mach) (st e : Nat) (f : Mach → Mach) : Mach :=
  if (m.engine st e).busy then m.inJob st (m.engine st e).job f else f m

/-- The plane word kinds. -/
def kReg : Nat := 0
def kTbl : Nat := 1
def kQd : Nat := 2

/-- A plane register of a Matrix Unit, in the bay's active plane. -/
def Mach.muWord (m : Mach) (st b o : Nat) : Nat :=
  m.planeWord (planeKey st (m.bayPlane st b) kReg (0x80000 + b * 0x800 + o))
/-- A plane register of a vector unit, in its active plane. Descriptor 0 reads 0 (Table 4.6). -/
def Mach.vuWord (m : Mach) (st v o : Nat) : Nat :=
  if 0x400 ≤ o ∧ o < 0x410 then 0 else m.planeWord (planeKey st (m.vuPlane st v) kReg (0x40000 + v * 0x2000 + o))
/-- A plane register of the station's own, in its active plane. -/
def Mach.stWord (m : Mach) (st o : Nat) : Nat := m.planeWord (planeKey st (m.stn st).plane kReg o)
/-- BAY_SLAB_CTRL of a bay, in its active plane (R133). -/
def Mach.slabCtrl (m : Mach) (st b : Nat) : Nat := m.planeWord (planeKey st (m.bayPlane st b) kReg (0x20000 + b * 0x100))

/-- The ST_TBL_SEL values of a route, a wheel entry, a word of a points entry and an instruction (Table 6.19). -/
def tblRoute (b r : Nat) : Nat := b * 2 ^ 4 + r * 2 ^ 12
def tblWheel (b net out e : Nat) : Nat := 1 + b * 2 ^ 4 + net * 2 ^ 12 + out * 2 ^ 14 + e * 2 ^ 17
def tblPoints (b e w : Nat) : Nat := 2 + b * 2 ^ 4 + e * 2 ^ 12 + w * 2 ^ 16
def tblInstr (i : Nat) : Nat := 3 + i * 2 ^ 4

/-- Route r, a wheel entry and a points entry word of a bay, in the bay's active plane. -/
def Mach.route (m : Mach) (st b r : Nat) : Nat := m.planeWord (planeKey st (m.bayPlane st b) kTbl (tblRoute b r))
def Mach.wheel (m : Mach) (st b net out e : Nat) : Nat :=
  m.planeWord (planeKey st (m.bayPlane st b) kTbl (tblWheel b net out e))
def Mach.pointsWord (m : Mach) (st b e w : Nat) : Nat :=
  m.planeWord (planeKey st (m.bayPlane st b) kTbl (tblPoints b e w))
/-- Instruction i of the signal box, in the station's active plane. -/
def Mach.sbInstr (m : Mach) (st i : Nat) : Nat := m.planeWord (planeKey st (m.stn st).plane kTbl (tblInstr i))

/-- The home bay of a queue: the BAY field that the active plane's descriptor holds, found in the station's plane and
read in the bay's (R201). -/
def Mach.qWord (m : Mach) (st q w : Nat) : Nat :=
  let b := bits (m.planeWord (planeKey st (m.stn st).plane kQd (4 * q))) 12 5
  m.planeWord (planeKey st (m.bayPlane st b) kQd (4 * q + w))

/-- Acts for the job that a queue serves: the present one, unless the queue's home bay still holds the plane of the job
before (R327). -/
def Mach.inQueue (m : Mach) (st q : Nat) (f : Mach → Mach) : Mach :=
  m.asOld st
    ((m.stn st).prev.any fun p =>
      m.bayPlane st (bits (m.planeWord (planeKey st (m.stn st).plane kQd (4 * q))) 12 5) == p.plane) f

/-- Fields of a queue descriptor (Table 7.10). -/
def Mach.qKind (m : Mach) (st q : Nat) : Nat := bits (m.qWord st q 0) 2 0
def Mach.qNet (m : Mach) (st q : Nat) : Nat := bits (m.qWord st q 0) 4 3
def Mach.qBay (m : Mach) (st q : Nat) : Nat := bits (m.qWord st q 0) 12 5
def Mach.qLate (m : Mach) (st q : Nat) : Nat := bits (m.qWord st q 0) 14 13

/-- Whether a cycle has come: of the consist on a station, or of ARCLK for what external legs brought (R159). -/
def Mach.clock (m : Mach) (st : Nat) (arc : Bool) : Nat := if arc then m.now else m.cyc st

/-! ### The stall wave (R157 to R159) -/

/-- A unit's number in the counter selector (Table 6.11). -/
def UnitRef.number (u : UnitRef) : Nat :=
  if u.cls = 1 then 2 * (u.bay / 16) + u.bay % 16 / 8 else if u.cls = 5 then u.sub else u.bay

/-- The key of a unit's wait: its counters' number (Table 6.11), and for a points unit the entry that waits, since the
entries of a bay wait each for itself. -/
def waitKey (u : UnitRef) : Nat := (u.st * 16 + u.cls) * 256 + u.number + (if u.cls = 3 then u.sub else 0) * 2 ^ 20

/-- The key of a further wait of a unit beside its first: a Matrix Unit's drain and its weights, a vector unit's result
write, and each queue of a combiner wait at the same time as the unit's issue does. -/
def waitSlot (u : UnitRef) (slot : Nat) : Nat := waitKey u + slot * 2 ^ 24

/-- The unit that a wait's key names, as station, class and number. -/
def waitUnit (k : Nat) : Nat := k % 2 ^ 16

/-- A unit waits, under a cause and on a queue as its receiver or its sender. -/
def Mach.waitAt (m : Mach) (k : Nat) (w : WaitRec) : Mach :=
  { m with dev := { m.dev with waits := fput m.dev.waits k w } }
def Mach.wait (m : Mach) (u : UnitRef) (w : WaitRec) : Mach := m.waitAt (waitKey u) w

/-- A unit waits no longer. -/
def Mach.unwaitAt (m : Mach) (k : Nat) : Mach := { m with dev := { m.dev with waits := fdel m.dev.waits k } }
def Mach.unwait (m : Mach) (u : UnitRef) : Mach := m.unwaitAt (waitKey u)

/-- No wait of a unit is left. -/
def Mach.unwaitAll (m : Mach) (u : UnitRef) : Mach :=
  { m with dev := { m.dev with
      waits := m.dev.waits.filter fun (e : Nat × WaitRec) => waitUnit e.1 != waitUnit (waitKey u) } }

/-- ST_WAVE_SRC of a request (Table 6.16). -/
def StallReq.source (r : StallReq) : Nat :=
  pack [(0, 4, r.unit.sub), (4, 4, r.unit.cls), (8, 8, r.unit.bay), (16, 4, r.unit.st),
    (20, 12, if r.queue < 4096 then r.queue else 4095)]

/-- The requests of a job that are outstanding, in the order raised. -/
def Job.outstanding (j : Job) : List StallReq := j.stalls.filter fun r => r.cleared.isNone

/-- A unit raises a stall request (R158): it sets the freeze WAVE_REQ cycles on where none is due, and joins the wave
where one is. No request can be raised while the consist is frozen, and a unit's wait raises one request. A queue counts
a wave that a request on it starts or joins once (R163). -/
def Mach.raiseStall (m : Mach) (h : Nat) (u : UnitRef) (queue cause : Nat) : Mach :=
  match m.job h with
  | none => m
  | some j =>
    if j.frozen ∨ j.outstanding.any (fun r => r.unit == u && r.queue == queue) then m
    else
      let r : StallReq := { unit := u, queue := queue, cause := cause, raised := m.now }
      let joined := j.stalls.any fun r => r.queue == queue && r.unit.st == u.st
      let m := m.setJob h { j with
        stalls := j.stalls ++ [r]
        freezeAt := some (j.freezeAt.getD (m.now + m.lat j Config.waveReq)) }
      if queue < 4096 && !joined then m.modQueue u.st queue fun q => { q with waves := q.waves + 1 } else m

/-- A unit's request clears: its item has reached it (R158). -/
def Mach.clearStall (m : Mach) (h : Nat) (u : UnitRef) (queue : Nat) : Mach :=
  m.modJob h fun j =>
    if j.outstanding.any (fun r => r.unit == u && r.queue == queue) then
      { j with
        stalls := j.stalls.map fun r =>
          if r.unit == u && r.queue == queue && r.cleared.isNone then { r with cleared := some m.now } else r
        lastClear := m.now }
    else j

/-- ELASTIC_RESULT_DUE (R310): a late result of a station falls due and raises its stall request, or, written at last,
clears it. The unit does not wait. -/
def effElasticResultDue (st : Nat) (m : Mach) : Mach :=
  match m.liveJob st with
  | none => m
  | some (h, j) =>
    let ls := (m.stn st).late
    match ls.find? fun r => !r.raised && decide (r.due ≤ j.cyc) with
    | some r =>
      let m := m.modStn st fun s => { s with late := s.late.map fun x => if x.id == r.id then { x with raised := true } else x }
      m.raiseStall h r.unit (4096 + r.id) 0
    | none =>
      match ls.find? fun r => r.raised && decide (r.act ≤ j.cyc) with
      | some r =>
        let m := m.modStn st fun s => { s with late := s.late.filter fun x => x.id != r.id }
        m.clearStall h r.unit (4096 + r.id)
      | none => m

def execElasticResultDue (st : Nat) (s : State) := act .run (.elasticResultDue st) s (effElasticResultDue st)

/-- An item reaches a queue: every request that waits for the queue clears. -/
def Mach.clearQueueStalls (m : Mach) (st q : Nat) : Mach :=
  match m.stnJob st with
  | none => m
  | some (h, j) =>
    (j.outstanding.filter fun r => r.queue == q && r.unit.st == st).foldl
      (fun m r => m.clearStall h r.unit q) m

/-- The length L of a freeze that began in cycle f and whose last request cleared in cycle a (R158). -/
def freezeLength (a rel f : Nat) : Nat := 64 * max 1 ((a + rel - f + 63) / 64)

/-! ### Stall counters (R162, R163) -/

/-- The key of a unit's counter for a cause, kept above the BAR0 offsets. Cause codes are those of Table 6.10. -/
def stallKey (k cause : Nat) : Nat := 2 ^ 32 + k * 8 + cause

/-- The frozen cycles of a station by the cause of the oldest request; every unit of the station counts them. -/
def frozenKey (st cause : Nat) : Nat := 2 ^ 33 + st * 8 + cause

/-- Whether a wait's unit acts for the job of a station that is looked at. -/
def Mach.waitMine (m : Mach) (st k : Nat) : Bool :=
  let s := m.stn st
  waitUnit k / 4096 == st && (s.prev.isNone ||
    (let cls := waitUnit k / 256 % 16
     if cls = 1 then m.vuPlane st (k % 256) == s.plane
     else if cls = 4 then !s.sb.ended
     else if cls = 5 then some (m.engine st (k % 256)).job == s.job
     else m.bayPlane st (k % 256) == s.plane))

/-- What the messages of a station's bays make their senders wait on: those whose request waits at the home bay for room
(R175), and, with `held`, those held behind four outstanding requests (R174). A sender to a full control queue waits under
"points wait" (R148). -/
def Mach.sendWaits (m : Mach) (st : Nat) (held : Bool) : List (Nat × WaitRec) :=
  (m.dev.outbox.filter fun e => e.1 / 16384 == st).flatMap fun e =>
    let four := decide (4 ≤ (e.2.filter fun y => 1 ≤ y.stage && y.stage ≤ 3).length)
    let room := e.2.any fun y => y.stage == 2
    (e.2.filter fun x => x.stage == 2 || (x.stage == 0 && four && (room || held))).map fun x =>
      (waitKey x.unit, { cause := if x.net = 2 then 3 else 2, full := some (x.dstSt * 4096 + x.queue) })

/-- Consist time of the job of a slab request. -/
def Mach.reqCyc (m : Mach) (r : PortReq) : Nat := ((r.job.bind m.job).map (·.cyc)).getD 0

/-- The ARCLK cycle in which a slab request was made, its consist taken to have run on since. -/
def Mach.reqNow (m : Mach) (r : PortReq) : Nat := if r.arc then r.due else m.now + r.due - m.reqCyc r

/-- Whether a request stands at its port in this cycle. Requests of the consist stand only while it is not frozen. -/
def Mach.reqStands (m : Mach) (r : PortReq) : Bool :=
  if r.arc then r.due ≤ m.now
  else
    match r.job.bind m.job with
    | some j => !j.frozen && decide (r.due ≤ j.cyc)
    | none => false

/-- The unit that waits where a request of bay b's port is not served (Table 5.3); the unscheduled requesters and the scrub
are no units of the station. -/
def PortUser.unit (st b : Nat) : PortUser → Option UnitRef
  | .muWeight | .muAct => some { cls := 0, st := st, bay := b }
  | .vuRead v _ | .vuWrite v => some { cls := 1, st := st, bay := 16 * (v / 2) + 8 * (v % 2) }
  | .engine est e _ => some { cls := 5, st := est, sub := e }
  | .ringHead _ _ | .ringWord _ _ _ | .ringRead _ _ | .ringCopy _ | .sideWrite _ | .sideRead _ =>
    some { cls := 2, st := st, bay := b }
  | .remote _ | .sample _ | .scrub => none

/-- The waits of requests that stand at slab ports when a cycle ends: "operand", and local to their unit (R118, R157). -/
def Mach.portWaits (m : Mach) (st : Nat) : List (Nat × WaitRec) :=
  (m.dev.slabPort.flatMap fun e => (e.2.reqs.filter m.reqStands).filterMap fun r =>
    (r.user.unit (e.1 / 256) (e.1 % 256)).map fun u => (waitKey u, { cause := 0 })).filter
      fun (e : Nat × WaitRec) => waitUnit e.1 / 4096 == st

/-- Every wait of a station's units for the job that is looked at, as the counters see them. -/
def Mach.stnWaits (m : Mach) (st : Nat) : List (Nat × WaitRec) :=
  (m.dev.waits ++ m.sendWaits st false ++ m.portWaits st).filter fun e => m.waitMine st e.1

/-- The first cause of a unit in the order of R162: remote, DDR, token, points wait, queue full, queue empty, operand. -/
def firstCause (causes : List Nat) : Option Nat := [5, 4, 6, 3, 2, 1, 0].find? causes.contains

/-- Every unit of a station by the key of its counters: Matrix Units, vector units, switch nodes, points units, the signal
box, engines and combiners (Table 6.11). -/
def stnUnits (st : Nat) : List Nat :=
  [(0, 256), (1, 32), (2, 256), (3, 256), (4, 1), (5, 8), (6, 256)].flatMap fun c =>
    (List.range c.2).map fun n => (st * 16 + c.1) * 256 + n

/-- One ARCLK cycle of a station's stall counters: a frozen station's units count under the cause of the oldest outstanding
request, or of the wave's last when none is; otherwise each waiting unit counts under the first of its own causes, and
ST_STALLk counts a cycle with at least one (R162). During an overlap the frozen units of one job count each for itself.
A queue counts each cycle in which a receiver, or a sender, waited on it (R163). -/
def Mach.countStalls (m : Mach) (st : Nat) : Mach :=
  match m.stnJob st with
  | none => m
  | some (_, j) =>
    if j.started = false then m
    else
      let ws := m.stnWaits st
      let m := if j.frozen then
          let cause := match j.outstanding with
            | r :: _ => r.cause
            | [] => (j.stalls.getLast?.map (·.cause)).getD 0
          let m := if (m.stn st).prev.isNone then m.count (frozenKey st cause) 1
            else ((stnUnits st).filter (m.waitMine st)).foldl
              (fun m u => (m.count (stallKey u cause) 1).count (stallKey u 7) 1) m
          let m := m.count (Reg.stStall st cause) 1
          m.count (Reg.waveCyc st) 1
        else
          let causes := (ws.map fun e => waitUnit e.1).eraseDups.filterMap fun u =>
            (firstCause ((ws.filter fun e => waitUnit e.1 == u).map (·.2.cause))).map fun c => (u, c)
          let m := causes.foldl (fun m c => m.count (stallKey c.1 c.2) 1) m
          (List.range 7).foldl
            (fun m k => if causes.any (fun c => c.2 == k) then m.count (Reg.stStall st k) 1 else m) m
      let m := (ws.filterMap (·.2.empty)).eraseDups.foldl
        (fun m q => m.modQueue (q / 4096) (q % 4096) fun x => { x with empty := x.empty + 1 }) m
      (ws.filterMap (·.2.full)).eraseDups.foldl
        (fun m q => m.modQueue (q / 4096) (q % 4096) fun x => { x with full := x.full + 1 }) m

/-- A unit's stall counter as the table window shows it: its own cycles and its station's frozen ones; selector 7 is
the frozen counter. -/
def Mach.unitStall (m : Mach) (st cls unit sel : Nat) : Nat :=
  let k := (st * 16 + cls) * 256 + unit
  if sel = 7 then (m.raw (stallKey k 7) + ((List.range 7).map fun c => m.raw (frozenKey st c)).sum) % 2 ^ 64
  else (m.raw (stallKey k sel) + m.raw (frozenKey st sel)) % 2 ^ 64

end Sys2Proof.Machine
end

