-- ==== Sys2Proof/Machine/Grid.lean ====
section
/-! DEFINITION. The grid at run time (R25, R26, R30, R142): the booked slots of grid and gateway links, the ways that words
take over them, and how long they travel. -/

namespace Sys2Proof.Machine
open Sys2Proof

/-- The position pairs of the grid links, in ascending order, and whether each is a bridge link. -/
def gridLinks : List (Nat × Nat × Bool) :=
  (List.range 16).flatMap fun p => (List.range 16).filterMap fun q =>
    if p < q ∧ gridHops p q = 1 then some (p, q, gridBridges p q != 0) else none

/-- The number of a link lane: a grid link's direction and lane, or a gateway link's direction. -/
def Booking.slot (b : Booking) : Nat :=
  if b.gateway then 4096 + (b.pos * 4 + b.gate) * 2 + b.dir else (b.link * 2 + b.dir) * 2 + b.lane

/-- The first cycle of a wheel entry, from t on, in which a lane carries no word yet. -/
def slotGo (used : List (Nat × Nat)) (id : Nat) : Nat → Nat → Nat
  | 0, t => t
  | fuel + 1, t => if used.contains (t, id) then slotGo used id fuel (t + 64) else t

/-- The first free cycle of a booking from ARCLK cycle t on: the wheels of the links advance with the count of ARCLK cycles
since ARCLK started (R142). -/
def Booking.free (b : Booking) (used : List (Nat × Nat)) (t : Nat) : Nat :=
  slotGo used b.slot (used.length + 1) (t + (b.entry + 64 - t % 64) % 64)

/-- The first free slot of some bookings from a cycle on: its cycle and its lane. -/
def firstSlot (bs : List Booking) (used : List (Nat × Nat)) (t : Nat) : Option (Nat × Nat) :=
  (leastBy (fun b => b.free used t) bs).map fun b => (b.free used t, b.slot)

/-- A way that a word takes from an ARCLK cycle on: when it is there, the cycles that it travels without its waits for
slots, by how many of them its entries are late in an elastic run (R310), and the slots that it takes. -/
structure Way where
  there  : Nat := 0
  travel : Nat := 0
  late   : Nat := 0
  slots  : List (Nat × Nat) := []
  deriving DecidableEq, Repr, Inhabited

/-- A way goes on for some cycles. -/
def Way.on (w : Way) (n : Nat) : Way := { w with there := w.there + n, travel := w.travel + n }

/-- A way goes on for n times the latency of an entry. -/
def Way.by (w : Way) (m : Mach) (j : Job) (id n : Nat) : Way :=
  { w.on (m.lat j id * n) with late := w.late + m.lateOf j id * n }

/-- A way goes on over another part. -/
def Way.via (w : Way) (f : Nat → Option Way) : Option Way :=
  (f w.there).map fun x => { there := x.there, travel := w.travel + x.travel, late := w.late + x.late, slots := w.slots ++ x.slots }

/-- A way that waits for a slot and takes it. -/
def Way.take (w : Way) (s : Nat × Nat) : Way := { w with there := s.1, slots := w.slots ++ [s] }

/-- The links of the grid, each in both directions: from, to, link, direction, cycles (Table 1.10). -/
def gridEdges : List (Nat × Nat × Nat × Nat × Nat) :=
  (gridLinks.zip (List.range gridLinks.length)).flatMap fun l =>
    let n := if l.1.2.2 then 16 else 7
    [(l.1.1, l.1.2.1, l.2, 0, n), (l.1.2.1, l.1.1, l.2, 1, n)]

/-- One round of the search: each link extends the best way to its beginning. -/
def gridRelax (bs : List Booking) (used : List (Nat × Nat)) (ws : List (Option Way)) : List (Option Way) :=
  gridEdges.foldl
    (fun ws e =>
      match nth none ws e.1 with
      | none => ws
      | some w =>
        match firstSlot (bs.filter fun b => !b.gateway && b.link == e.2.2.1 && b.dir == e.2.2.2.1) used w.there with
        | none => ws
        | some s =>
          let x := (w.take s).on e.2.2.2.2
          if (nth none ws e.2.1).any fun y => y.there ≤ x.there then ws else ws.set e.2.1 (some x)) ws

/-- The search for the way over booked slots that is there first. -/
def gridSearch (bs : List Booking) (used : List (Nat × Nat)) (p q t : Nat) : Option Way :=
  nth none ((List.range 16).foldl (fun ws _ => gridRelax bs used ws)
    ((List.replicate 16 none).set p (some { there := t }))) q

/-- A consist's way between two positions from ARCLK cycle t on: over its own bookings, whichever of them bring the word
there first; none where no chain of bookings leads there (R30, R142). -/
def Mach.gridWay (m : Mach) (j : Job) (p q t : Nat) : Option Way :=
  if p = q then some { there := t } else gridSearch (m.consistOf j).bookings m.dev.gridUsed p q t

/-- From a station's router to another's, and between a station's router and a channel's port (R26). -/
def Mach.stnWay (m : Mach) (j : Job) (a b t : Nat) : Option Way :=
  if a = b then some { there := t } else (m.gridWay j (m.position a) (m.position b) t).map fun w => w.on 8
def Mach.toChannel (m : Mach) (j : Job) (st c t : Nat) : Option Way :=
  (m.gridWay j (m.position st) (nth 0 Config.channelPosition c) t).map fun w => w.on 10
def Mach.fromChannel (m : Mach) (j : Job) (st c t : Nat) : Option Way :=
  (m.gridWay j (nth 0 Config.channelPosition c) (m.position st) t).map fun w => w.on 10

/-- The booked slots of the gateway links of a station: direction 0 inward, 1 outward. -/
def Mach.gateBookings (m : Mach) (j : Job) (st dir : Nat) : List Booking :=
  (m.consistOf j).bookings.filter fun b => b.gateway && b.pos == m.position st && b.dir == dir

/-- From a gateway bay to its station's router. -/
def Mach.gateOut (m : Mach) (j : Job) (st bay t : Nat) : Option Way :=
  (firstSlot ((m.gateBookings j st 1).filter fun b => nth 0 gateways b.gate == bay) m.dev.gridUsed t).map fun s =>
    (({ there := t } : Way).take s).by m j Config.netGate 1

/-- From a station's router into the station: the first booking whose gateway bay leads on in `rest` hops and 2 cycles,
which it gives for a gateway bay and the cycle of arrival there. -/
def Mach.gateIn (m : Mach) (j : Job) (st t : Nat) (rest : Nat → Nat → Option Nat) : Option Way :=
  let ways := (m.gateBookings j st 0).filterMap fun b =>
    let w := (({ there := t } : Way).take (b.free m.dev.gridUsed t, b.slot)).by m j Config.netGate 1
    (rest (nth 0 gateways b.gate) w.there).map fun n => (w.by m j Config.netHop n).on 2
  leastBy Way.there ways

/-- Between a bay and its station's router, and between the router and a slab of the station (Table 6.3). -/
def Mach.toRouter (m : Mach) (j : Job) (st b t : Nat) : Option Way :=
  let ways := gateways.filterMap fun g =>
    (({ there := t } : Way).by m j Config.netHop (bayHops g b)).via (m.gateOut j st g)
  leastBy Way.there ways
def Mach.toBay (m : Mach) (j : Job) (st b t : Nat) : Option Way :=
  m.gateIn j st t fun g _ => some (bayHops g b)

/-- A word takes its slots; those of past cycles are forgotten. -/
def Mach.takeWay (m : Mach) (w : Way) : Mach :=
  { m with dev := { m.dev with gridUsed := (m.dev.gridUsed.filter fun s => decide (m.now ≤ s.1)) ++ w.slots } }

/-- The ARCLK cycle of a time of a station's consist, or of ARCLK itself, taken to run on. -/
def Mach.arcTime (m : Mach) (st : Nat) (arc : Bool) (t : Nat) : Nat := m.now + (t - m.clock st arc)

/-- A word of a unit takes a way from time t on, in the clock given: when it is there, in that clock. -/
def Mach.ride (m : Mach) (u : UnitRef) (arc : Bool) (t : Nat) (f : Nat → Option Way) : Option (Nat × Mach) :=
  let a := m.arcTime u.st arc t
  (f a).map fun w => (t + (w.there - a), (m.takeWay w).noteResult u w.late (m.cyc u.st + (w.there - m.now)))

end Sys2Proof.Machine
end

