-- ==== Sys2Proof/Machine/Slabs.lean ====
section
/-! DEFINITION. Slab storage: addresses, the word code, its counters and log, and requests at the slab port and at the
DDR channels (R111 to R135, R239, R249, R455). -/

namespace Sys2Proof.Machine
open Sys2Proof

/-- The scratchpad offset of a slab byte (R112). -/
def slabOff (st b a : Nat) : Nat := st * 2 ^ 28 + b * 2 ^ 20 + a

/-- The station, the bay and the slab address named by a scratchpad offset (R112). -/
def spStn (off : Nat) : Nat := bits off 31 28
def spBay (off : Nat) : Nat := bits off 27 20
def spAddr (off : Nat) : Nat := off % 2 ^ 20

/-- The bytes of a slab (R111). -/
def slabSize : Nat := 0xC0000

/-- Whether a scratchpad offset range names slab bytes of enabled stations (R112). -/
def Mach.slabExists (m : Mach) (off n : Nat) : Bool :=
  off < 2 ^ 32 && (off / 2 ^ 28 < m.stations) && (off % 2 ^ 20 + n ≤ slabSize)

/-- The bank of the line at a slab address (Table 5.2). -/
def bankOf (hashed : Bool) (a : Nat) : Nat :=
  let native := bits a 10 7 ^^^ bits a 14 11
  if hashed then native ^^^ bits a 18 15 ^^^ bits a 19 19 else native

/-- The place of a slab address among the cells, which are numbered as the native mode addresses them: in the hashed mode
the same address reaches the same row of another bank, so a change of mode moves no data (R116, R121). -/
def cellOf (hashed : Bool) (a : Nat) : Nat :=
  if hashed then a ^^^ ((bits a 18 15 ^^^ bits a 19 19) * 128) else a

/-- The cell of a scratchpad offset under the bank mode of its bay. Lines map to lines, and the map is its own inverse. -/
def Mach.cell (m : Mach) (off : Nat) : Nat :=
  slabOff (spStn off) (spBay off) (cellOf (bit (m.slabCtrl (spStn off) (spBay off)) 0) (spAddr off))

/-- Cuts a range into pieces that lie in one line each: offset and length. -/
def linePieces : Nat → Nat → Nat → List (Nat × Nat)
  | 0, _, _ => []
  | fuel + 1, off, n =>
    if n = 0 then []
    else
      let k := min n (128 - off % 128)
      (off, k) :: linePieces fuel (off + k) (n - k)

/-- The pieces of a range. -/
def linesOf (off n : Nat) : List (Nat × Nat) := linePieces (n / 128 + 2) off n

/-! ### Source codes of BAY_SLAB_ERRLOG (Table 5.8) -/
def srcSwitch : Nat := 0
def srcMu : Nat := 1
def srcVu : Nat := 2
def srcRemote : Nat := 3
def srcSample : Nat := 4
def srcScrub : Nat := 5
def srcEngine : Nat := 6

/-- Records one faulty word: the counter, the log under R134, and the event that BAY_SLAB_CTRL enables. -/
def Mach.slabLog (m : Mach) (st b a source : Nat) (uncorr : Bool) : Mach :=
  let m := m.stat (if uncorr then Reg.slabUe st b else Reg.slabCe st b) 1
  let old := m.raw (Reg.slabErrlog st b)
  let m :=
    if !uncorr && bit old 31 && bit old 20 then m
    else m.setRaw (Reg.slabErrlog st b) (pack [(0, 20, a), (20, 1, b2n uncorr), (21, 3, source), (31, 1, 1)])
  let ctl := m.slabCtrl st b
  let off := slabOff st b a
  if !uncorr && bit ctl 1 then m.event { addr := Reg.slabCtrl st b, bit := 1, info := off }
  else if uncorr && bit ctl 2 && (source == srcSample || source == srcRemote || source == srcScrub) then
    m.event { addr := Reg.slabCtrl st b, bit := 2, info := off }
  else m

/-- Passes the words of [a, a + n) of a slab through the code (R122, R134): counts and logs each faulty word in
ascending address order, and answers the lowest uncorrectable word's address. -/
def Mach.slabCheck (m : Mach) (st b a n source : Nat) : Option Nat × Mach :=
  let words := (List.range ((a + n + 3) / 4 - a / 4)).map fun i => a / 4 * 4 + 4 * i
  words.foldl
    (fun (acc : Option Nat × Mach) w =>
      match ffind acc.2.dev.slabErr (acc.2.cell (slabOff st b w) / 4) with
      | none => acc
      | some k =>
        let m := acc.2.slabLog st b w source (k != 1)
        (if k ≠ 1 ∧ acc.1 = none then some w else acc.1, m))
    (none, m)

/-- The n bytes of the scratchpad from an offset on. -/
def Mach.spRead (m : Mach) (off n : Nat) : Bytes :=
  (linesOf off n).flatMap fun p => m.slabRead (m.cell p.1) p.2

/-- The bytes of [a, a + n) of a slab. -/
def Mach.slabBytes (m : Mach) (st b a n : Nat) : Bytes := m.spRead (slabOff st b a) n

/-- Writes bytes of whole words to a slab; their codes become good (R124), and a write-back that the scrub has read for
one of the lines is abandoned (R125). -/
def Mach.slabStore (m : Mach) (st b a : Nat) (d : Bytes) : Mach :=
  (linesOf a d.length).foldl
    (fun m p =>
      let off := m.cell (slabOff st b p.1)
      let m := { m with dev := { m.dev with
        slabErr := fkeep m.dev.slabErr fun k => k * 4 + 3 < off || off + p.2 ≤ k * 4
        stn := m.dev.stn.map fun (s : Nat × Station) =>
          if s.1 = st then (s.1, { s.2 with scrubFix := s.2.scrubFix.filter fun w => w / 32 != off / 128 }) else s } }
      m.slabWrite off (slice d (p.1 - a) p.2)) m

/-- Writes the enabled words of a wide write (R113). -/
def Mach.slabWords (m : Mach) (st b line : Nat) (ws : List (Nat × W32)) : Mach :=
  ws.foldl (fun m w => m.slabStore st b (line + 4 * w.1) (toLe 4 w.2.toNat)) m

/-- Sends a request to a slab port. -/
def Mach.slabPost (m : Mach) (st b : Nat) (r : PortReq) : Mach :=
  let (age, m) := m.nextAge
  let p := m.portOf st b
  m.setPort st b { p with reqs := p.reqs ++ [{ r with age := age, job := r.job.orElse fun _ => (m.stn st).job }] }

/-! ### DDR space (R239, R241, R249) -/

/-- The channel of a DDR offset. -/
def chanOf (off : Nat) : Nat := bits off 15 12
/-- The channel address of a DDR offset, its rank and its bank A[12:7] (Table 9.5). -/
def chanAddr (off : Nat) : Nat := off / 2 ^ 16 * 2 ^ 12 + off % 2 ^ 12
def chanRank (off : Nat) : Nat := bits (chanAddr off) 7 7
def chanBank (off : Nat) : Nat := bits (chanAddr off) 12 7
/-- The DDR offset of a channel address. -/
def ddrOf (c a : Nat) : Nat := a / 2 ^ 12 * 2 ^ 16 + c * 2 ^ 12 + a % 2 ^ 12

/-! ### The symbol code of DDR (R242) -/

/-- The devices of a burst in which a codeword has a symbol error: bit 20 i + d of a line's mark is codeword i's symbol of
device d. -/
def faultyDevices (mark : Nat) : List Nat :=
  (List.range 20).filter fun d => (List.range 4).any fun i => bit mark (20 * i + d)

/-- What the four codewords of a burst make of its symbol errors: 0 no error, 1 + d corrected in device d, 32 uncorrectable.
Errors confined to one device are corrected and errors confined to two are detected; whether errors in more devices are
detected R242 leaves open (log 82). -/
def symbolCode (mark : Nat) : Nat :=
  match faultyDevices mark with
  | [] => 0
  | [d] => 1 + d
  | [_, _] => 32
  | _ => if Config.codeDetects mark then 32 else 0

/-- The data of a burst as the code passes them on: errors in more than two devices that it does not detect leave the
bytes open. -/
def Mach.burst (m : Mach) (off n : Nat) : Bytes :=
  let mark := fget 0 m.dev.ddrErr (off / 128)
  if 2 < (faultyDevices mark).length then (List.range n).map fun i => Config.missedByte mark (off % 128 + i)
  else m.ddrRead off n

/-! ### Requests to DDR -/

/-- Whether a DDR range lies below the capacity and outside the depot area (R241). -/
def Mach.ddrReachable (m : Mach) (off n : Nat) : Bool := m.capacity != 0 && off + n ≤ m.depotBase

/-- Whether a DDR request is one of the job that holds its channel in timetabled service; every other request of such a
channel is unscheduled (R249). -/
def DdrUser.scheduled : DdrUser → Bool
  | .engine _ _ _ => true
  | .siding _ _ => true
  | _ => false

/-- Sends one request to a channel: at once where its source is the controller or the host, and in consist cycle `due`
for a job's own. -/
def Mach.ddrPost (m : Mach) (r : DdrReq) : Mach :=
  let c := chanOf r.off
  let ch := m.ch c
  m.setCh c { ch with port := ch.port ++ [{ r with age := ch.ages }], ages := ch.ages + 1 }

/-- Posts a write of any length, line by line. -/
def Mach.ddrPostWrite (m : Mach) (user : DdrUser) (job : Option Nat) (off : Nat) (d : Bytes) : Mach :=
  (linesOf off d.length).foldl
    (fun m p => m.ddrPost { user := user, write := true, off := p.1, len := p.2
                            data := slice d (p.1 - off) p.2, job := job, due := m.now })
    m

/-- Posts a read of any length, line by line. -/
def Mach.ddrPostRead (m : Mach) (user : DdrUser) (job : Option Nat) (off n : Nat) : Mach :=
  (linesOf off n).foldl
    (fun m p => m.ddrPost { user := user, off := p.1, len := p.2, job := job, due := m.now }) m

end Sys2Proof.Machine
end

