-- ==== Sys2Proof/Machine/Queues.lean ====
section
/-! DEFINITION. Station queues (chapter 07): descriptors, room, ring records, reading the record at the head, sidings,
and the folding of tapped messages into milepost digests (R373 to R375). The commands of the chapter are in
Networks.lean. -/

namespace Sys2Proof.Machine
open Sys2Proof

/-! ### Descriptors (Table 7.10) -/

/-- A queue descriptor's fields. -/
structure QDesc where
  kind : Nat
  net : Nat
  bay : Nat
  late : Nat
  depth : Nat
  cap : Nat
  base : Nat
  declLen : Nat
  joinShort : Bool
  srcQ : Nat
  senders : Nat
  ctype : Nat
  skew : Nat
  sEn : Bool
  sDdr : Bool
  sBase : Nat
  sSize : Nat
  deriving DecidableEq, Repr

/-- Reads the four words of a descriptor. -/
def decodeQDesc (w0 w2 w3 : Nat) : QDesc :=
  { kind := bits w0 2 0, net := bits w0 4 3, bay := bits w0 12 5, late := bits w0 14 13
    depth := 8 * (bits w0 17 15 + 1), cap := 2 ^ (8 + bits w0 21 18), base := bits w0 44 32 * 128
    declLen := bits w0 58 45 + 1, joinShort := bit w0 22
    srcQ := bits w2 11 0, senders := bits w2 17 12 + 1, ctype := bits w2 19 18, skew := bits w2 47 32
    sEn := bit w3 0, sDdr := bit w3 1, sBase := bits w3 41 12 * 4096, sSize := 2 ^ (12 + bits w3 46 42) }

/-- The descriptor of a queue in the active plane of its home bay. -/
def Mach.qdesc (m : Mach) (st q : Nat) : QDesc := decodeQDesc (m.qWord st q 0) (m.qWord st q 2) (m.qWord st q 3)

/-- The switch node that holds a queue: unit class 2, the home bay and the network (R165). -/
def queueUnit (st : Nat) (d : QDesc) : UnitRef := { cls := 2, st := st, bay := d.bay, sub := d.net }

/-- Bytes of a network word (Table 6.1); a control item takes two bytes here, of which 9 bits count. -/
def wordBytes (net : Nat) : Nat := if net = 1 then 128 else if net = 2 then 2 else 4

/-- Words of a message (R136). -/
def wordsOf (net n : Nat) : Nat := (n + wordBytes net - 1) / wordBytes net

/-- A queue whose storage is a ring. -/
def QDesc.isRing (d : QDesc) : Bool := d.kind == 2 || d.kind == 4
/-- A combining queue. -/
def QDesc.combines (d : QDesc) : Bool := d.kind == 3 || d.kind == 4

/-- The longest message of a queue in bytes (Table 7.1); an unused queue takes none. -/
def QDesc.limit (d : QDesc) : Nat :=
  if d.kind = 0 then 0
  else if d.net = 2 then 2
  else if d.isRing then min 16384 (d.cap - 64)
  else min d.depth 64 * wordBytes d.net

/-- The record of a ring message (R182). -/
def recordBytes (len : Nat) : Nat := 16 + 16 * ((len + 15) / 16)

/-- Serial distance of two pointers, modulo 2^32. -/
def ptrDist (a b : Nat) : Nat := (a + 2 ^ 32 - b % 2 ^ 32) % 2 ^ 32

/-- A record header (Table 7.2). -/
def recordHeader (skip valid : Bool) (srcBay srcStn len pos seq : Nat) : Bytes :=
  toLe 4 (pack [(0, 2, if skip then 2 else 1), (2, 1, b2n (valid && !skip)), (16, 8, srcBay), (24, 4, srcStn)])
    ++ toLe 4 ((len - 1) % 2 ^ 14) ++ toLe 4 pos ++ toLe 4 seq

/-! ### Admission (R177, R182) -/

/-- Words of a short queue that are not free: those of its messages, but for what its receiver has read (R177). -/
def Queue.shortUsed (q : Queue) (net : Nat) : Nat := (q.msgs.map fun x => wordsOf net x.len).sum - q.readW

/-- What an admission does: the queue after it, the header bytes it writes with their ring positions, and whether the
message is admitted. A skip record is written as soon as the bytes before the ring end are free, admitted or not. A queue of
kind 0 is unused and has no storage (R170). -/
def admitStep (d : QDesc) (q : Queue) (len : Nat) (valid : Bool) (srcBay srcStn : Nat) :
    Queue × List (Nat × Bytes) × Bool :=
  if d.kind = 0 then (q, [], false)
  else if d.isRing then
    let r := recordBytes len
    let rte := d.cap - q.tail % d.cap
    let free := d.cap - ptrDist q.tail q.head
    if rte < r ∧ free < rte then (q, [], false)
    else
      let skip := rte < r
      let hdr := recordHeader true false srcBay srcStn rte q.tail q.seq
      let pos := q.tail
      let q := if skip then { q with tail := (q.tail + rte) % 2 ^ 32 } else q
      let ws := if skip then [(pos % d.cap, hdr)] else []
      let free := if skip then free - rte else free
      if free < r then (q, ws, false)
      else
        let msg : Msg := { len := len, valid := valid, srcBay := srcBay, srcStn := srcStn, seq := q.seq, pos := q.tail }
        ({ q with tail := (q.tail + r) % 2 ^ 32, seq := (q.seq + 1) % 2 ^ 32, msgs := q.msgs ++ [msg] },
          ws ++ [(q.tail % d.cap, recordHeader false valid srcBay srcStn len q.tail q.seq)], true)
  else
    let w := wordsOf d.net len
    if d.depth < q.shortUsed d.net + w then (q, [], false)
    else
      let msg : Msg := { len := len, valid := valid, srcBay := srcBay, srcStn := srcStn, seq := q.seq, pos := q.tail }
      ({ q with tail := (q.tail + w) % 2 ^ 32, seq := (q.seq + 1) % 2 ^ 32, msgs := q.msgs ++ [msg] }, [], true)

/-- The place of a queue among all: station and index. -/
def queueKey (st q : Nat) : Nat := st * 4096 + q

/-- The sub-order of the switch node's requests at a slab port (R455): words into a ring, ring reads, sidings, and, by
engine, the marshalling engines'; within each group by queue. -/
def subArrival (q : Nat) : Nat := q
def subRing (q : Nat) : Nat := 4096 + q
def subSiding (q : Nat) : Nat := 8192 + q
def subEngine (e : Nat) : Nat := 12288 + e

/-- Whole words of a slab line from bytes that begin at a word's address: the padding of the last word is zero (R113). -/
def paddedWords (a : Nat) (b : Bytes) : List (Nat × W32) :=
  (List.range ((b.length + 3) / 4)).map fun i => (a % 128 / 4 + i, BitVec.ofNat 32 (leNat b (4 * i) 4))

/-- Asks a slab port to write bytes for the switch node, line by line, from consist cycle `due` on. -/
def Mach.switchWrite (m : Mach) (st b : Nat) (sub : Nat) (user : PortUser) (a due : Nat) (arc : Bool) (bs : Bytes) : Mach :=
  (linesOf a bs.length).foldl
    (fun m p => m.slabPost st b
      { order := 1, sub := sub, user := user, write := true, addr := p.1, len := p.2
        words := paddedWords p.1 (slice bs (p.1 - a) p.2), due := due, arc := arc }) m

/-- Admits a message to a queue, if it can be taken whole; the number that the queue gave it. A ring's headers go to the
slab port (R182, R455). -/
def Mach.admitMsg (m : Mach) (st q len : Nat) (valid : Bool) (srcBay srcStn : Nat) (arc : Bool := false) : Option Nat × Mach :=
  let d := m.qdesc st q
  let x := m.queue st q
  let (y, ws, ok) := admitStep d x len valid srcBay srcStn
  let m := m.setQueue st q y
  let m := ws.foldl
    (fun m w => m.switchWrite st d.bay (subArrival q) (.ringHead (queueKey st q) w.1) (d.base + w.1)
      (if arc then m.now else m.cyc st) arc w.2) m
  if ok then (some x.seq, m.moved st) else (none, m)

/-- A word of an admitted message may be read from a cycle on. -/
def Mach.wordHere (m : Mach) (st q seq idx readable : Nat) : Mach :=
  m.modQueue st q fun x => { x with
    msgs := updateFirst (fun z => z.seq == seq) (fun y => { y with words := fput y.words idx readable }) x.msgs }

/-- Cycles before a word may be read in which a ring's word is at its home bay: it is written to the slab, and asked for
there, in the two cycles before (R178, R455; log 79). -/
def ringLead : Nat := 2

/-- Puts a word of an admitted message in its place, readable from consist cycle `readable` on (R178). A ring's word goes
to the slab port, and may be read once it is written there. -/
def Mach.putWord (m : Mach) (st q seq idx : Nat) (w : Bytes) (readable : Nat) (arc : Bool := false) : Mach :=
  let d := m.qdesc st q
  let x := m.queue st q
  match x.msgs.find? fun y => y.seq == seq with
  | none => m
  | some y =>
    let off := idx * wordBytes d.net
    let part := w.take (y.len - off)
    if d.isRing then
      (m.switchWrite st d.bay (subArrival q) (.ringWord (queueKey st q) seq idx) (d.base + (y.pos + 16 + off) % d.cap)
        (if arc then m.now else readable - ringLead) arc part).moved st
    else
      let y' := { y with bytes := (part.zip (List.range part.length)).foldl (fun b p => fput b (off + p.2) p.1) y.bytes }
      let m := m.setQueue st q { x with msgs := updateFirst (fun z => z.seq == seq) (fun _ => y') x.msgs }
      (m.wordHere st q seq idx readable).moved st

/-- Bytes of a message, from its first, that a receiver may read in a cycle. -/
def Msg.here (x : Msg) (net cyc : Nat) : Nat :=
  let n := ((List.range (wordsOf net x.len)).takeWhile fun i =>
    match ffind x.words i with
    | some c => c ≤ cyc
    | none => false).length
  min x.len (n * wordBytes net)

/-- Whether all words of a message have arrived and may be read. -/
def Msg.complete (x : Msg) (net cyc : Nat) : Bool := x.here net cyc == x.len

/-! ### The head of a queue (R178, R184, R194) -/

/-- What a receiver finds at the head of a queue. -/
inductive Head where
  /-- Nothing admitted, or a word still to arrive. -/
  | empty
  /-- A record of the siding. -/
  | spilled (x : Msg)
  /-- A message: its length, its valid bit, the head after it, and its bytes, from the first, that may be read now. -/
  | message (len : Nat) (valid : Bool) (next here : Nat)
  /-- A record that is passed over: the new head. -/
  | pass (next : Nat)
  deriving DecidableEq, Repr

/-- A header that admission wrote at a ring pointer has not reached the slab. -/
def Mach.headerWaits (m : Mach) (st q b pos : Nat) : Bool :=
  (m.portOf st b).reqs.any fun r => r.user == .ringHead (queueKey st q) pos

/-- Looks at the head of a queue without taking it. A ring's header is read from the slab, whatever lies there; its words
count from the cycle before they may be read, in which they are asked of the slab port. -/
def Mach.head (m : Mach) (st q : Nat) : Head :=
  let d := m.qdesc st q
  let x := m.queue st q
  let cyc := m.cyc st
  match x.siding with
  | s :: _ => .spilled s
  | [] =>
    if d.isRing then
      let held := ptrDist x.tail x.head
      if held = 0 then .empty
      else
        let t := x.head % d.cap
        let hdr := m.slabBytes st d.bay (d.base + t) 16
        let w0 := leNat hdr 0 4
        let len := leNat hdr 4 4 % 2 ^ 14 + 1
        let n := (x.head + (d.cap - t)) % 2 ^ 32
        if m.headerWaits st q d.bay t then .empty
        else if bits w0 1 0 = 1 ∧ recordBytes len ≤ min (d.cap - t) held then
          .message len (bit w0 2) ((x.head + recordBytes len) % 2 ^ 32)
            (((x.msgs.find? fun y => y.pos == x.head).map fun y => if y.len = len then y.here d.net (cyc + 1) else
              if y.complete d.net (cyc + 1) then len else 0).getD len)
        else
          .pass (if 2 ^ 31 < ptrDist n x.tail then n else x.tail)
    else
      match x.msgs with
      | [] => .empty
      | y :: _ => .message y.len y.valid ((x.head + wordsOf d.net y.len) % 2 ^ 32) (y.here d.net cyc)

/-- Whether the message at the head is there whole. -/
def Head.whole : Head → Bool
  | .message len _ _ here => here == len
  | _ => false

/-! ### Digests of tapped messages (R374) -/

/-- Multiplication by x in GF(2^128) with x^128 + x^7 + x^2 + x + 1. -/
def gfDouble (a : Nat) : Nat := if 2 ^ 127 ≤ a then (2 * a) ^^^ (2 ^ 128 + 0x87) else 2 * a

/-- Product in GF(2^128), bit by bit of the second factor from the lowest. -/
def gfMulGo : Nat → Nat → Nat → Nat → Nat
  | 0, _, _, acc => acc
  | n + 1, a, b, acc => gfMulGo n (gfDouble a) (b / 2) (if b % 2 = 1 then acc ^^^ a else acc)
def gfMul (a b : Nat) : Nat := gfMulGo 128 a b 0

/-- Folds a payload's 16-byte blocks into y. -/
def foldPayload (h : Nat) : Nat → Bytes → Nat → Nat
  | 0, _, y => y
  | n + 1, b, y => if b.isEmpty then y else foldPayload h n (b.drop 16) (gfMul (y ^^^ leNat b 0 16) h)

/-- h of R374: bytes 0 to 15 of the image digest with bit 0 forced to 1. -/
def tapH (digest : Bytes) : Nat := leNat digest 0 16 / 2 * 2 + 1

/-- A record of the milepost log (Table 14.6). -/
def mileRecord (seq n mp role digest : Nat) : Bytes :=
  toLe 8 seq ++ toLe 4 n ++ toLe 2 mp ++ toLe 1 role ++ [0] ++ toLe 16 digest

/-- An arming instance is complete once every station has armed it and every tap has folded its messages: its record is
written (R375). -/
def Mach.mileClose (m : Mach) (h n : Nat) : Mach :=
  match m.job h with
  | none => m
  | some j =>
    let c := m.consistOf j
    match j.arms.find? fun a => a.n == n with
    | none => m
    | some a =>
      if a.left = 0 ∧ a.stations = c.stations then
        let x := tapH c.digest
        let g := a.ys.foldl (fun g y => gfMul (g ^^^ y.2) x) 0
        let d := toLe 16 g
        let slots := c.logSize / 32
        let j := { j with
          arms := j.arms.filter fun b => b.n != n
          records := j.records + 1
          flags := if slots ≤ a.n then j.flags ||| 2 ^ 14 else j.flags
          wDigests := if a.role = 2 then fput j.wDigests a.n d else j.wDigests
          iDigests := if a.role = 1 then fput j.iDigests a.n d else j.iDigests }
        let m := m.setJob h j
        if slots = 0 then m
        else m.ddrPostWrite (.log h) (some h) (c.base + c.logBase + 32 * (a.n % slots))
          (mileRecord j.seq a.n a.mp a.role g)
      else m

/-- A tap has folded its last message: it joins its arming instance. -/
def Mach.tapDone (m : Mach) (st : Nat) (t : Tap) : Mach :=
  match m.job t.job with
  | none => m
  | some j =>
    let h := tapH (m.consistOf j).digest
    let arms := j.arms.map fun a =>
      if a.n == t.inst then { a with ys := fput a.ys (st * 4096 + t.queue) (gfMul (t.y ^^^ t.n) h), left := a.left - 1 }
      else a
    (m.setJob t.job { j with arms := arms }).mileClose t.job t.inst

/-- A message that a receiver has consumed is folded by the tap of its queue (R373). -/
def Mach.fold (m : Mach) (st q : Nat) (payload : Bytes) : Mach :=
  match (m.stn st).taps.find? fun t => t.queue == q && some t.job == (m.stn st).job with
  | none => m
  | some t =>
    match m.job t.job with
    | none => m
    | some j =>
      let h := tapH (m.consistOf j).digest
      let t' := { t with
        y := foldPayload h (payload.length / 16 + 1) payload t.y, n := t.n + payload.length, left := t.left - 1 }
      if t'.left = 0 then
        let m := m.modStn st fun s => { s with taps := s.taps.filter fun u => !(u.queue == q && u.job == t.job) }
        m.tapDone st t'
      else m.modStn st fun s => { s with taps := s.taps.map fun u => if u.queue = q ∧ u.job = t.job then t' else u }

/-! ### Taking the head -/

/-- The lines of n bytes of a siding from a position on: offset and length of each. -/
def QDesc.sidingLines (d : QDesc) (pos n : Nat) : List (Nat × Nat) :=
  let p := pos % d.sSize
  let k := min n (d.sSize - p)
  linesOf (d.sBase + p) k ++ linesOf d.sBase (n - k)

/-- The payload of a record in a siding: it wraps continuously at the siding's end (R193). -/
def Mach.sidingRead (m : Mach) (d : QDesc) (pos n : Nat) : Bytes :=
  (d.sidingLines pos n).flatMap fun p =>
    if d.sDdr then (List.range p.2).map fun i => m.ddrByte (p.1 + i) else m.spRead p.1 p.2

/-- When a request that the switch node of a bay makes through the station's engine 0 reaches a DDR channel: consist cycles
for a timetabled channel, ARCLK cycles for another (R192, R225, R245). The legs are nominal (log 80). -/
def Mach.sidingDue (m : Mach) (st h b c : Nat) : Nat :=
  m.clock st (!(m.timetabledFor c h)) + ((m.job h).map fun j => m.legOut j b).getD 0 + m.chLatency st c

/-- Stops a switch node after an uncorrectable word (R165). -/
def Mach.switchFault (m : Mach) (st q a : Nat) : Mach :=
  let d := m.qdesc st q
  let m := m.setBit (Reg.swStatus st d.bay) 0
  m.fault 1 (queueUnit st d) (m.stn st).job a

/-- A switch node has stopped (R165). -/
def Mach.switchStopped (m : Mach) (st b : Nat) : Bool := bit (m.raw (Reg.swStatus st b)) 0

/-- Asks the slab port for the first n bytes of the record at a ring's head, header included, where they have not been
asked for: each line is read once (R129, R455). -/
def Mach.ringAsk (m : Mach) (st q n : Nat) (eng : Bool) : Mach :=
  let d := m.qdesc st q
  let x := m.queue st q
  if n ≤ x.asked then m
  else
    let a := d.base + x.head % d.cap
    let ps := (linesOf a n).filter fun p => x.asked = 0 || decide (a + x.asked < p.1 + 1)
    let m := ps.foldl
      (fun m p => m.slabPost st d.bay
        { order := 1, sub := subRing q, user := .ringRead (queueKey st q) eng, addr := p.1, len := p.2, due := m.cyc st }) m
    m.modQueue st q fun x => { x with asked := n, unread := x.unread + ps.length }

/-- Asks for the first record of a siding: the slab port's reads, or the DDR channel's through engine 0 (R194, R248). A
record of a slab siding is readable 8 cycles after the receiver asks. -/
def Mach.sidingAsk (m : Mach) (st q : Nat) (s : Msg) : Mach :=
  let d := m.qdesc st q
  let ps := d.sidingLines s.pos (16 + s.len)
  let m := if d.sDdr then
      (ps.zip (List.range ps.length)).foldl
        (fun m p => m.ddrPost
          { user := .siding st q, off := p.1.1, len := p.1.2, job := (m.stn st).job
            due := m.sidingDue st (m.jobOf st) d.bay (chanOf p.1.1) + p.2
            arc := !(m.timetabledFor (chanOf p.1.1) (m.jobOf st)) }) m
    else ps.foldl
      (fun m p => m.slabPost (spStn p.1) (spBay p.1)
        { order := 1, sub := subSiding q, user := .sideRead (queueKey st q), addr := spAddr p.1, len := p.2, due := m.cyc st
          job := (m.stn st).job }) m
  m.modQueue st q fun x => { x with
    ask := some (m.cyc st + if d.sDdr then 0 else 8), unread := ps.length }

/-- The first n bytes of the payload at the head. -/
def Mach.headBytes (m : Mach) (st q n : Nat) : Bytes :=
  let d := m.qdesc st q
  let x := m.queue st q
  match x.siding with
  | s :: _ => m.sidingRead d (s.pos + 16) n
  | [] =>
    if d.isRing then m.slabBytes st d.bay (d.base + x.head % d.cap + 16) n
    else match x.msgs with
      | y :: _ => (List.range n).map fun i => fget 0 y.bytes i
      | [] => []

/-- The receiver reads the first n bytes of the message at the head, or as many as it has: whether it has them now. A word
is read from its own cycle on, and is free in a short queue once it is read (R177, R178); a ring's are asked of the slab
port, a siding's of its memory. An uncorrectable word stops the switch node (R165), unless an engine receives, which then
stops itself (R122). -/
def Mach.readTo (m : Mach) (st q n : Nat) (eng : Bool := false) : Bool × Mach :=
  let d := m.qdesc st q
  let x := m.queue st q
  let served := fun (m : Mach) (eng : Bool) =>
    let y := m.queue st q
    if y.unread ≠ 0 then (false, m)
    else match y.bad with
      | some a =>
        if eng then (false, m) else (false, if m.switchStopped st d.bay then m else m.switchFault st q a)
      | none => (true, m)
  match m.head st q with
  | .message len _ _ here =>
    if m.cyc st < x.busy ∨ here < min n len ∨ m.switchStopped st d.bay then (false, m)
    else if d.isRing then served (m.ringAsk st q (16 + min n len) eng) eng
    else (true, m.modQueue st q fun y => { y with readW := max y.readW (wordsOf d.net (min n len)) })
  | .spilled s =>
    match x.ask with
    | none => (false, m.sidingAsk st q s)
    | some c => if m.cyc st < c ∨ m.switchStopped st d.bay then (false, m) else served m false
  | _ => (false, m)

/-- The message at the head: its length and valid bit. -/
def Mach.headMsg (m : Mach) (st q : Nat) : Nat × Bool :=
  match m.head st q with
  | .message len v _ _ => (len, v)
  | .spilled s => (s.len, s.valid)
  | _ => (0, false)

/-- The receiver reads the message at the head whole: whether it has it now. -/
def Mach.readHead (m : Mach) (st q : Nat) (eng : Bool := false) : Bool × Mach := m.readTo st q (m.headMsg st q).1 eng

/-- Takes the message at the head whole: its bytes and valid bit, with the taps folded; room is freed. `none` where the
head is no message that may be read now. -/
def Mach.take (m : Mach) (st q : Nat) (eng : Bool := false) : Option (Bytes × Bool) × Mach :=
  let d := m.qdesc st q
  let x := m.queue st q
  match m.head st q with
  | .message len valid next _ =>
    match m.readTo st q len eng with
    | (false, m) => (none, m)
    | (true, m) =>
      let payload := m.headBytes st q len
      let m := m.modQueue st q fun x => { x with
        head := next, asked := 0, readW := 0, want := 0
        msgs := if d.isRing then
            x.msgs.filter fun y => ptrDist x.tail y.pos ≤ ptrDist x.tail next && y.pos != x.head && next != x.tail
          else x.msgs.drop 1 }
      (some (payload, valid), (m.fold st q payload).moved st)
  | .spilled s =>
    match m.readTo st q s.len eng with
    | (false, m) => (none, m)
    | (true, m) =>
      let payload := m.sidingRead d (s.pos + 16) s.len
      let m := m.modQueue st q fun y => { y with
        ask := none, want := 0, siding := y.siding.drop 1, sideUsed := x.sideUsed - recordBytes s.len }
      (some (payload, s.valid), (m.fold st q payload).moved st)
  | _ => (none, m)

/-! ### Waits of receivers and senders (R35, R148, R157, R158, R194) -/

/-- Nothing that a receiver needs of the next message has arrived: with `need`, the first bytes of it are enough. -/
def Mach.headAbsent (m : Mach) (st q : Nat) (need : Nat := 0) : Bool :=
  match m.head st q with
  | .spilled _ => false
  | .message len _ _ here => here < (if need = 0 then len else min need len)
  | _ => true

/-- A receiver waits on a queue, at a wait of its unit. Where what it needs of the next message has not arrived, it waits
under "queue empty", or under the causes and with the stall request of Table 6.8, by the queue's LATE field; `operand` says
that an MU waits for an operand. A wait for a siding's record is local, "queue empty" or "DDR" (R194); one for the slab port
is counted where its request stands. -/
def Mach.waitQueueAt (m : Mach) (h : Nat) (u : UnitRef) (k q : Nat) (operand : Bool) (need : Nat) : Mach :=
  let late := m.qLate u.st q
  match m.head u.st q with
  | .spilled _ => m.waitAt k { cause := if (m.qdesc u.st q).sDdr then 4 else 1, empty := some (queueKey u.st q) }
  | _ =>
    if m.headAbsent u.st q need = false then m.unwaitAt k
    else
      let m := m.modQueue u.st q fun x => { x with want := need }
      let m := m.waitAt k
        { cause := if operand then (if late = 1 then 4 else if late = 2 then 5 else 0) else 1
          empty := some (queueKey u.st q) }
      if late = 1 then m.raiseStall h u q 4
      else if late = 2 then m.raiseStall h u q 5
      else if operand then m.raiseStall h u q 0
      else m
def Mach.waitQueue (m : Mach) (h : Nat) (u : UnitRef) (q : Nat) (operand : Bool) (slot : Nat := 0) (need : Nat := 0) : Mach :=
  m.waitQueueAt h u (waitSlot u slot) q operand need

/-- A unit that waits as the sender of a queue. -/
def Mach.waitFullAt (m : Mach) (k cause qst q : Nat) : Mach :=
  m.waitAt k { cause := cause, full := some (queueKey qst q) }

/-- What the waiting receiver needs of the message at a queue's head has come: every request that waits for it clears
(R158). -/
def Mach.itemHere (m : Mach) (st q : Nat) : Mach :=
  let want := (m.queue st q).want
  match m.head st q with
  | .message len _ _ here => if (if want = 0 then len else min want len) ≤ here then m.clearQueueStalls st q else m
  | _ => m

/-- Cuts or fills a message to the length that its receiver reads, and counts one of another length (R180). -/
def Mach.fixLength (m : Mach) (st n : Nat) (b : Bytes) : Bytes × Mach :=
  (padTo n b, if b.length = n then m else m.stat (Reg.qLenerr st) 1)

/-- Steps over a record that is no message, which takes Q_SKIP cycles (R184). -/
def Mach.passOver (m : Mach) (h : Job) (st q next : Nat) : Mach :=
  let x := m.queue st q
  let m := m.noteLate (queueUnit st (m.qdesc st q)) h Config.qSkip (m.lat h Config.qSkip)
  (m.setQueue st q { x with
    head := next, asked := 0, readW := 0
    busy := m.cyc st + m.lat h Config.qSkip
    msgs := x.msgs.filter fun y => ptrDist x.tail y.pos ≤ ptrDist x.tail next && next != x.tail }).moved st

/-- Messages held complete in a queue's storage (Q_STATE.HELD). -/
def Mach.heldMsgs (m : Mach) (st q : Nat) : Nat :=
  ((m.queue st q).msgs.filter fun y => y.complete (m.qNet st q) (m.cyc st)).length

/-- Discards every message of a queue and counts them (R199). -/
def Mach.emptyQueue (m : Mach) (st q : Nat) : Mach :=
  let x := m.queue st q
  let m := m.stat (Reg.qLeftover st) (x.msgs.length + x.siding.length)
  m.setQueue st q { spills := x.spills, balance := x.balance, empty := x.empty, full := x.full, waves := x.waves }

end Sys2Proof.Machine
end

