-- ==== Sys2Proof/Machine/Networks.lean ====
section
/-! DEFINITION. Messages on the three networks: routes and paths (R137 to R142), offers, requests, grants and words
(R173 to R178), points units (R145 to R150), the stall wave's freeze, the stall-quorum detector and spills (R158, R191,
R192), and combining queues (R186, R187). -/

namespace Sys2Proof.Machine
open Sys2Proof

/-! ### Waybill flags (Table 14.4) -/

def fgWave : Nat := 1
def fgElastic : Nat := 2
def fgRemote : Nat := 3
def fgHost : Nat := 4
def fgReorder : Nat := 5
def fgUnschedSlab : Nat := 6
def fgUnschedDdr : Nat := 7
def fgOverlap : Nat := 8
def fgRestored : Nat := 9
def fgRepaired : Nat := 10

/-- Sets a waybill flag of a job. -/
def Mach.flagJob (m : Mach) (h flag : Nat) : Mach := m.modJob h fun j => { j with flags := j.flags ||| 2 ^ flag }

/-- Sets a waybill flag of every running job. -/
def Mach.flagRunning (m : Mach) (flag : Nat) : Mach :=
  (m.dev.jobs.filter fun e => e.2.phase == .running).foldl (fun m e => m.flagJob e.1 flag) m

/-! ### Routes and paths -/

/-- The bay that an N, E, S or W output leads to, if the bay has that port. -/
def neighbour (b o : Nat) : Option Nat :=
  match o with
  | 0 => if b / 16 = 0 then none else some (b - 16)
  | 1 => if b % 16 = 15 then none else some (b + 1)
  | 2 => if b / 16 = 15 then none else some (b + 16)
  | _ => if b % 16 = 0 then none else some (b - 1)

/-- The input at which a word that left an output arrives. -/
def facing (o : Nat) : Nat := (o + 2) % 4

/-- The route that a sender which offers a message for a queue uses: the lowest valid one that names it (R141); and whether
that is a control queue's (R149). -/
def Mach.routeOf (m : Mach) (st b q : Nat) : Option Nat :=
  lowest 64 fun r => let w := m.route st b r; bit w 18 && bits w 11 0 == q
def Mach.ctlRoute (m : Mach) (st b q : Nat) : Bool := (m.routeOf st b q).any fun r => bits (m.route st b r) 17 16 == 2

/-- Follows a word from an input of a bay, entry by entry, to the L output of its queue or to a G output: hops, and the
gateway bay by which it leaves. -/
def Mach.trace (m : Mach) (st net q : Nat) : Nat → Nat → Nat → Nat → Nat → Option (Nat × Option Nat)
  | 0, _, _, _, _ => none
  | fuel + 1, b, inp, e, hops =>
    let takes := fun o => bits (m.wheel st b net o (e % 64)) 2 0 == inp
    if takes 5 && bits (m.wheel st b net 5 (e % 64)) 15 4 == q then some (hops, none)
    else if takes 4 && gateways.contains b then some (hops, some b)
    else
      (List.range 4).findSome? fun o =>
        if takes o then
          match neighbour b o with
          | some b' => Mach.trace m st net q fuel b' (facing o) (e + 2) (hops + 1)
          | none => none
        else none

/-- The path of a word that leaves a bay on a route in wheel entry e: hops and the gateway bay by which it leaves the
station. `port` is 5 for the L senders and 6 for the points unit. -/
def Mach.pathAt (m : Mach) (st b r port e : Nat) : Option (Nat × Option Nat) :=
  let w := m.route st b r
  let net := bits w 17 16
  (List.range 5).findSome? fun o =>
    let we := m.wheel st b net o e
    if bits we 2 0 == port && bits we 15 4 == r then
      if o = 4 then some (0, some b)
      else
        match neighbour b o with
        | some b' => m.trace st net (bits w 11 0) 512 b' (facing o) (e + 2) 1
        | none => none
    else none

/-- A route whose queue is stored at the sending bay uses no network (Table 6.3). -/
def Mach.ownBay (m : Mach) (st b r : Nat) : Bool :=
  let w := m.route st b r
  bits w 15 12 == st && m.qBay st (bits w 11 0) == b

/-- From a station's router to a queue: through a booked gateway slot into a gateway bay whose wheels bring the word to the
queue's L output (Table 6.3, R140, R142). -/
def Mach.toQueue (m : Mach) (j : Job) (st q t : Nat) : Option Way :=
  m.gateIn j st t fun g c =>
    match m.trace st (m.qNet st q) q 512 g 4 (c % 64) 0 with
    | some (hops, none) => some hops
    | _ => none

/-- The way of a word of a route over a path of the station's wheels, from ARCLK cycle t on (Table 6.3, R26): in the
station 2h + 4 cycles; to another station the leg out, the grid, and the leg in, over booked slots. -/
def Mach.pathWay (m : Mach) (j : Job) (st b r t : Nat) (p : Nat × Option Nat) : Option Way :=
  let w := m.route st b r
  let dst := bits w 15 12
  if m.ownBay st b r then some { there := t + 4, travel := 4 }
  else
    let x := ({ there := t } : Way).by m j Config.netHop p.1
    match p.2 with
    | none => some (x.on 4)
    | some g =>
      (x.via (m.gateOut j st g)).bind fun x => (x.via (m.stnWay j st dst)).bind fun x =>
        x.via (m.toQueue j dst (bits w 11 0))

/-- Where a path's booked slots lead nowhere, the latency that its links would have (Table 6.3, R27). -/
def Mach.hopLatency (m : Mach) (j : Job) (st b r hops : Nat) : Nat :=
  let w := m.route st b r
  let dst := bits w 15 12
  let hop := m.lat j Config.netHop
  let gate := m.lat j Config.netGate
  if m.ownBay st b r then 4
  else if dst = st then hop * hops + 4
  else hop * hops + gate + m.stnLatency st dst + hop * gateHops (m.qBay dst (bits w 11 0)) + gate + 2

/-- The latency of requests and grants, which travel beside the networks: that of the longest booked path (R138). -/
def Mach.routeLatency (m : Mach) (j : Job) (st b r port : Nat) : Nat :=
  ((List.range 64).map fun e =>
    match m.pathAt st b r port e with
    | none => m.hopLatency j st b r 0
    | some p => ((m.pathWay j st b r (m.now / 64 * 64 + e) p).map (·.travel)).getD (m.hopLatency j st b r p.1)).foldl max 0

/-- By how many cycles the entries of a route make its requests and grants late (R310). -/
def Mach.routeLate (m : Mach) (j : Job) (st b r port : Nat) : Nat :=
  if (m.consistOf j).late.all (· == 0) then 0
  else m.routeLatency j st b r port - (m.setConsist j.consist { m.consistOf j with late := [] }).routeLatency j st b r port

/-- The P input for points units, the L input for every other sender (R137). -/
def senderPort (u : UnitRef) : Nat := if u.cls = 3 then 6 else 5

/-- A unit has a message ready on a route: it joins the messages that wait at the bay. -/
def Mach.sendMessage (m : Mach) (st b r : Nat) (u : UnitRef) (bytes : Bytes) (valid : Bool) (order : Nat := 0) : Mach :=
  let w := m.route st b r
  m.setOutbox st b r (m.outbox st b r ++
    [{ unit := u, dstSt := bits w 15 12, queue := bits w 11 0, net := bits w 17 16, bytes := bytes, valid := valid
       order := order }])

/-- A request is outstanding from the cycle in which it is sent until its grant reaches the sender; a held message's goes
out in the cycle after that (R173, R174). -/
def OutMsg.outstanding (x : OutMsg) (cyc : Nat) : Bool :=
  (decide (1 ≤ x.stage) && decide (x.stage ≤ 3)) || (x.stage == 4 && x.sent == 0 && x.grantAt == cyc && cyc != 0)

/-- A unit that sends from a bay can offer no further message: one of its messages is held behind four outstanding
requests (R174). -/
def Mach.senderBlocked (m : Mach) (st b : Nat) (u : UnitRef) : Bool :=
  (List.range 64).any fun r =>
    let l := m.outbox st b r
    l.any fun x => x.unit == u && x.stage == 0 && decide (4 ≤ (l.filter fun y => y.outstanding (m.cyc st)).length)

/-- Units that still have messages to send from a bay. -/
def Mach.senderBusy (m : Mach) (st b : Nat) (u : UnitRef) : Bool :=
  (List.range 64).any fun r => (m.outbox st b r).any fun x => x.unit == u

/-! ### Offers, grants and words -/

/-- The sender's own unit stops after MSG_TOO_LONG (R179). -/
def Mach.tooLong (m : Mach) (h : Nat) (u : UnitRef) (q dst len : Nat) : Mach :=
  m.fault 3 u (some h) (pack [(0, 12, q), (12, 4, dst), (16, 20, len)])

/-- MESSAGE_OFFER: the next message of a route that has sent no request sends it, or is held while four are
outstanding; one that is too long for its queue, which an unused one always is, faults its sender (R173, R174, R179). -/
def effMessageOffer (st b r : Nat) (m : Mach) : Mach :=
  match m.liveJob st with
  | none => m
  | some (h, j) =>
    let l := m.outbox st b r
    match findIndex (fun x => x.stage == 0) l with
    | none => m
    | some i =>
      let x := nth {} l i
      let d := m.qdesc x.dstSt x.queue
      if d.limit < x.bytes.length then
        (m.setOutbox st b r (l.eraseIdx i)).tooLong h x.unit x.queue x.dstSt x.bytes.length
      else if 4 ≤ (l.filter fun y => y.outstanding (m.cyc st)).length then m
      else
        let port := senderPort x.unit
        let due := m.cyc st + m.routeLatency j st b r port
        let m := m.noteResult x.unit (m.routeLate j st b r port) due
        let req : AdmReq := { due := due, key := (st * 256 + b) * 64 + r, st := st, bay := b, route := r
                              len := x.bytes.length, valid := x.valid }
        let m := m.setOutbox st b r (l.set i { x with stage := 1 })
        (m.modQueue x.dstSt x.queue fun q => { q with reqs := q.reqs ++ [req] }).work st

/-- The order in which requests at a home bay are decided (R176): arrival cycle, then the on-chip senders in order of
station, bay and route, then the station router's. -/
def reqKey (a : AdmReq) : Nat := a.due * 2 ^ 40 + (if a.router then 2 ^ 39 else 0) + a.key

/-- The first request for a queue that has arrived, in the order of R176. -/
def Queue.firstReq (q : Queue) : Option AdmReq := leastBy reqKey (q.reqs.filter fun a => a.arrived)

/-- Removes a request. -/
def Queue.dropReq (q : Queue) (a : AdmReq) : Queue := { q with reqs := removeFirst (· == a) q.reqs }

/-- Changes the first message of a route at a stage that belongs to a queue. -/
def Mach.stepMsg (m : Mach) (st b r : Nat) (from_ : Nat → Bool) (f : OutMsg → OutMsg) : Mach :=
  m.setOutbox st b r (updateFirst (fun x => from_ x.stage) f (m.outbox st b r))

/-- An on-chip sender's request is admitted, and the grant returns with the latency of the request; or it waits at the home
bay for room, which `Mach.sendWaits` counts against the sender (R173, R175). The combiner of the queue takes its sum's
place at once (R186). -/
def Mach.admitOnChip (m : Mach) (j : Job) (st q : Nat) (a : AdmReq) : Mach :=
  match m.admitMsg st q a.len a.valid a.bay a.st with
  | (some seq, m) =>
    let m := m.modQueue st q fun x => x.dropReq a
    if a.comb then m.modQueue st q fun x => { x with sum := some seq }
    else
      let port := (((m.outbox a.st a.bay a.route).find? fun x => x.stage == 1 || x.stage == 2).map
        fun x => senderPort x.unit).getD 5
      let due := m.cyc st + m.routeLatency j a.st a.bay a.route port
      m.stepMsg a.st a.bay a.route (fun s => s == 1 || s == 2) fun x => { x with stage := 3, due := due, seq := seq }
  | (none, m) =>
    if a.comb then m else m.stepMsg a.st a.bay a.route (fun s => s == 1 || s == 2) fun x => { x with stage := 2 }

/-- ADMISSION_GRANT: a grant reaches its sender (R173). -/
def effAdmissionGrant (st b r : Nat) (m : Mach) : Mach :=
  match m.liveJob st with
  | none => m
  | some _ =>
    m.setOutbox st b r
      (updateFirst (fun y => y.stage == 3 && y.due ≤ m.cyc st)
        (fun y => { y with stage := 4, due := m.cyc st + 1, grantAt := m.cyc st }) (m.outbox st b r))

/-- The way of a word that leaves on a route in this consist cycle: to a queue of the sender's own bay without the
networks, otherwise in a booked entry; none where the cycle is not booked, or the bookings of the grid lead nowhere. -/
def Mach.bookedNow (m : Mach) (j : Job) (st b r port : Nat) : Option Way :=
  if m.ownBay st b r then m.pathWay j st b r m.now (0, none)
  else (m.pathAt st b r port (m.cyc st % 64)).bind (m.pathWay j st b r m.now)

/-- An item of a points entry leaves after those of the entry's earlier decisions (R145). -/
def Mach.inOrder (m : Mach) (st b : Nat) (x : OutMsg) : Bool :=
  x.unit.cls != 3 || !((List.range 64).any fun r => (m.outbox st b r).any fun y => y.unit == x.unit && decide (y.order < x.order))

/-- WORD_SEND: the first granted message of a route sends its next word in a booked cycle; the word arrives after the
latency of the path of the entry in which it leaves (R138, R141). A route sends at most one word in a cycle (R140). A
switch node that has stopped takes no words at its L port (R165). A word for a queue of the sender's own bay counts in
BAY_SW_WORDS as well, though it crosses no link (R168 leaves this open; DESIGN CHOICE, log 89). -/
def effWordSend (st b r : Nat) (m : Mach) : Mach :=
  match m.liveJob st with
  | none => m
  | some (_, j) =>
    match (m.outbox st b r).head? with
    | none => m
    | some x =>
      if x.stage ≠ 4 ∨ m.cyc st < x.due ∨ (m.switchStopped st b && senderPort x.unit == 5) ∨ m.inOrder st b x = false then m
      else
        match m.bookedNow j st b r (senderPort x.unit) with
        | none => m
        | some way =>
          let w := wordBytes x.net
          let word : NetWord := { due := m.cyc st + (way.there - m.now), unit := x.unit, seq := x.seq, idx := x.sent
                                  bytes := slice x.bytes (x.sent * w) w }
          let m := (m.takeWay way).noteResult x.unit way.late word.due
          let m := m.modQueue x.dstSt x.queue fun q => { q with flight := q.flight ++ [word] }
          let m := m.count (Reg.swWords st b) 1
          let rest := (m.outbox st b r).drop 1
          let m := if x.sent + 1 = wordsOf x.net x.bytes.length then
              m.setOutbox st b r (rest.map fun y => { y with due := max y.due (m.cyc st + 1) })
            else m.setOutbox st b r ({ x with sent := x.sent + 1, due := m.cyc st + 1 } :: rest)
          m.work st

/-- One write of an engine's piece has taken effect (R226). -/
def Mach.engStored (m : Mach) (st e p : Nat) : Mach :=
  let x := m.engine st e
  match ffind x.pieces p with
  | none => m
  | some y =>
    let y := { y with left := y.left - 1 }
    let y := if y.left = 0 ∧ y.stage = 2 then { y with stage := 3, due := m.now, arc := true } else y
    m.setEngine st e { x with pieces := fput x.pieces p y }

/-- WORD_ARRIVAL: a word reaches its queue's home bay and goes to its place, to be read in the cycle that Table 6.3 gives; a
request that waits for it clears (R138, R158, R178). A switch node that has stopped delivers nothing (R165). -/
def effWordArrival (st q : Nat) (m : Mach) : Mach :=
  match m.stnJob st with
  | none => m
  | some _ =>
    let x := m.queue st q
    let lead := if (m.qdesc st q).isRing then ringLead else 0
    match leastBy NetWord.due (x.flight.filter fun w => w.due ≤ m.clock st w.arc + lead) with
    | none => m
    | some w =>
      if m.switchStopped st (m.qBay st q) then m
      else
        let m := m.setQueue st q { x with flight := removeFirst (· == w) x.flight }
        let m := m.putWord st q w.seq w.idx w.bytes (if w.arc then m.cyc st + (w.due - m.now) else w.due) w.arc
        let m := match w.eng with
          | some (s, e, p) => m.engStored s e p
          | none => m
        m.itemHere st q

/-! ### Points units -/

/-- A points entry's fields (Table 6.22). -/
structure PtDesc where
  mode : Nat
  routes : Nat
  invFwd : Bool
  ctlQ : Nat
  dataQ : Nat
  outRoute : Nat
  itemLen : Nat
  cap : Nat
  epoch : Nat
  deriving DecidableEq, Repr

def Mach.ptDesc (m : Mach) (st b e : Nat) : PtDesc :=
  let w0 := m.pointsWord st b e 0
  let w1 := m.pointsWord st b e 1
  { mode := bits w0 1 0, routes := bits w0 5 2 + 1, invFwd := bit w0 6, ctlQ := bits w0 19 8, dataQ := bits w0 31 20
    outRoute := bits w1 5 0, itemLen := if bits w1 11 6 = 0 then 64 else bits w1 11 6, cap := bits w1 23 12
    epoch := bits (m.pointsWord st b e 2) 11 0 }

/-- An entry holds a data item: one of the data queues of its mode has a message (R148). -/
def Mach.holdsData (m : Mach) (st : Nat) (d : PtDesc) : Bool :=
  (List.range (if d.mode = 1 then 2 else if d.mode = 3 then d.routes else 1)).any fun i =>
    !(m.queue st (d.dataQ + i)).siding.isEmpty || m.heldMsgs st (d.dataQ + i) != 0

/-- What a decision does with data: a queue to take from and discard, a queue to take from and send (with the valid bit
forced to 0 or not), or an invalid item to send; the route; and whether count[r] advances. -/
structure PtAct where
  drop : Option Nat := none
  take : Option Nat := none
  invalid : Bool := false
  forceInv : Bool := false
  route : Nat := 0
  counts : Option Nat := none
  overflow : Bool := false
  badTag : Bool := false
  deriving DecidableEq, Repr

/-- Table 6.4: the outcome of a control item for an entry with the counts given. -/
def pointsOutcome (d : PtDesc) (counts : List Nat) (t : Bool) (g : Nat) : PtAct :=
  let r := g % 16
  if d.mode = 1 then
    if t then { take := some d.dataQ, drop := some (d.dataQ + 1), route := d.outRoute }
    else { take := some (d.dataQ + 1), drop := some d.dataQ, route := d.outRoute }
  else
    let full := d.cap ≠ 0 ∧ nth 0 counts r = d.cap
    if d.mode = 2 then
      if d.routes ≤ r then { drop := some d.dataQ, badTag := true }
      else if t = false ∧ d.invFwd = false then { drop := some d.dataQ }
      else if full then { drop := some d.dataQ, overflow := true }
      else { take := some d.dataQ, forceInv := !t, route := d.outRoute + r, counts := some r }
    else
      if d.routes ≤ r then { invalid := true, route := d.outRoute, badTag := true }
      else if t = false ∧ d.invFwd = false then { invalid := true, route := d.outRoute }
      else if full then { invalid := true, route := d.outRoute, overflow := true }
      else { take := some (d.dataQ + r), forceInv := !t, route := d.outRoute, counts := some r }

/-- A points entry holds a control item or a data item (BAY_SW_STATUS.HELD, Table 6.24). -/
def Mach.ptHolds (m : Mach) (st b e : Nat) : Bool :=
  let d := m.ptDesc st b e
  d.mode != 0 && (m.heldMsgs st d.ctlQ != 0 || !(m.queue st d.ctlQ).siding.isEmpty || m.holdsData st d)

/-- The unit of a points entry. -/
def ptUnit (st b e : Nat) : UnitRef := { cls := 3, st := st, bay := b, sub := e }

/-- The first overflow or bad tag of a job at a station sends the event that ST_CTRL enables (Table 6.13). -/
def Mach.ptEvent (m : Mach) (st off : Nat) : Mach :=
  if bit (m.stWord st 0) 1 && !(m.stn st).ptSeen then
    let m := m.modStn st fun s => { s with ptSeen := true }
    m.event { addr := Reg.stCtrl st, bit := 1, info := m.raw off % 2 ^ 32 }
  else m

/-- The padding that the end of an epoch owes (R147): (route or input, items) in ascending r. A SELECT entry counts
nothing and owes nothing. -/
def epochOwed (d : PtDesc) (counts : List Nat) : List (Nat × Nat) :=
  if d.mode = 1 then []
  else ((List.range d.routes).map fun r => (r, d.cap - nth 0 counts r)).filter fun p => p.2 != 0

/-- A points entry sends an item, in the order of its decisions. -/
def Mach.ptSend (m : Mach) (st b e r : Nat) (bs : Bytes) (v : Bool) : Mach :=
  let p := m.points st b e
  (m.sendMessage st b r (ptUnit st b e) bs v p.sends).setPoints st b e { p with sends := p.sends + 1 }

/-- An invalid item of an entry on a route: ITEM_LEN words of 0 (R146). -/
def Mach.ptInvalid (m : Mach) (st b e r : Nat) (d : PtDesc) : Mach :=
  m.ptSend st b e r (zeros (d.itemLen * wordBytes (bits (m.route st b r) 17 16))) false

/-- A points entry waits no longer. -/
def Mach.ptUnwait (m : Mach) (u : UnitRef) : Mach := (m.unwait u).unwaitAt (waitSlot u 1)

/-- The outcome of a decision is carried out: data is discarded, taken and sent, counters and the epoch go on (R146, R147). -/
def Mach.ptAct (m : Mach) (st b e : Nat) (d : PtDesc) (p : Points) (a : PtAct) : Mach :=
  let m := (m.take st d.ctlQ).2
  let m := match a.drop with
    | some q => (m.take st q).2
    | none => m
  let m := match a.take with
    | some q =>
      match m.take st q with
      | (some (bs, v), m) => m.ptSend st b e a.route bs (v && !a.forceInv)
      | (none, m) => m
    | none => m
  let m := if a.invalid then m.ptInvalid st b e a.route d else m
  let m := if a.overflow then (m.stat (Reg.ptOverflow st b) 1).ptEvent st (Reg.ptOverflow st b) else m
  let m := if a.badTag then (m.stat (Reg.ptBadtag st b) 1).ptEvent st (Reg.ptBadtag st b) else m
  let counts := padTo' d.routes p.counts
  let counts := match a.counts with
    | some r => counts.set r (nth 0 counts r + 1)
    | none => counts
  let pos := p.epochPos + 1
  let ends := d.cap ≠ 0 ∧ pos = d.epoch
  m.setPoints st b e { m.points st b e with
    counts := if ends then List.replicate d.routes 0 else counts
    epochPos := if d.cap = 0 ∨ ends then 0 else pos
    owed := if ends then epochOwed d counts else []
    next := m.cyc st + 1 }
where
  padTo' (n : Nat) (l : List Nat) : List Nat := (l ++ List.replicate (n - l.length) 0).take n

/-- POINTS_DECISION: an entry decides its next control item, once the data it needs is there and its output can take an
item; at most once in a cycle (R145, R146). An entry that holds data but lacks its control item waits under "points wait";
one that lacks a data item, under "queue empty" (R148). -/
def effPointsDecision (st b e : Nat) (m : Mach) : Mach :=
  match m.liveJob st with
  | none => m
  | some (h, _) =>
    let d := m.ptDesc st b e
    let p := m.points st b e
    let u := ptUnit st b e
    if d.mode = 0 ∨ p.owed ≠ [] ∨ m.cyc st < p.next then m
    else
      let m := m.ptUnwait u
      if m.senderBlocked st b u then m
      else
        match m.readHead st d.ctlQ with
        | (false, m) =>
          if m.headAbsent st d.ctlQ = false then m.waitQueue h u d.ctlQ false
          else if m.holdsData st d then m.wait u { cause := 3, empty := some (queueKey st d.ctlQ) }
          else m
        | (true, m) =>
          let item := leNat (m.headBytes st d.ctlQ 2) 0 2
          let a := pointsOutcome d p.counts (bit item 0) (bits item 8 1)
          let (lacks, m) := (a.take.toList ++ a.drop.toList).foldl
            (fun (acc : List Nat × Mach) q =>
              let (ok, m) := acc.2.readHead st q
              (if ok then acc.1 else acc.1 ++ [q], m)) ([], m)
          if lacks = [] then (m.ptAct st b e d p a).work st
          else (lacks.zip (List.range 2)).foldl (fun m q => m.waitQueue h u q.1 false q.2) m

/-- EPOCH_END: one item of the padding that an epoch's end owes: STEER sends an invalid item, GATHER takes and discards
one (R147). -/
def effEpochEnd (st b e : Nat) (m : Mach) : Mach :=
  match m.liveJob st with
  | none => m
  | some (h, _) =>
    let d := m.ptDesc st b e
    let p := m.points st b e
    let u := ptUnit st b e
    match p.owed with
    | [] => m
    | (r, n) :: rest =>
      let owed := if n = 1 then rest else (r, n - 1) :: rest
      let m := m.ptUnwait u
      if m.senderBlocked st b u then m
      else if d.mode = 2 then
        let m := m.ptInvalid st b e (d.outRoute + r) d
        (m.setPoints st b e { m.points st b e with owed := owed }).work st
      else
        match m.readHead st (d.dataQ + r) with
        | (false, m) => m.waitQueue h u (d.dataQ + r) false
        | (true, m) =>
          let m := (m.take st (d.dataQ + r)).2
          (m.setPoints st b e { p with owed := owed }).work st

/-- The data queues that an entry may take from. -/
def PtDesc.dataQueues (d : PtDesc) : List Nat :=
  (List.range (if d.mode = 1 then 2 else if d.mode = 3 then d.routes else 1)).map fun i => d.dataQ + i

/-- A points entry of a queue's home bay may take the message at the queue's head in this cycle (R171). -/
def Mach.ptWants (m : Mach) (st q : Nat) : Bool :=
  let b := m.qBay st q
  (List.range 16).any fun e =>
    let d := m.ptDesc st b e
    let p := m.points st b e
    d.mode != 0 && (d.ctlQ == q || d.dataQueues.contains q) && p.next ≤ m.cyc st && !(m.senderBlocked st b (ptUnit st b e)) &&
      match p.owed with
      | (r, _) :: _ => d.mode == 3 && d.dataQ + r == q
      | [] => d.ctlQ == q || (m.headMsg st d.ctlQ).1 != 0 &&
        (let item := leNat (m.headBytes st d.ctlQ 2) 0 2
         let a := pointsOutcome d p.counts (bit item 0) (bits item 8 1)
         (a.take.toList ++ a.drop.toList).contains q)

/-! ### Combining queues -/

/-- One addition of a combining queue: the sum's bits and whether it saturated (R187). -/
def combineAdd (ctype a b : Nat) : Nat × Bool :=
  match ctype with
  | 0 => ((f32.add 0 a b).1, false)
  | 1 => ((f64.add 0 a b).1, false)
  | _ =>
    let s := toSigned 32 a + toSigned 32 b
    if s < -(2 ^ 31 : Int) then (2 ^ 31, true)
    else if s ≥ 2 ^ 31 then (2 ^ 31 - 1, true)
    else (ofSigned 32 s, false)

/-- Element k of a sum over the contributions in ascending sender index, and whether it saturated (R186, R187). Invalid
contributions are left out: the combiner acts on the valid bit, as R186's own steps say, though R144 names only the MU and
the points units (log 77). -/
def combineElem (ctype size k : Nat) (xs : List (Bytes × Bool)) : Nat × Nat :=
  let go := xs.foldl
    (fun (acc : Option Nat × Bool) x =>
      if x.2 then
        let v := leNat x.1 (k * size) size
        match acc.1 with
        | none => (some v, acc.2)
        | some a => let (s, sat) := combineAdd ctype a v; (some s, acc.2 || sat)
      else acc)
    (none, false)
  (go.1.getD 0, b2n go.2)

/-- A combined message: its bytes, its valid bit and the elements that saturated. -/
def combineSum (ctype declLen : Nat) (xs : List (Bytes × Bool)) : Bytes × Bool × Nat :=
  let size := if ctype = 1 then 8 else 4
  let es := (List.range (declLen / size)).map fun k => combineElem ctype size k xs
  ((es.flatMap fun e => toLe size e.1), xs.any (·.2), (es.map (·.2)).sum)

/-- The combiner of a queue, and its waits: one for each input, by index, and one for its sum's room. -/
def combUnit (st : Nat) (d : QDesc) : UnitRef := { cls := 6, st := st, bay := d.bay, sub := d.net }
def combSlot (st q : Nat) (d : QDesc) (i : Nat) : Nat := waitSlot (combUnit st d) (1 + q * 128 + i)

/-- The inputs of a combining queue (R185). -/
def QDesc.inputs (d : QDesc) : List Nat := (List.range d.senders).map fun i => d.srcQ + i

/-- The combiner's request for the sum's room, made at its own bay: it is there at once, behind those that came before it
(R176, R186; log 78). -/
def combReq (st : Nat) (d : QDesc) (cyc : Nat) (valid : Bool) : AdmReq :=
  { due := cyc, adm := cyc, arrived := true, key := (st * 256 + d.bay) * 64 + 63, st := st, bay := d.bay
    len := d.declLen, valid := valid, comb := true }

/-- A sum is added: the contributions are read in ascending sender index, cut or filled to DECL_LEN (R180), one network
word of each in a cycle; its words may be read from Q_COMB cycles on (R186). -/
def Mach.combAdd (m : Mach) (j : Job) (st q seq : Nat) (d : QDesc) : Mach :=
  let (xs, m) := d.inputs.foldl
    (fun (acc : List (Bytes × Bool) × Mach) i =>
      let (len, v) := acc.2.headMsg st i
      let (bs, m) := (acc.2.fixLength st d.declLen (acc.2.headBytes st i len))
      (acc.1 ++ [(bs, v)], m))
    ([], m)
  let (sum, _, sats) := combineSum d.ctype d.declLen xs
  let m := m.stat (Reg.qSat st) sats
  let w := wordBytes d.net
  let n := wordsOf d.net d.declLen
  let first := m.cyc st + m.lat j Config.qComb
  let m := m.noteLate (queueUnit st d) j Config.qComb (m.lat j Config.qComb)
  let m := (List.range n).foldl (fun m k => m.putWord st q seq k (slice sum (k * w) w) (first + k * d.senders)) m
  (m.modQueue st q fun x => { x with sum := some seq, comb := some (m.cyc st + d.senders * n) }).moved st

/-- The head message of every input of a combining queue is removed, when the sum has been made (R186). -/
def Mach.combEnd (m : Mach) (st q : Nat) (d : QDesc) : Mach :=
  (d.inputs.foldl (fun m i => (m.take st i).2) m).modQueue st q fun x => { x with sum := none, comb := none }

/-- COMBINATION: a step of a combining queue's sum (R186). When the head message of every input is complete, the combiner
asks for the sum's room, behind the requests that wait; once it is admitted it adds, which takes one cycle for each network
word of each contribution; and at the end it removes the heads. A stopped switch node combines nothing (R165). -/
def effCombination (st q : Nat) (m : Mach) : Mach :=
  match m.liveJob st with
  | none => m
  | some (h, j) =>
    let d := m.qdesc st q
    let x := m.queue st q
    if d.combines = false ∨ m.switchStopped st d.bay then m
    else
      match x.sum, x.comb with
      | some _, some c => if m.cyc st < c then m else m.combEnd st q d
      | some seq, none => (m.unwaitAt (combSlot st q d 64)).combAdd j st q seq d
      | none, _ =>
        if x.reqs.any (·.comb) then m.waitFullAt (combSlot st q d 64) 2 st q
        else
          let (ok, m) := (d.inputs.zip (List.range d.senders)).foldl
            (fun (acc : Bool × Mach) i =>
              let (ok, m) := acc.2.readHead st i.1
              (acc.1 && ok, if ok then m.unwaitAt (combSlot st q d i.2) else m.waitQueueAt h (combUnit st d) (combSlot st q d i.2) i.1 false 0))
            (true, m)
          if ok = false then m
          else
            let valid := d.inputs.any fun i => (m.headMsg st i).2
            match if x.reqs = [] then m.admitMsg st q d.declLen valid d.bay st else (none, m) with
            | (some seq, m) => m.combAdd j st q seq d
            | (none, m) =>
              (m.modQueue st q fun y => { y with reqs := y.reqs ++ [combReq st d (m.cyc st) valid] }).waitFullAt
                (combSlot st q d 64) 2 st q

/-- The combiner of a queue's bay may take the message at the queue's head in this cycle (R171). -/
def Mach.combWants (m : Mach) (st q : Nat) : Bool :=
  (List.range 4096).any fun c =>
    let d := m.qdesc st c
    d.combines && d.inputs.contains q && ((m.queue st c).comb.getD 0 ≤ m.cyc st)

/-! ### The freeze (R158) -/

/-- FREEZE_BEGIN: the freeze of a job's consist begins in the cycle that its first request set. ST_WAVE_SRC keeps the first
request of the last wave while none is outstanding, where R168 names no request (DESIGN CHOICE, log 89). -/
def effFreezeBegin (h : Nat) (m : Mach) : Mach :=
  match m.job h with
  | none => m
  | some j =>
    match j.freezeAt with
    | none => m
    | some f =>
      if j.frozen ∨ m.now < f ∨ j.started = false then m
      else
        let m := m.setJob h { j with frozen := true, frozenAt := f, waves := j.waves + 1 }
        let m := m.flagJob h fgWave
        (m.jobStations j).foldl
          (fun m st =>
            let m := m.count (Reg.waveCount st) 1
            let m := m.setRaw (Reg.waveSrc st) ((j.stalls.head?.map StallReq.source).getD 0)
            if bit (m.stWord st 0) 0 then m.event { addr := Reg.stCtrl st, bit := 0, info := m.raw (Reg.waveCount st) % 2 ^ 32 }
            else m) m

/-- FREEZE_END: every unit resumes in cycle f + L, once every request has cleared. -/
def effFreezeEnd (h : Nat) (m : Mach) : Mach :=
  match m.job h with
  | none => m
  | some j =>
    if j.frozen = false ∨ j.outstanding ≠ [] then m
    else if m.now < j.frozenAt + freezeLength j.lastClear (m.lat j Config.waveRel) j.frozenAt then m
    else
      m.setJob h { j with
        frozen := false, freezeAt := none, stalls := []
        frozenCyc := j.frozenCyc + (m.now - j.frozenAt) }

/-! ### Stall quorum and spill (R191, R192) -/

/-- The queues of a job that hold a request waiting for room, in ascending (station, queue). -/
def Mach.spillChain (m : Mach) (j : Job) : List (Nat × Nat) :=
  ((m.dev.queues.filter fun e => bit (m.consistOf j).stations (e.1 / 4096) &&
      (match e.2.firstReq with
        | some a => decide (a.adm ≤ m.clock (e.1 / 4096) a.arc)
        | none => false)).map fun e => (e.1 / 4096, e.1 % 4096))

/-- The complete messages of a queue from its head up to its first incomplete one. -/
def Mach.spillable (m : Mach) (st q : Nat) : List Msg :=
  (m.queue st q).msgs.takeWhile fun y => y.complete (m.qNet st q) (m.cyc st)

/-- The siding bytes that a spill needs. -/
def spillNeed (l : List Msg) : Nat := (l.map fun y => recordBytes y.len).sum

/-- The records of a spill in the siding: each message with its place, from a position on. -/
def spillPlaces (pos : Nat) : List Msg → List (Nat × Msg)
  | [] => []
  | y :: l => (pos, y) :: spillPlaces (pos + recordBytes y.len) l

/-- A spilled message's record: a header (Table 7.2) and the payload, whose padding is not written. -/
def Mach.spillRecord (m : Mach) (st q : Nat) (y : Msg) : Bytes :=
  let d := m.qdesc st q
  recordHeader false y.valid y.srcBay y.srcStn y.len y.pos y.seq ++
    (if d.isRing then m.slabBytes st d.bay (d.base + (y.pos + 16) % d.cap) y.len
     else (List.range y.len).map fun i => fget 0 y.bytes i)

/-- Writes the records of a spill to its siding, line by line: a slab siding's lines in the spill's last cycles, one a
cycle; a DDR siding's through engine 0, which issues one request a cycle (R192, R225). -/
def Mach.spillWrites (m : Mach) (h : Nat) (x : Spill) : Mach :=
  let st := x.queue / 4096
  let q := x.queue % 4096
  let d := m.qdesc st q
  let recs := spillPlaces (m.queue st q).sidePos ((m.queue st q).msgs.take x.msgs)
  let need := spillNeed (recs.map (·.2))
  let from_ := max (m.cyc st) (x.done.getD 0 - (need + 127) / 128)
  let ws := recs.flatMap fun r =>
    let bs := m.spillRecord st q r.2
    ((d.sidingLines r.1 bs.length).foldl (fun (acc : List (Nat × Bytes) × Bytes) p =>
      (acc.1 ++ [(p.1, acc.2.take p.2)], acc.2.drop p.2)) ([], bs)).1
  (ws.zip (List.range ws.length)).foldl
    (fun m w =>
      if d.sDdr then
        m.ddrPost { user := .siding st q, write := true, off := w.1.1, len := w.1.2.length, data := w.1.2, job := some h
                    due := m.sidingDue st h d.bay (chanOf w.1.1) + w.2, arc := !(m.timetabledFor (chanOf w.1.1) h) }
      else
        m.slabPost (spStn w.1.1) (spBay w.1.1)
          { order := 1, sub := subSiding q, user := .sideWrite x.queue, write := true, addr := spAddr w.1.1
            len := w.1.2.length, words := paddedWords (spAddr w.1.1) w.1.2, due := from_ + min w.2 ((need + 127) / 128 - 1)
            job := some h }) m

/-- Begins the first spill of a firing that has not begun: a ring's records are read from its slab, line by line, and what
is read is then written to the siding. -/
def Mach.spillBegin (m : Mach) (h : Nat) : Mach :=
  match m.job h with
  | none => m
  | some j =>
    match j.spills with
    | [] => m
    | x :: rest =>
      if x.done.isSome then m
      else
        let st := x.queue / 4096
        let q := x.queue % 4096
        let d := m.qdesc st q
        let ms := (m.queue st q).msgs.take x.msgs
        let need := spillNeed ms
        let n := m.lat j Config.qSpill + (need + 127) / 128
        let m := if d.sDdr then m else m.noteLate (queueUnit st d) j Config.qSpill n
        let x := { x with done := some (j.cyc + if d.sDdr then 0 else n) }
        let m := m.setJob h { j with spills := x :: rest }
        if d.isRing = false then m.spillWrites h x
        else
          let ls := ms.flatMap fun y => linesOf (d.base + y.pos % d.cap) (16 + y.len)
          (ls.zip (List.range ls.length)).foldl
            (fun m p => m.slabPost st d.bay
              { order := 1, sub := subRing q, user := .ringCopy x.queue, addr := p.1.1, len := p.1.2, due := j.cyc + p.2
                job := some h }) m

/-- QUORUM_FIRE: the detector of a job fires at 4,096 quorum cycles (R192). Every firing counts. An empty chain leaves
everything as it is but DRY; a queue that lacks siding room raises SIDING_FULL before anything moves; otherwise the
spills of the chain run one after another. -/
def effQuorumFire (h : Nat) (m : Mach) : Mach :=
  match m.job h with
  | none => m
  | some j =>
    if j.quorum < 4096 ∨ j.spills ≠ [] then m
    else
      let sts := m.jobStations j
      let m := sts.foldl (fun m st => m.count (Reg.qQuorums st) 1) m
      let j := { j with quorums := j.quorums + 1, quorum := 0, firedAt := j.cyc }
      let m := m.setJob h j
      let chain := m.spillChain j
      if chain.isEmpty then
        sts.foldl
          (fun m st =>
            let m := m.setBit (Reg.qQuorumStatus st) 14
            if bit (m.stWord st 0x104) 1 then m.event { addr := Reg.qCtrl st, bit := 1, info := m.raw (Reg.qQuorums st) % 2 ^ 32 }
            else m) m
      else
        let short := chain.find? fun c =>
          let d := m.qdesc c.1 c.2
          let need := spillNeed (m.spillable c.1 c.2)
          need != 0 && (!d.sEn || d.sSize - (m.queue c.1 c.2).sideUsed < need)
        match short with
        | some c =>
          let d := m.qdesc c.1 c.2
          m.fault 4 (queueUnit c.1 d) (some h)
            (pack [(0, 12, c.2), (12, 32, spillNeed (m.spillable c.1 c.2))])
        | none =>
          let run := (chain.map fun c => ({ queue := c.1 * 4096 + c.2, msgs := (m.spillable c.1 c.2).length } : Spill)).filter
            fun x => x.msgs != 0
          let m := (m.setJob h { j with spills := run }).spillBegin h
          sts.foldl
            (fun m st => if bit (m.stWord st 0x104) 0 then
                m.event { addr := Reg.qCtrl st, bit := 0, info := m.raw (Reg.qQuorums st) % 2 ^ 32 } else m) m

/-- A spill still waits for the memories it moves between. -/
def Mach.spillMoving (m : Mach) (x : Spill) : Bool :=
  (m.dev.slabPort.any fun p => p.2.reqs.any fun r => r.user == .ringCopy x.queue || r.user == .sideWrite x.queue)
    || m.dev.ddr.any fun c => (c.2.port ++ c.2.served ++ c.2.held).any fun r =>
      r.write && r.user == .siding (x.queue / 4096) (x.queue % 4096)

/-- SPILL_DONE: the spill that runs is complete: the messages stand in the siding, their room is free, a ring's HEAD stands
at its first incomplete message or at TAIL. The next one begins. -/
def effSpillDone (h : Nat) (m : Mach) : Mach :=
  match m.job h with
  | none => m
  | some j =>
    match j.spills with
    | [] => m
    | x :: rest =>
      if j.frozen ∨ j.cyc < x.done.getD (j.cyc + 1) ∨ m.spillMoving x then m
      else
        let st := x.queue / 4096
        let q := x.queue % 4096
        let d := m.qdesc st q
        let y := m.queue st q
        let ms := y.msgs.take x.msgs
        let left := y.msgs.drop x.msgs
        let need := spillNeed ms
        let m := m.setQueue st q { y with
          siding := y.siding ++ (spillPlaces y.sidePos ms).map fun r => { r.2 with pos := r.1 % d.sSize, bytes := [], words := [] }
          sidePos := (y.sidePos + need) % d.sSize, sideUsed := y.sideUsed + need, msgs := left
          head := if d.isRing then match left with
              | z :: _ => z.pos
              | [] => y.tail
            else (y.head + (ms.map fun y => wordsOf d.net y.len).sum) % 2 ^ 32
          spills := BitVec.ofNat 64 (statBump y.spills.toNat)
          balance := if d.joinShort then BitVec.ofNat 64 (statBump y.balance.toNat) else y.balance }
        let m := m.count (Reg.qSpillBytes st) need
        let m := m.setJob h { j with spills := rest, spilled := j.spilled + 1, quorum := 0 }
        let m := if d.sDdr ∧ (m.ch (chanOf d.sBase)).service = 0 then m.flagJob h fgReorder else m
        m.spillBegin h

/-! ### The commands -/

def execMessageOffer (st b r : Nat) (s : State) := act .run (.messageOffer st b r) s fun m =>
  m.inBay st b (effMessageOffer st b r)
def execAdmissionGrant (st b r : Nat) (s : State) := act .run (.admissionGrant st b r) s fun m =>
  m.inBay st b (effAdmissionGrant st b r)
def execWordSend (st b r : Nat) (s : State) := act .run (.wordSend st b r) s fun m =>
  m.inBay st b (effWordSend st b r)
def execWordArrival (st q : Nat) (s : State) := act .run (.wordArrival st q) s fun m =>
  m.inQueue st q (effWordArrival st q)
def execFreezeBegin (j : Nat) (s : State) := act .run (.freezeBegin j) s (effFreezeBegin j)
def execFreezeEnd (j : Nat) (s : State) := act .run (.freezeEnd j) s (effFreezeEnd j)
def execQuorumFire (j : Nat) (s : State) := act .run (.quorumFire j) s (effQuorumFire j)
def execSpillDone (j : Nat) (s : State) := act .run (.spillDone j) s (effSpillDone j)

end Sys2Proof.Machine
end

