-- ==== Sys2Proof/Machine/SignalBox.lean ====
section
/-! DEFINITION. The signal box (R152 to R154, R208): its frame of issue, branches, arithmetic, sends and receives, unit
starts and JOIN. Token, marshalling, remote, STOP and MILEPOST instructions stand in the files of their chapters. -/

namespace Sys2Proof.Machine
open Sys2Proof

/-! ### Fields and registers (Table 6.23) -/

def insOp (i : Nat) : Nat := bits i 63 58
def insD (i : Nat) : Nat := bits i 57 53
def insA (i : Nat) : Nat := bits i 52 48
def insB (i : Nat) : Nat := bits i 47 43
def insImm (i : Nat) : Nat := bits i 31 0

/-- The signal box as a unit; it sends at the L port of bay 119 (R137, Table 6.11). -/
def sbUnit (st : Nat) : UnitRef := { cls := 4, st := st }
def sbBay : Nat := 119

/-- The signal box of a station. -/
def Mach.sb (m : Mach) (st : Nat) : SigBox := (m.stn st).sb
def Mach.modSb (m : Mach) (st : Nat) (f : SigBox → SigBox) : Mach := m.modStn st fun s => { s with sb := f s.sb }

/-- A scalar register; s0 reads 0. -/
def SigBox.reg (s : SigBox) (r : Nat) : Nat := if r = 0 then 0 else (fget 0 s.regs r).toNat

/-- Writes a scalar register, which may be used from a consist cycle on; writes to s0 are ignored. -/
def SigBox.setReg (s : SigBox) (r v at_ : Nat) : SigBox :=
  if r = 0 then s else { s with regs := fput s.regs r (BitVec.ofNat 64 v), ready := fput s.ready r at_ }

/-- A register that no instruction may use until a reply writes it. -/
def notYet : Nat := 2 ^ 64

/-- Marks a register as written by a reply to come. -/
def SigBox.awaitReg (s : SigBox) (r : Nat) : SigBox := if r = 0 then s else { s with ready := fput s.ready r notYet }

/-- The operand that an A field of 0 makes 1 (R208). -/
def SigBox.countOf (s : SigBox) (a : Nat) : Nat := if a = 0 then 1 else s.reg a % 2 ^ 32

/-! ### The frame of issue (R152) -/

/-- Whether the signal box of a station may issue an instruction with an OP now: its job's units act, the program runs,
its last issue and every result that it reads are old enough, none of its sends is held, and the instruction at the pc
has that OP. -/
def Mach.sbCan (m : Mach) (st op : Nat) (reads : Nat → List Nat) : Bool :=
  let sb := m.sb st
  let i := m.sbInstr st sb.pc
  (m.liveJob st).isSome && sb.running && decide (sb.next ≤ m.cyc st) && insOp i == op
    && !m.senderBlocked st sbBay (sbUnit st)
    && (reads i).all fun r => r == 0 || decide (fget 0 sb.ready r ≤ m.cyc st)

/-- Issues the instruction at the pc, if it has the OP and may issue; `f` takes the job's handle, the job and the
instruction. -/
def Mach.sbRun (m : Mach) (st op : Nat) (reads : Nat → List Nat) (f : Nat → Job → Nat → Mach → Mach) : Mach :=
  match m.liveJob st with
  | none => m
  | some (h, j) =>
    if m.sbCan st op reads && (m.sb st).wait == .none then f h j (m.sbInstr st (m.sb st).pc) m else m

/-- The instruction is done: the next one issues in a consist cycle. -/
def Mach.sbNext (m : Mach) (st at_ : Nat) : Mach :=
  ((m.modSb st fun s => { s with pc := (s.pc + 1) % 4096, next := at_ }).unwait (sbUnit st)).work st

/-- The usual case: the next instruction may issue one cycle on. -/
def Mach.sbDone (m : Mach) (st : Nat) : Mach := m.sbNext st (m.cyc st + 1)

/-- A wait that ends in this cycle lets the next instruction issue in it; an instruction that did not wait takes its
issue cycle (log 15). -/
def Mach.sbWaited (m : Mach) (st : Nat) : Mach :=
  m.sbNext st (if (ffind m.dev.waits (waitKey (sbUnit st))).isSome then m.cyc st else m.cyc st + 1)

/-- A taken branch issues its target SB_ALU cycles after itself. -/
def Mach.sbJump (m : Mach) (j : Job) (st target : Nat) : Mach :=
  ((m.modSb st fun s => { s with pc := target % 4096, next := m.cyc st + m.lat j Config.sbAlu }).noteLate (sbUnit st) j
    Config.sbAlu (m.lat j Config.sbAlu)).work st

/-- A result of a latency entry. -/
def Mach.sbWrite (m : Mach) (j : Job) (st d v id : Nat) : Mach :=
  (m.modSb st fun s => s.setReg d (v % 2 ^ 64) (m.cyc st + m.lat j id)).noteLate (sbUnit st) j id (m.lat j id)

/-! ### Operations (Table 6.6) -/

/-- ALU op on 64-bit operands (OP 0x08). -/
def aluOp (op a b : Nat) : Nat :=
  match op with
  | 0 => (a + b) % 2 ^ 64
  | 1 => (a + 2 ^ 64 - b) % 2 ^ 64
  | 2 => a &&& b
  | 3 => a ||| b
  | 4 => a ^^^ b
  | 5 => a * 2 ^ (b % 64) % 2 ^ 64
  | 6 => a / 2 ^ (b % 64)
  | 7 => b2n (decide (toSigned 64 a < toSigned 64 b))
  | _ => b2n (decide (a < b))

/-- FPU op: the value written to sD, and the flags raised. `wide` selects FP64, `long` a 64-bit integer. -/
def fpuOp (op : Nat) (wide long : Bool) (x y : Nat) : Nat × Nat :=
  let f := if wide then f64 else f32
  let g := if wide then f32 else f64
  let a := if wide then x else x % 2 ^ 32
  let b := if wide then y else y % 2 ^ 32
  let w := if long then 64 else 32
  match op with
  | 0 => f.add 0 a b
  | 1 => f.sub 0 a b
  | 2 => f.mul 0 a b
  | 3 => f.div 0 a b
  | 4 => f.sqrt 0 a
  | 5 => let r := f.cmp false .lt a b; (b2n r.1, r.2)
  | 6 => let r := f.cmp false .eq a b; (b2n r.1, r.2)
  | 7 => let r := f.cmp true .lt a b; (b2n r.1, r.2)
  | 8 => f.minMax false a b
  | 9 => f.minMax true a b
  | 10 => f.minMaxNum false a b
  | 11 => f.minMaxNum true a b
  | 12 => f.convert g 0 a
  | 13 => let r := f.toInt 0 w a; (ofSigned 64 r.1, r.2)
  | 14 => f.ofInt 0 (toSigned w x)
  | _ => f.toIntegral 0 a

/-! ### Effects -/

/-- NOP. -/
def effSbNop (st : Nat) (m : Mach) : Mach := m.sbRun st 0x00 (fun _ => []) fun _ _ _ m => m.sbDone st

/-- END: the station's program ends (R152, R327). -/
def effSbEnd (st : Nat) (m : Mach) : Mach :=
  m.sbRun st 0x01 (fun _ => []) fun h j _ m =>
    let m := m.modSb st fun s => { s with running := false, ended := true }
    (m.setJob h { j with progEnd := j.progEnd ||| 2 ^ st, endCyc := j.cyc }).work st

/-- JMP. -/
def effSbJmp (st : Nat) (m : Mach) : Mach :=
  m.sbRun st 0x02 (fun _ => []) fun _ j i m => m.sbJump j st (insImm i)

/-- BNZ: a branch that is not taken costs nothing more. -/
def effSbBnz (st : Nat) (m : Mach) : Mach :=
  m.sbRun st 0x03 (fun i => [insA i]) fun _ j i m =>
    if (m.sb st).reg (insA i) ≠ 0 then m.sbJump j st (insImm i) else m.sbDone st

/-- LOOP: decrements sA and branches while it is not 0. -/
def effSbLoop (st : Nat) (m : Mach) : Mach :=
  m.sbRun st 0x04 (fun i => [insA i]) fun _ j i m =>
    let v := aluOp 1 ((m.sb st).reg (insA i)) 1
    let m := m.sbWrite j st (insA i) v Config.sbAlu
    if v ≠ 0 then m.sbJump j st (insImm i) else m.sbDone st

/-- LI: sD becomes IMM, sign-extended. -/
def effSbLi (st : Nat) (m : Mach) : Mach :=
  m.sbRun st 0x05 (fun _ => []) fun _ j i m =>
    (m.sbWrite j st (insD i) (ofSigned 64 (toSigned 32 (insImm i))) Config.sbAlu).sbDone st

/-- LIH: sD[63:32] becomes IMM. -/
def effSbLih (st : Nat) (m : Mach) : Mach :=
  m.sbRun st 0x06 (fun i => [insD i]) fun _ j i m =>
    (m.sbWrite j st (insD i) ((m.sb st).reg (insD i) % 2 ^ 32 + insImm i * 2 ^ 32) Config.sbAlu).sbDone st

/-- ALU. -/
def effSbAlu (st : Nat) (m : Mach) : Mach :=
  m.sbRun st 0x08 (fun i => [insA i, insB i]) fun _ j i m =>
    let sb := m.sb st
    (m.sbWrite j st (insD i) (aluOp (insImm i % 16) (sb.reg (insA i)) (sb.reg (insB i))) Config.sbAlu).sbDone st

/-- The registers that an FPU operation reads (Table 6.6): none to read the flags, sA alone for those of one operand. -/
def fpuReads (i : Nat) : List Nat :=
  let op := insImm i % 32
  if op = 16 then [] else if op = 4 ∨ (12 ≤ op ∧ op ≤ 15) ∨ op = 17 then [insA i] else [insA i, insB i]

/-- FPU: flags stick in ST_SB_FPFLAGS; operations 16 and 17 read and clear them (R86). -/
def effSbFpu (st : Nat) (m : Mach) : Mach :=
  m.sbRun st 0x09 fpuReads fun _ j i m =>
    let sb := m.sb st
    let op := insImm i % 32
    let wide := bit (insImm i) 5
    let fl := m.raw (Reg.sbFpflags st)
    if op = 16 then (m.sbWrite j st (insD i) fl Config.sbFp).sbDone st
    else if op = 17 then
      (m.setRaw (Reg.sbFpflags st) (fl - (fl &&& (sb.reg (insA i) % 32)))).sbDone st
    else
      let (v, f) := fpuOp op wide (bit (insImm i) 6) (sb.reg (insA i)) (sb.reg (insB i))
      let lat := if op = 3 ∨ op = 4 then (if wide then Config.sbFdiv64 else Config.sbFdiv) else Config.sbFp
      ((m.raiseFlags (Reg.sbFpflags st) f).sbWrite j st (insD i) v lat).sbDone st

/-- RECV: the next message of a scalar queue, one word, zero-extended (R180). -/
def effSbRecv (st : Nat) (m : Mach) : Mach :=
  m.sbRun st 0x10 (fun _ => []) fun h _ i m =>
    let q := insImm i % 4096
    match m.take st q with
    | (some (bs, _), m) =>
      let (bs, m) := m.fixLength st 4 bs
      let m := m.clearStall h (sbUnit st) q
      ((m.modSb st fun s => s.setReg (insD i) (leNat bs 0 4) (m.cyc st + 1)).sbDone st)
    | (none, m) => m.waitQueue h (sbUnit st) q false

/-- The signal box takes the message at a queue's head in this cycle (R171): a RECV of the queue may issue. -/
def Mach.sbWants (m : Mach) (st q : Nat) : Bool :=
  m.sbCan st 0x10 (fun _ => []) && insImm (m.sbInstr st (m.sb st).pc) % 4096 == q

/-- Sends an item of the signal box on the route of bay 119 that names a queue (R141). While it is held there behind four
outstanding requests the box issues nothing more (`Mach.sbCan`). -/
def Mach.sbSendOn (m : Mach) (st q : Nat) (d : Bytes) : Mach :=
  match m.routeOf st sbBay q with
  | none => m.sbDone st
  | some r => (m.sendMessage st sbBay r (sbUnit st) d true).sbDone st

/-- SEND: sA[31:0] as a message of one word. -/
def effSbSend (st : Nat) (m : Mach) : Mach :=
  m.sbRun st 0x11 (fun i => [insA i]) fun _ _ i m =>
    m.sbSendOn st (insImm i % 4096) (toLe 4 ((m.sb st).reg (insA i)))

/-- CTL: the control item T = sA[0], G = sA[8:1]. -/
def effSbCtl (st : Nat) (m : Mach) : Mach :=
  m.sbRun st 0x12 (fun i => [insA i]) fun _ _ i m =>
    m.sbSendOn st (insImm i % 4096) (toLe 2 ((m.sb st).reg (insA i) % 512))

/-! ### Unit starts (R154) -/

/-- The key of a unit's pending start: kind 0 MU, 1 VU, 2 engine. -/
def startKey (kind unit : Nat) : Nat := 512 * kind + unit

/-- Whether a unit is at work. -/
def Mach.unitRuns (m : Mach) (st kind unit : Nat) : Bool :=
  match kind with
  | 0 => (m.muOf st unit).run.isSome
  | 1 => (m.vuOf st unit).run.isSome
  | _ => (m.engine st unit).busy

/-- Whether a unit still works for the job before the one that the signal box runs (R327). -/
def Mach.unitOld (m : Mach) (st kind unit : Nat) : Bool :=
  (m.stn st).prev.any fun p =>
    if kind = 0 then m.bayPlane st unit == p.plane
    else if kind = 1 then m.vuPlane st unit == p.plane
    else (m.engine st unit).busy && (m.engine st unit).job == p.job

/-- Whether a start to a unit is on its way. -/
def SigBox.starting (s : SigBox) (kind unit : Nat) : Bool := s.starts.any fun x => x.kind == kind && x.unit == unit

/-- Issues a start: to an idle unit it travels `lat` cycles; to a busy one it takes the pending place; a full place
stops the signal box under "queue full". -/
def Mach.sbStartUnit (m : Mach) (j : Job) (st kind unit idx ovr id : Nat) : Mach :=
  let sb := m.sb st
  let lat := m.lat j id
  let msg : UnitMsg := { kind := kind, unit := unit, idx := idx, ovr := ovr, due := m.cyc st + lat }
  if !m.unitRuns st kind unit && !m.unitOld st kind unit && !sb.starting kind unit then
    ((m.modSb st fun s => { s with starts := s.starts ++ [msg] }).noteLate (sbUnit st) j id lat).sbDone st
  else if (ffind sb.pend (startKey kind unit)).isNone then
    (m.modSb st fun s => { s with pend := fput s.pend (startKey kind unit) msg }).sbDone st
  else m.wait (sbUnit st) { cause := 2 }

/-- A unit reports completion: a pending start reaches it in the next cycle, otherwise JOIN sees the completion after the
latency of an entry. -/
def Mach.unitDone (m : Mach) (j : Job) (st kind unit id : Nat) : Mach :=
  match ffind (m.sb st).pend (startKey kind unit) with
  | some x => m.modSb st fun s => { s with
      pend := fdel s.pend (startKey kind unit), starts := s.starts ++ [{ x with due := m.cyc st + 1 }] }
  | none =>
    let lat := m.lat j id
    (m.modSb st fun s => { s with dones := s.dones ++ [{ kind := kind, unit := unit, due := m.cyc st + lat }] }).noteLate
      (sbUnit st) j id lat

/-- The pending start of the present job to a unit that the job before has left goes to the unit in the next cycle. -/
def Mach.releasePend (m : Mach) (st kind unit : Nat) : Mach :=
  m.modSb st fun s =>
    match ffind s.pend (startKey kind unit) with
    | some x => { s with
        pend := fdel s.pend (startKey kind unit), starts := s.starts ++ [{ x with due := m.cyc st + 1 }] }
    | none => s

/-- A start that has reached its unit: taken from the list. -/
def Mach.takeStart (m : Mach) (st kind unit : Nat) : Option UnitMsg × Mach :=
  match (m.sb st).starts.find? fun x => x.kind == kind && x.unit == unit && decide (x.due ≤ m.cyc st) with
  | none => (none, m)
  | some x => (some x, m.modSb st fun s => { s with starts := removeFirst (· == x) s.starts })

/-- Whether a unit is idle as JOIN sees it: at rest, with no start pending or on its way and no completion unseen. -/
def Mach.unitJoined (m : Mach) (st kind unit : Nat) : Bool :=
  let sb := m.sb st
  !m.unitRuns st kind unit && !m.unitOld st kind unit && !sb.starting kind unit && (ffind sb.pend (startKey kind unit)).isNone
    && !(sb.dones.any fun x => x.kind == kind && x.unit == unit)

/-- MUGO: starts the MU of bay IMM[7:0] at descriptor IMM[12:8]. -/
def effSbMugo (st : Nat) (m : Mach) : Mach :=
  m.sbRun st 0x18 (fun _ => []) fun _ j i m =>
    m.sbStartUnit j st 0 (insImm i % 256) (bits (insImm i) 12 8) 0 Config.sbStart

/-- VUGO: starts vector unit IMM[4:0] at instruction IMM[12:5]. -/
def effSbVugo (st : Nat) (m : Mach) : Mach :=
  m.sbRun st 0x19 (fun _ => []) fun _ j i m =>
    m.sbStartUnit j st 1 (insImm i % 32) (bits (insImm i) 12 5) 0 Config.sbStart

/-- JOIN: waits until the unit is idle with no pending start, counted as "token". -/
def effSbJoin (st : Nat) (m : Mach) : Mach :=
  m.sbRun st 0x1A (fun _ => []) fun _ _ i m =>
    let joined := if bit (insImm i) 8 then m.unitJoined st 1 (insImm i % 32) else m.unitJoined st 0 (insImm i % 256)
    if joined then m.sbWaited st else m.wait (sbUnit st) { cause := 6 }

/-- UNIT_COMPLETION_SEEN: the signal box sees a unit's completion SB_DONE (for an engine ME_DONE) cycles after it. -/
def effUnitCompletionSeen (st kind unit : Nat) (m : Mach) : Mach :=
  match m.liveJob st with
  | none => m
  | some _ =>
    match (m.sb st).dones.find? fun x => x.kind == kind && x.unit == unit && decide (x.due ≤ m.cyc st) with
    | none => m
    | some x => m.modSb st fun s => { s with dones := removeFirst (· == x) s.dones }

/-! ### The commands -/

def execSbNop (st : Nat) (s : State) := act .run (.sbNop st) s (effSbNop st)
def execSbEnd (st : Nat) (s : State) := act .run (.sbEnd st) s (effSbEnd st)
def execSbJmp (st : Nat) (s : State) := act .run (.sbJmp st) s (effSbJmp st)
def execSbBnz (st : Nat) (s : State) := act .run (.sbBnz st) s (effSbBnz st)
def execSbLoop (st : Nat) (s : State) := act .run (.sbLoop st) s (effSbLoop st)
def execSbLi (st : Nat) (s : State) := act .run (.sbLi st) s (effSbLi st)
def execSbLih (st : Nat) (s : State) := act .run (.sbLih st) s (effSbLih st)
def execSbAlu (st : Nat) (s : State) := act .run (.sbAlu st) s (effSbAlu st)
def execSbFpu (st : Nat) (s : State) := act .run (.sbFpu st) s (effSbFpu st)
def execSbSend (st : Nat) (s : State) := act .run (.sbSend st) s (effSbSend st)
def execSbCtl (st : Nat) (s : State) := act .run (.sbCtl st) s (effSbCtl st)
def execSbMugo (st : Nat) (s : State) := act .run (.sbMugo st) s (effSbMugo st)
def execSbVugo (st : Nat) (s : State) := act .run (.sbVugo st) s (effSbVugo st)
def execSbJoin (st : Nat) (s : State) := act .run (.sbJoin st) s (effSbJoin st)
def execUnitCompletionSeen (st kind unit : Nat) (s : State) :=
  act .run (.unitCompletionSeen st kind unit) s (effUnitCompletionSeen st kind unit)

end Sys2Proof.Machine
end

