-- ==== Sys2Proof/Machine/Packets.lean ====
section
/-! DEFINITION. Packets of the Ermus fabric as this device holds them, the answers that a target returns, and the
outstanding remote operations of a station (R266, R272 to R283). Links and transit are in Ermus.lean. -/

namespace Sys2Proof.Machine
open Sys2Proof

/-! ### Device IDs and addresses (R266, R272) -/

/-- This device's ID and the ring size of a dimension, 0 x, 1 y, 2 z. -/
def Mach.deviceId (m : Mach) : Nat := bits (m.raw Reg.epDeviceId) 17 0
def Mach.ringSize (m : Mach) (k : Nat) : Nat := bits (m.raw Reg.epTorus) (8 * k + 6) (8 * k)
/-- The coordinate of a device ID in a dimension. -/
def coordOf (d k : Nat) : Nat := d / 64 ^ k % 64
/-- Whether a device ID lies in the torus (R274). -/
def Mach.inTorus (m : Mach) (d : Nat) : Bool := (List.range 3).all fun k => coordOf d k < m.ringSize k

/-- Fields of a global address (Table 10.4). -/
def gaDevice (a : Nat) : Nat := bits a 63 46
def gaSpace (a : Nat) : Nat := bits a 45 43
def gaOffset (a : Nat) : Nat := bits a 42 0

/-! ### Outcomes (Table 10.7) -/
def ocOk : Nat := 0
def ocAddr : Nat := 1
def ocUncorr : Nat := 2
def ocRefused : Nat := 3
def ocToken : Nat := 4
def ocDenied : Nat := 5
def ocNosupport : Nat := 6
def ocUnreach : Nat := 7

/-! ### Packet operations (Table 10.8) -/
def opLoad : Nat := 0
def opStore : Nat := 1
def opMessage : Nat := 2
def opCombine : Nat := 3
def opSignal : Nat := 4
def opWait : Nat := 5
def opTicket : Nat := 6
def opResponse : Nat := 8
def opAck : Nat := 9

/-- Operations that take a write entry (R278); the others take a read entry. -/
def isWriteOp (op : Nat) : Bool := op == opStore || op == opMessage || op == opCombine || op == opSignal

/-- An outcome other than OK that this device returns counts in EP_TARGET_ERR and sends the event that EP_CTRL enables
(R286, Table 10.13). -/
def Mach.targetErr (m : Mach) (addr : Nat) : Mach :=
  let m := m.stat Reg.epTargetErr 1
  if bit (m.raw Reg.epCtrl) 1 then m.event { addr := Reg.epCtrl, bit := 1, info := addr % 2 ^ 32 } else m

/-- Puts a packet under way. One for this device has arrived (R274). -/
def Mach.addPacket (m : Mach) (p : Packet) : Mach :=
  { m with dev := { m.dev with
      pkts := fput m.dev.pkts m.dev.pktNext { p with arrived := p.dest == m.deviceId }
      pktNext := m.dev.pktNext + 1 } }

/-- The flits of a packet leave its input pool: their credits are owed to the peer (R259). -/
def Mach.passOn (m : Mach) (id : Nat) : Mach :=
  match ffind m.dev.pkts id with
  | none => m
  | some k =>
    match k.port with
    | none => m
    | some p =>
      let m := { m with dev := { m.dev with pkts := fput m.dev.pkts id { k with flits := 0 } } }
      m.modEp p fun e => { e with owe := setNth e.owe k.pool (nth 0 e.owe k.pool + k.flits) }

/-- Removes a packet. -/
def Mach.dropPacket (m : Mach) (id : Nat) : Mach :=
  let m := m.passOn id
  { m with dev := { m.dev with pkts := fdel m.dev.pkts id } }
def Mach.setPacket (m : Mach) (id : Nat) (p : Packet) : Mach := { m with dev := { m.dev with pkts := fput m.dev.pkts id p } }

/-- Answers a request packet with an outcome (R280): loads, waits and tickets get a response, the others an
acknowledgement. -/
def Mach.answer (m : Mach) (id status arg : Nat) (data : Bytes) : Mach :=
  match ffind m.dev.pkts id with
  | none => m
  | some p =>
    let m := if status = ocOk then m else m.targetErr p.addr
    (m.dropPacket id).addPacket
      { op := if isWriteOp p.op then opAck else opResponse, status := status, src := m.deviceId, dest := p.src
        ctx := p.ctx, addr := p.addr, tag := p.tag, len := data.length, arg := BitVec.ofNat 64 arg, data := data }

/-- The messages of other devices that wait for room in a queue are refused: its consist runs no longer (Table 10.7,
Table 12.5). -/
def Mach.refuseRemote (m : Mach) (st q : Nat) : Mach :=
  let x := m.queue st q
  let ids := x.reqs.filterMap fun (a : AdmReq) => a.pkt
  if ids.isEmpty then m
  else
    let m := m.setQueue st q { x with reqs := x.reqs.filter fun (a : AdmReq) => a.pkt.isNone }
    ids.foldl (fun m id => (m.stat (Reg.qRefused st) 1).answer id ocRefused 0 []) m

/-! ### Outstanding remote operations (R278) -/

/-- The entries that a station holds, reads and writes. -/
def Mach.remEntries (m : Mach) (st : Nat) (write : Bool) : Nat :=
  (m.dev.rem.filter fun e => e.1 / 65536 == st && isWriteOp e.2.op == write).length

/-- Whether a station has an entry free for an operation. -/
def Mach.remFree (m : Mach) (st op : Nat) : Bool :=
  if isWriteOp op then m.remEntries st true < 1024 else m.remEntries st false < 512

/-- The first entry number from t on, in turn, that no entry holds. -/
def tagFrom (used : FMap RemEntry) : Nat → Nat → Nat
  | 0, t => t % 65536
  | n + 1, t => if used.any fun e => e.1 % 65536 == t % 65536 then tagFrom used n (t + 1) else t % 65536

/-- The number that the next entry takes: numbers are taken in turn from 65,536 (log 16). -/
def Mach.remTag (m : Mach) : Nat := tagFrom m.dev.rem m.dev.rem.length m.dev.remNext

/-- Issues a remote operation (R274, R278, R282): an entry is taken and a packet sent, or, for a device outside the
torus, the outcome UNREACH comes back. -/
def Mach.remIssue (m : Mach) (st : Nat) (e : RemEntry) (arg : Nat) (data : Bytes) (len : Nat) : Mach :=
  let tag := m.remTag
  let limit := bits (m.raw (if e.op = opWait then Reg.epTimeoutWait else Reg.epTimeoutAcc)) 19 0
  let limit := if limit = 0 then 1048576 else limit
  let entry := { e with issued := m.now, limit := limit * 1900, order := m.dev.remNext }
  let m := { m with dev := { m.dev with
    rem := fput m.dev.rem (st * 65536 + tag) entry, remNext := m.dev.remNext + 1 } }
  let unit : UnitRef := if e.unit = 0 then sbUnit st else { cls := 5, st := st, sub := e.unit - 1 }
  let ctx := ctxId (some e.job) unit
  let dest := gaDevice e.addr
  if m.inTorus dest || dest == m.deviceId then
    m.addPacket { op := e.op, src := m.deviceId, dest := dest, ctx := ctx, addr := e.addr, tag := tag, len := len
                  arg := BitVec.ofNat 64 arg, data := data }
  else
    (m.targetErr e.addr).addPacket
      { op := if isWriteOp e.op then opAck else opResponse, status := ocUnreach, src := dest
        dest := m.deviceId, ctx := ctx, addr := e.addr, tag := tag }

end Sys2Proof.Machine
end

