-- ==== Sys2Proof/Machine/Tokens.lean ====
section
/-! DEFINITION. Tokens, fences and the ticket office (chapter 08): the signal-box operations 0x20 to 0x26, the order at
a token, the re-timing barrier, what resets and stabling do to slots, and host writes to counters. -/

namespace Sys2Proof.Machine
open Sys2Proof

/-! ### References (R208, R216) -/

/-- The token reference of an instruction: an immediate, or sB[10:0]. -/
def tokRef (sb : SigBox) (i : Nat) : Nat := if bit (insImm i) 11 then sb.reg (insB i) % 2 ^ 11 else insImm i % 2 ^ 11

/-- The logical station of a reference. -/
def refStation (st ref : Nat) : Nat := if bit ref 10 then bits ref 9 6 else st

/-- The slot that a consist has for a token reference of one of its stations. -/
def Mach.tokDecl (m : Mach) (j : Job) (st ref : Nat) : Option TokDecl :=
  (m.consistOf j).tokens.find? fun t => t.st == refStation st ref && t.logical == ref % 64

/-- The physical counter of a logical counter. -/
def Mach.counterOf (m : Mach) (j : Job) (k : Nat) : Option Nat :=
  ((m.consistOf j).counters.find? fun c => c.logical == k).map (·.phys)

/-- A reference from sB that names nothing declared: TOKEN_UNASSIGNED against the signal box, which stops (R209). -/
def Mach.tokUnassigned (m : Mach) (st h ref cursor : Nat) : Mach :=
  (m.modSb st fun s => { s with running := false }).fault 0x07 (sbUnit st) (some h) (ref + cursor * 2 ^ 11)

/-! ### Waits (R210, R214, R220) -/

/-- Whether a wait is satisfied (R210). -/
def tokSatisfied (prod cons k : Nat) : Bool := (prod + 2 ^ 33 - cons - k) % 2 ^ 32 < 2 ^ 31

/-- The latency of the reply from a token's station to a waiter (R220). -/
def Mach.wakeLatency (m : Mach) (tokSt st h : Nat) : Nat :=
  match m.job h with
  | some j => m.lat j Config.tkWake + m.stnLatency tokSt st
  | none => 0

/-- Sends a reply to a signal box. -/
def Mach.sbReply (m : Mach) (st : Nat) (r : Reply) : Mach := m.modSb st fun s => { s with replies := s.replies ++ [r] }

/-- Sends a reply to the signal box of a job's station, a latency after its present cycle, of which an entry is part. -/
def Mach.sbAnswer (m : Mach) (st h id lat : Nat) (r : Reply) : Mach :=
  m.inJob st h fun m =>
    (m.sbReply st { r with due := m.cyc st + lat }).noteResult (sbUnit st) (((m.job h).map fun j => m.lateOf j id).getD 0)
      (m.cyc st + lat)

/-- A wait is granted: the cursor moves where it consumes, and the waiter resumes. -/
def Mach.grantWait (m : Mach) (st t : Nat) (w : Waiter) : Mach :=
  let x := m.token st t
  let cons := if w.consume then setNth x.cons w.cursor ((nth 0 x.cons w.cursor + w.k) % 2 ^ 32) else x.cons
  let m := m.setToken st t { x with cons := cons, waiters := removeFirst (· == w) x.waiters }
  match w.pkt with
  | some id => m.answer id ocOk 0 []
  | none => m.sbAnswer w.st x.owner Config.tkWake (m.wakeLatency st w.st x.owner) { write := false }

/-- Grants every held wait that is satisfied: on-chip waits in ascending station, then remote waits in order of
arrival. -/
def Mach.settleToken (m : Mach) (st t : Nat) : Mach :=
  let ws := (m.token st t).waiters
  let order := ((List.range 16).flatMap fun s => ws.filter fun w => w.pkt.isNone && w.st == s)
    ++ ws.filter fun w => w.pkt.isSome
  order.foldl
    (fun m w =>
      let x := m.token st t
      if x.state == .active && tokSatisfied x.prod (nth 0 x.cons w.cursor) w.k then m.grantWait st t w else m) m

/-- A signal reaches a slot: added to PROD of an ACTIVE slot, and of a STABLED one where it is remote; otherwise it is
discarded and counted (R214, R215). -/
def Mach.tokSignal (m : Mach) (st t n : Nat) (remote : Bool) : Mach :=
  let x := m.token st t
  if x.state == .active || (remote && x.state == .stabled && !x.wiped) then
    m.setToken st t { x with prod := (x.prod + n) % 2 ^ 32 }
  else m.stat (Reg.tkSigLost st) 1

/-- A job whose operations still count: it runs and none of it has been stopped. -/
def Mach.jobLive (m : Mach) (h : Nat) : Bool :=
  match m.job h with
  | some j => j.phase == .running || j.phase == .stabling
  | none => false

/-! ### Signal-box operations -/

/-- A unit sends an operation on its way to its token, some cycles on (R220, R226). -/
def Mach.tokSend (m : Mach) (j : Job) (st dst : Nat) (o : TokOp) (u : UnitRef) (after : Nat) : Mach :=
  let o := { o with srcSt := st, due := m.cyc st + after + m.lat j Config.tkSig + m.stnLatency st dst }
  (m.modStn dst fun s => { s with tokOps := s.tokOps ++ [o] }).noteResult u (m.lateOf j Config.tkSig) o.due

/-- Looks a reference and a cursor up, or raises TOKEN_UNASSIGNED. -/
def Mach.withToken (m : Mach) (h : Nat) (j : Job) (st ref : Nat) (cursor : Nat) (check : Bool)
    (f : TokDecl → Mach → Mach) : Mach :=
  match m.tokDecl j st ref with
  | none => m.tokUnassigned st h ref cursor
  | some d => if check && decide (d.cursors ≤ cursor) then m.tokUnassigned st h ref cursor else f d m

/-- SIG. -/
def effSbSig (st : Nat) (m : Mach) : Mach :=
  m.sbRun st 0x20 (fun i => insA i :: if bit (insImm i) 11 then [insB i] else []) fun h j i m =>
    let sb := m.sb st
    m.withToken h j st (tokRef sb i) (bits (insImm i) 13 12) false fun d m =>
      (m.tokSend j st d.st { slot := d.slot, kind := 0, val := sb.countOf (insA i), job := h } (sbUnit st) 0).sbDone st

/-- WAIT. -/
def effSbWait (st : Nat) (m : Mach) : Mach :=
  m.sbRun st 0x21 (fun i => insA i :: if bit (insImm i) 11 then [insB i] else []) fun h j i m =>
    let sb := m.sb st
    let c := bits (insImm i) 13 12
    m.withToken h j st (tokRef sb i) c true fun d m =>
      let m := m.tokSend j st d.st { slot := d.slot, kind := 1, val := sb.countOf (insA i), cursor := c
                                     flag := bit (insImm i) 14, job := h } (sbUnit st) 0
      (m.modSb st fun s => { s with wait := .reply }).wait (sbUnit st) { cause := 6 }

/-- TKRD. -/
def effSbTkrd (st : Nat) (m : Mach) : Mach :=
  m.sbRun st 0x23 (fun i => if bit (insImm i) 11 then [insB i] else []) fun h j i m =>
    let c := bits (insImm i) 13 12
    m.withToken h j st (tokRef (m.sb st) i) c (bit (insImm i) 14) fun d m =>
      let m := m.tokSend j st d.st { slot := d.slot, kind := 2, cursor := c, flag := bit (insImm i) 14, rd := insD i
                                     job := h } (sbUnit st) 0
      (m.modSb st fun s => s.awaitReg (insD i)).sbDone st

/-- A piece's write has taken effect: that of its last write has come. -/
def Mach.pieceWritten (m : Mach) (st h : Nat) (p : Piece) : Bool :=
  p.stage == 3 && decide (p.due ≤ (m.seenBy st h).clock st p.arc)

/-- The writes that a FENCE of a station waits for, issued before it: messages of the signal box on their way, pieces of
the engines, and remote writes (R211). -/
def Mach.fenceOpen (m : Mach) (st : Nat) (pieces : List Nat) (remote : Nat) : Bool :=
  m.senderBusy st sbBay (sbUnit st)
  || (m.dev.queues.any fun e => e.2.flight.any fun w => w.unit == sbUnit st)
  || ((List.range 8).any fun e =>
    let x := m.engine st e
    x.pieces.any fun p => p.1 < nth 0 pieces e && !m.pieceWritten st x.job p.2)
  || (m.dev.rem.any fun e => e.1 / 65536 == st && isWriteOp e.2.op && e.2.order < remote)

/-- FENCE: waits at least TK_FENCE cycles, and until every earlier write has taken effect. -/
def effSbFence (st : Nat) (m : Mach) : Mach :=
  match (m.sb st).wait with
  | .fence least pieces remote =>
    if m.sbCan st 0x22 (fun _ => []) && decide (least ≤ m.cyc st) && !m.fenceOpen st pieces remote then
      (m.modSb st fun s => { s with wait := .none }).sbWaited st
    else m
  | _ =>
    m.sbRun st 0x22 (fun _ => []) fun _ j _ m =>
      (m.modSb st fun s => { s with
        wait := .fence (m.cyc st + m.lat j Config.tkFence)
          ((List.range 8).map fun e => (m.engine st e).pieceNext) m.dev.remNext }).noteLate (sbUnit st) j Config.tkFence
            (m.lat j Config.tkFence) |>.wait (sbUnit st) { cause := 6 }

/-- WAITER_WAKE: a token's reply reaches the signal box: a wait ends, or TKRD's register is written (R220). A wait that
ended on a POISONED slot faults its context (R215). -/
def effWaiterWake (st : Nat) (m : Mach) : Mach :=
  match m.liveJob st with
  | none => m
  | some (h, _) =>
    match leastBy Reply.due ((m.sb st).replies.filter fun r => !r.ticket && decide (r.due ≤ m.cyc st)) with
    | none => m
    | some r =>
      let m := m.modSb st fun s => { s with replies := removeFirst (· == r) s.replies }
      match r.poisoned with
      | some (t, s, owner) =>
        (m.modSb st fun x => { x with running := false, wait := .none }).fault 0x06 (sbUnit st) (some h)
          (pack [(0, 6, t), (6, 4, s), (10, 12, owner)])
      | none =>
        let m := if r.write then m.modSb st fun s => s.setReg r.rd r.val.toNat (m.cyc st) else m
        if r.wakes then (m.modSb st fun s => { s with wait := .none }).sbWaited st else m

/-! ### The ticket office (R216 to R218) -/

/-- The latency between a station and the office: that of CO_DIST_DATA with KIND 2 and DST 0. -/
def Mach.officeLatency (m : Mach) (st : Nat) : Nat := m.stnLatency st 0

/-- Sends a request to the office. It travels with the issuing station's signal box. -/
def Mach.tkoSend (m : Mach) (st : Nat) (o : TkoOp) : Mach :=
  m.modStn st fun s => { s with tkoOps := s.tkoOps ++ [{ o with st := st, due := m.cyc st + m.officeLatency st }] }

/-- TICKET. -/
def effSbTicket (st : Nat) (m : Mach) : Mach :=
  m.sbRun st 0x24 (fun i => [insA i]) fun h j i m =>
    match m.counterOf j (insImm i % 64) with
    | none => m.sbDone st
    | some k =>
      let m := m.tkoSend st { k := k, kind := 0, val := BitVec.ofNat 64 ((m.sb st).countOf (insA i)), rd := insD i, job := h }
      (m.modSb st fun s => { s with wait := .reply }).wait (sbUnit st) { cause := 6 }

/-- TKLD. -/
def effSbTkld (st : Nat) (m : Mach) : Mach :=
  m.sbRun st 0x25 (fun _ => []) fun h j i m =>
    match m.counterOf j (insImm i % 64) with
    | none => m.sbDone st
    | some k =>
      let m := m.tkoSend st { k := k, kind := 1, rd := insD i, job := h }
      (m.modSb st fun s => { s with wait := .reply }).wait (sbUnit st) { cause := 6 }

/-- TKST. -/
def effSbTkst (st : Nat) (m : Mach) : Mach :=
  m.sbRun st 0x26 (fun i => [insA i]) fun h j i m =>
    match m.counterOf j (insImm i % 64) with
    | none => m.sbDone st
    | some k =>
      (m.tkoSend st { k := k, kind := 2, val := BitVec.ofNat 64 ((m.sb st).reg (insA i)), job := h }).sbDone st

/-- TICKET_REPLY: an answer of the office reaches the issuing station and writes its register. -/
def effTicketReply (st : Nat) (m : Mach) : Mach :=
  match m.liveJob st with
  | none => m
  | some _ =>
    match leastBy Reply.due ((m.sb st).replies.filter fun r => r.ticket && decide (r.due ≤ m.cyc st)) with
    | none => m
    | some r =>
      let m := m.modSb st fun s =>
        ({ s with replies := removeFirst (· == r) s.replies, wait := .none } : SigBox).setReg r.rd r.val.toNat (m.cyc st)
      m.sbWaited st

/-! ### What the Control Office does to slots (R205 to R207, R213, R215) -/

/-- Changes every slot of a consist. -/
def Mach.modTokens (m : Mach) (c : Consist) (f : TokDecl → Token → Token) : Mach :=
  c.tokens.foldl (fun m d => m.setToken d.st d.slot (f d (m.token d.st d.slot))) m

/-- Remote waits held on a slot are dropped: they get no answer (R215). -/
def Mach.dropWaiters (m : Mach) (st t : Nat) : Mach :=
  let x := m.token st t
  let m := x.waiters.foldl
    (fun m w => match w.pkt with
      | some id => m.dropPacket id
      | none => m) m
  m.setToken st t { x with waiters := [] }

/-- The slots of a consist, of resident index i, at the start of its job (R207). A POISONED slot becomes ACTIVE too: the
job has been installed on the station again (DESIGN CHOICE, log 85). What a station reset took from the record comes back
from the declaration. -/
def Mach.tokensStart (m : Mach) (i : Nat) (c : Consist) (h : Nat) : Mach :=
  let m := c.tokens.foldl
    (fun m d => if (m.token d.st d.slot).state == .poisoned then m.dropWaiters d.st d.slot else m) m
  let m := m.modTokens c fun d x => { x with
    state := .active, owner := h, prod := d.init, cons := [0, 0, 0, 0], spread := false, wiped := false
    logical := d.logical, consist := i, cursors := d.cursors, rebase := d.rebase }
  c.counters.foldl (fun m k =>
    (m.setRaw (Reg.tkoValue k.phys) k.init.toNat).setField (Reg.tkoOwner k.phys) 31 20 h) m

/-- The slots of a consist when its job ends: they keep their counts; held waits are dropped. POISONED slots stay. A
slot that a newer job of the consist has taken is not touched. -/
def Mach.tokensEnd (m : Mach) (c : Consist) (h : Nat) : Mach :=
  let m := c.tokens.foldl
    (fun m d =>
      let x := m.token d.st d.slot
      if x.owner = h ∨ x.state = .poisoned then m.dropWaiters d.st d.slot else m) m
  let m := m.modTokens c fun _ x => if x.state == .poisoned || x.owner != h then x else { x with state := .idle }
  c.counters.foldl
    (fun m k =>
      let o := Reg.tkoOwner k.phys
      if bits (m.raw o) 31 20 = h then (m.setField o 31 20 0).setField o 13 13 0 else m) m

/-- The slots of a consist when its job is stabled. -/
def Mach.tokensStable (m : Mach) (c : Consist) : Mach :=
  let m := m.modTokens c fun _ x => if x.state == .poisoned then x else { x with state := .stabled }
  c.counters.foldl (fun m k => m.setField (Reg.tkoOwner k.phys) 13 13 1) m

/-- A restore sets the slots ACTIVE and grants the waits that are satisfied. Slots that a station reset has emptied take
their records from the saved ones, keyed by 48 × station + slot. -/
def Mach.tokensRestore (m : Mach) (c : Consist) (saved : FMap Token) : Mach :=
  let m := m.modTokens c fun d x =>
    let x := if x.wiped then { fget x saved (d.st * 48 + d.slot) with state := x.state, waiters := x.waiters } else x
    if x.state == .stabled then { x with state := .active } else x
  let m := c.counters.foldl (fun m k => m.setField (Reg.tkoOwner k.phys) 13 13 0) m
  c.tokens.foldl (fun m d => m.settleToken d.st d.slot) m

/-- A slot's record after a station reset: its fields take their Reset values, and STATE alone survives (R215, R221). The
consist's own declarations keep the assignment. -/
def Token.afterReset (x : Token) : Token :=
  { state := if x.state == .active then .poisoned else x.state, wiped := x.state == .stabled }

/-- The slots of a station at a station reset (R215, Table 8.3): an ACTIVE slot becomes POISONED, and every slot keeps no
more than its state; on-chip waiters of other stations complete as poisoned; remote waits are dropped. An IDLE slot loses
its counts too (DESIGN CHOICE, log 85). -/
def Mach.tokensReset (m : Mach) (st : Nat) : Mach :=
  (List.range 48).foldl
    (fun m t =>
      let x := m.token st t
      let m := if x.state == .active then
          x.waiters.foldl
            (fun m w =>
              if w.pkt.isNone && w.st != st then
                m.sbAnswer w.st x.owner Config.tkWake (m.wakeLatency st w.st x.owner)
                  { write := false, poisoned := some (t, st, x.owner) }
              else m) m
        else m
      let m := (m.dropWaiters st t).setToken st t x.afterReset
      if x.state == .active && bit (m.raw (Reg.tkCtrl st)) 0 then
        m.event { addr := Reg.tkCtrl st, bit := 0, info := Reg.tkSlot st t 0 }
      else m) m

/-- The slots and counters of a consist are free again. -/
def Mach.tokensFree (m : Mach) (c : Consist) : Mach :=
  let m := c.tokens.foldl (fun m d => (m.dropWaiters d.st d.slot).setToken d.st d.slot {}) m
  c.counters.foldl (fun m k => m.setRaw (Reg.tkoOwner k.phys) 0) m

/-- The cursor that lies furthest behind PROD, of the declared ones. -/
def rebaseOf (x : Token) : Nat :=
  let far := fun c => (x.prod + 2 ^ 32 - c) % 2 ^ 32
  (x.cons.take x.cursors).foldl (fun b c => if far b < far c then c else b) (nth 0 x.cons 0)

/-- The re-timing barrier at one slot (R213): the record after it, and whether SPREAD is set. -/
def rebaseToken (x : Token) : Token × Bool :=
  let b := rebaseOf x
  let sub := fun v => (v + 2 ^ 32 - b) % 2 ^ 32
  let wide := (x.cons.take x.cursors).any fun c => 2 ^ 31 ≤ (x.prod + 2 ^ 32 - c) % 2 ^ 32
  ({ x with
    prod := sub x.prod
    cons := (x.cons.take x.cursors).map sub ++ x.cons.drop x.cursors
    spread := x.spread || wide }, wide)

/-- The re-timing barrier of a consist (R213): TK_REBASES of each of its stations advances. -/
def Mach.barrier (m : Mach) (c : Consist) : Mach :=
  let m := c.tokens.foldl
    (fun m d =>
      let x := m.token d.st d.slot
      if d.rebase && (x.state == .active || x.state == .stabled) then
        let (y, wide) := rebaseToken x
        let m := m.setToken d.st d.slot y
        if wide && bit (m.raw (Reg.tkCtrl d.st)) 1 then
          m.event { addr := Reg.tkCtrl d.st, bit := 1, info := Reg.tkSlot d.st d.slot 0 }
        else m
      else m) m
  (maskBits c.stations 16).foldl (fun m st => m.count (Reg.tkRebases st) 1) m

/-! ### The slot record (Table 8.6) -/

/-- The code of a state (Table 8.1). -/
def TokState.code : TokState → Nat
  | .unassigned => 0
  | .idle => 1
  | .active => 2
  | .stabled => 3
  | .poisoned => 4

/-- Word w of the record of a slot. -/
def Mach.slotWord (m : Mach) (st t w : Nat) : Nat :=
  let x := m.token st t
  match w with
  | 0 => pack [(0, 6, t), (6, 4, st), (10, 6, x.logical), (16, 3, x.state.code), (19, 1, b2n x.spread), (20, 12, x.owner)]
  | 1 => pack [(0, 6, x.consist), (6, 2, x.cursors - 1), (8, 1, b2n x.rebase),
      (16, 16, (x.waiters.filter fun w => w.pkt.isSome).length)]
  | 2 => x.prod
  | 7 => ((x.waiters.filter fun w => w.pkt.isNone).map fun w => 2 ^ w.st).foldl (· ||| ·) 0
  | w => nth 0 x.cons (w - 3)

/-- The 32-byte record of a slot. -/
def Mach.slotRecord (m : Mach) (st t : Nat) : Bytes := (List.range 8).flatMap fun w => toLe 4 (m.slotWord st t w)

/-! ### The commands -/

def execSbSig (st : Nat) (s : State) := act .run (.sbSig st) s (effSbSig st)
def execSbWait (st : Nat) (s : State) := act .run (.sbWait st) s (effSbWait st)
def execSbFence (st : Nat) (s : State) := act .run (.sbFence st) s (effSbFence st)
def execSbTkrd (st : Nat) (s : State) := act .run (.sbTkrd st) s (effSbTkrd st)
def execSbTicket (st : Nat) (s : State) := act .run (.sbTicket st) s (effSbTicket st)
def execSbTkld (st : Nat) (s : State) := act .run (.sbTkld st) s (effSbTkld st)
def execSbTkst (st : Nat) (s : State) := act .run (.sbTkst st) s (effSbTkst st)
def execWaiterWake (st : Nat) (s : State) := act .run (.waiterWake st) s (effWaiterWake st)
def execTicketReply (st : Nat) (s : State) := act .run (.ticketReply st) s (effTicketReply st)

end Sys2Proof.Machine
end

