-- ==== Sys2Proof/Machine/Mu.lean ====
section
/-! DEFINITION. The Matrix Unit and its accumulator (chapter 02): pass descriptors, tile walking, the weight decoder,
group sums (R40 to R46, R73), the slot checks of Table 2.5, and draining. -/

namespace Sys2Proof.Machine
open Sys2Proof

/-! ### Pass descriptors (Table 2.17) -/

structure PassDesc where
  fmt : Nat
  aAlt : Bool
  wAlt : Bool
  mx : Bool
  wpath : Nat
  table : Nat
  mTiles : Nat
  slotBase : Nat
  colHalf : Bool
  walk : Nat
  initFirst : Bool
  drain : Nat
  tagBase : Nat
  kBlocks : Nat
  order : Nat
  mGroups : Nat
  nTiles : Nat
  wQueue : Option Nat
  wAddr : Nat
  aQueue : Option Nat
  aAddr : Nat
  drainQ : Nat
  next : Nat
  last : Bool
  deriving DecidableEq, Repr

/-- A count whose field 0 stands for the field's full range. -/
def orMax (x full : Nat) : Nat := if x = 0 then full else x

/-- Descriptor i of a bay's active plane. -/
def Mach.passDesc (m : Mach) (st b i : Nat) : PassDesc :=
  let w := fun k => m.muWord st b (0x400 + 32 * i + 4 * k)
  { fmt := bits (w 0) 2 0, aAlt := bit (w 0) 3, wAlt := bit (w 0) 4, mx := bit (w 0) 5, wpath := bits (w 0) 9 6
    table := bits (w 0) 12 10, mTiles := orMax (bits (w 0) 16 13) 16, slotBase := bits (w 0) 24 17
    colHalf := bit (w 0) 25, walk := bits (w 0) 27 26, initFirst := bit (w 0) 28, drain := bits (w 0) 30 29
    tagBase := bits (w 1) 23 0, kBlocks := orMax (bits (w 2) 11 0) 4096, order := bits (w 2) 15 12
    mGroups := orMax (bits (w 3) 11 0) 4096, nTiles := orMax (bits (w 3) 23 12) 4096
    wQueue := if bit (w 4) 0 then some (bits (w 4) 31 20) else none, wAddr := bits (w 4) 19 6 * 64
    aQueue := if bit (w 5) 0 then some (bits (w 5) 31 20) else none, aAddr := bits (w 5) 19 6 * 64
    drainQ := bits (w 6) 11 0, next := bits (w 7) 4 0, last := bit (w 7) 8 }

/-- K values of a row and columns of the array (Table 2.1). -/
def PassDesc.rowK (d : PassDesc) : Nat := if d.fmt < 2 then 32 else 16
def PassDesc.cols (d : PassDesc) : Nat := if d.fmt = 4 then 32 else 64
/-- An INT32 update (R49). -/
def PassDesc.int (d : PassDesc) : Bool := d.fmt == 1 || d.fmt == 3
/-- The TYPE codes of the array's activations and weights. -/
def arrayType (fmt : Nat) (alt : Bool) : Nat :=
  match fmt with
  | 0 => tyE2m1
  | 1 => tyI4
  | 2 => if alt then tyE5m2 else tyE4m3
  | 3 => tyI8
  | _ => if alt then tyF16 else tyBf16
/-- The activation row record A (R56). -/
def PassDesc.record (d : PassDesc) : Nat := if d.mx || d.fmt == 4 then 32 else 16

/-- Bytes of packed values in a stored block. -/
def PassDesc.packed (d : PassDesc) : Nat :=
  match d.wpath with
  | 0 => 1024
  | 2 => 16 * d.cols / 4
  | 4 => 16 * d.cols / 4
  | 6 => 16 * d.cols / 4
  | _ => 16 * d.cols / 2

/-- The stored block S (Table 2.2). -/
def PassDesc.stored (d : PassDesc) : Nat :=
  d.packed + (if d.wpath = 3 ∨ d.wpath = 4 then 3 * d.cols else 0) + (if d.mx then 64 else 0)

/-- Whether the weight path has the decoder's latency. -/
def PassDesc.decoded (d : PassDesc) : Bool := 1 ≤ d.wpath && d.wpath ≤ 4

/-- The address of weight block (n, kb) and of row r of group g for K-block kb (R56). -/
def PassDesc.blockAddr (d : PassDesc) (n kb : Nat) : Nat := d.wAddr + (n * d.kBlocks + kb) * d.stored
def PassDesc.rowAddr (d : PassDesc) (g kb r : Nat) : Nat :=
  d.aAddr + ((16 * d.mTiles * g + r) * d.kBlocks + kb) * d.record

/-! ### Tile walking (R55, R60) -/

/-- The Hilbert walk: walk index to (g, n) on a grid of 2^order. -/
def hilbertGo : Nat → Nat → Nat → Nat → Nat → Nat × Nat
  | 0, _, _, g, n => (g, n)
  | k + 1, t, s, g, n =>
    let rg := t / 2 % 2
    let rn := (t % 2 + rg) % 2
    let (g, n) :=
      if rn = 0 then (if rg = 1 then (s - 1 - n, s - 1 - g) else (n, g)) else (g, n)
    hilbertGo k (t / 4) (2 * s) (g + s * rg) (n + s * rn)
def hilbert (order d : Nat) : Nat × Nat := hilbertGo order d 1 0 0

/-- The first walk index from d on that lies in the grid. -/
def hilbertFrom (order mg nt : Nat) : Nat → Nat → Option (Nat × Nat × Nat)
  | 0, _ => none
  | k + 1, d =>
    let (g, n) := hilbert order d
    if g < mg && n < nt then some (d, g, n) else hilbertFrom order mg nt k (d + 1)

/-- The visit after a walk index: index, g and n; none when the walk is over. -/
def PassDesc.nextVisit (d : PassDesc) (walk : Nat) : Option (Nat × Nat × Nat) :=
  match d.walk with
  | 0 => none
  | 1 => if walk + 1 < d.mGroups * d.nTiles then some (walk + 1, (walk + 1) / d.nTiles, (walk + 1) % d.nTiles) else none
  | _ => hilbertFrom d.order d.mGroups d.nTiles (4 ^ d.order - (walk + 1)) (walk + 1)

/-! ### The weight decoder (R36 to R38) -/

/-- Elements of w bits, packed from bit 0 of byte 0 upward. -/
def unpackBits (w n : Nat) (b : Bytes) : List Nat :=
  (List.range n).map fun i => leNat b (i * w / 8) ((w + 7) / 8) / 2 ^ (i * w % 8) % 2 ^ w

/-- The target code of a format for the conversion of Operands.lean. -/
def targetOf (ty : Nat) : Nat :=
  match ty with
  | 4 => 1
  | 5 => 2
  | 2 => 3
  | 3 => 4
  | _ => 0

/-- A stored weight block as the shadow plane holds it, and the results that were clamped (R37, R38). -/
def decodeBlock (d : PassDesc) (tab : List Nat) (b : Bytes) : WBlock × Nat :=
  let wt := arrayType d.fmt d.wAlt
  let n := 16 * d.cols
  let (codes, sats) : List Nat × Nat :=
    match d.wpath with
    | 0 => (unpackBits (elemBits wt) (d.rowK * d.cols) b, 0)
    | 1 => ((unpackBits 4 n b).map fun q => nth 0 tab q, 0)
    | 2 => ((unpackBits 2 n b).map fun q => nth 0 tab q, 0)
    | 5 => ((unpackBits 4 n b).map fun q => ofSigned 8 (toSigned 4 q), 0)
    | 6 => ((unpackBits 2 n b).map fun q => ofSigned 8 (toSigned 2 q), 0)
    | 7 => ((unpackBits 4 n b).map fun q =>
        (convertShort (targetOf wt) true 0 (widenElem false tyE2m1 q).1 (.fin false 1 0)).code, 0)
    | _ =>
      let qs := unpackBits (if d.wpath = 3 then 4 else 2) n b
      let rs := (qs.zip (List.range n)).map fun p =>
        let c := p.2 % d.cols
        let s := bf16.decode (leNat b (d.packed + 2 * c) 2)
        let z := toSigned 8 (leNat b (d.packed + 2 * d.cols + c) 1)
        convertShort (targetOf wt) true 0 (f32.ofInt 0 ((p.1 : Int) - z)).1 s
      (rs.map (·.code), (rs.filter (·.sat)).length)
  let off := if d.wpath = 7 then 512 else 1024
  ({ codes := codes, scales := if d.mx then (List.range 64).map fun c => leNat b (off + c) 1 else [] }, sats)

/-- The decode table of a descriptor. -/
def Mach.decTable (m : Mach) (st b t : Nat) : List Nat :=
  (List.range 16).map fun i => bits (m.muWord st b (0x80 + 16 * t + 4 * (i / 4))) (8 * (i % 4) + 7) (8 * (i % 4))

/-! ### Group sums (R40, R41, R43, R44, R73)

A group sum is a kind with an integer and an exponent: 0 the finite value int × 2^exp, 1 and 2 the infinities, 3 NaN. -/

abbrev GroupSum := Nat × Int × Int

/-- The group sum of exact products: special values first, then the 30-bit window. -/
def groupSum (ps : List (Option Num)) : GroupSum :=
  let nan := ps.any fun p => match p with
    | none => true
    | some x => x.isNan
  let pos := ps.any fun p => p == some (.inf false)
  let neg := ps.any fun p => p == some (.inf true)
  if nan || (pos && neg) then (3, 0, 0)
  else if pos then (1, 0, 0)
  else if neg then (2, 0, 0)
  else
    let fins := ps.filterMap fun p => match p with
      | some (.fin s k e) => if k = 0 then none else some (signedM s k, leadExp k e, e)
      | _ => none
    match fins with
    | [] => (0, 0, 0)
    | x :: xs =>
      let u := (xs.foldl (fun a y => max a y.2.1) x.2.1) - 24
      let floors := fins.map fun y => if u ≤ y.2.2 then y.1 * 2 ^ (y.2.2 - u).toNat else y.1 / 2 ^ (u - y.2.2).toNat
      (0, floors.foldl (· + ·) 0, u)

/-- A group sum under MX scales of codes a and w (R41). -/
def scaleSum (s : GroupSum) (a w : Nat) : GroupSum :=
  if a = 255 ∨ w = 255 then (3, 0, 0)
  else if s.1 = 0 then (0, s.2.1, s.2.2 + (a : Int) + w - 254)
  else s

/-- A group sum as a number. -/
def sumNum (s : GroupSum) : Num :=
  match s.1 with
  | 0 => .fin (decide (s.2.1 < 0)) s.2.1.natAbs s.2.2
  | 1 => .inf false
  | 2 => .inf true
  | _ => .nan false false 0

/-- The groups of one row: for each group, the sums of the columns. -/
def rowGroups (d : PassDesc) (w : WBlock) (record : Bytes) (valid : Bool) : List (List GroupSum) :=
  let at_ := arrayType d.fmt d.aAlt
  let wt := arrayType d.fmt d.wAlt
  let acts := unpackBits (elemBits at_) d.rowK record
  (List.range (d.rowK / 16)).map fun gi =>
    (List.range d.cols).map fun c =>
      let ks := (List.range 16).map fun k => 16 * gi + k
      if d.int then
        let sum := ks.foldl
          (fun acc k => acc + toSigned (elemBits at_) (nth 0 acts k) * toSigned (elemBits wt) (nth 0 w.codes (k * d.cols + c)))
          (0 : Int)
        (0, if valid then sum else 0, 0)
      else
        let ps := ks.map fun k =>
          if valid then exactMul (elemValue at_ (nth 0 acts k)) (elemValue wt (nth 0 w.codes (k * d.cols + c)))
          else some (.fin false 0 0)
        let s := groupSum ps
        if d.mx then scaleSum s (leNat record 16 1) (nth 0 w.scales c) else s

/-- Adds a group sum to an element: the result, and whether an INT32 element saturated (R42 to R44). -/
def addGroup (int : Bool) (x : Nat) (s : GroupSum) : Nat × Bool :=
  if int then
    let v := toSigned 32 x + s.2.1
    if v < -(2 ^ 31 : Int) then (2 ^ 31, true)
    else if v ≥ 2 ^ 31 then (2 ^ 31 - 1, true)
    else (ofSigned 32 v, false)
  else ((f32.sum 0 (f32.decode x) (sumNum s)).1, false)

/-! ### The unit -/

def muUnit (st b : Nat) (sub : Nat := 0) : UnitRef := { cls := 0, st := st, bay := b, sub := sub }

/-- Changes an MU. -/
def Mach.modMu (m : Mach) (st b : Nat) (f : Mu → Mu) : Mach := m.setMu st b (f (m.muOf st b))

/-- The unit stops after ACC_ALIAS or ECC_UNCORR (R50, R52): the rows behind the offending update are discarded. -/
def Mach.muStop (m : Mach) (st b : Nat) : Mach :=
  (m.modMu st b fun u => { u with run := none, faulted := true, pipe := [], initWait := false, load := none, ended := false }).unwaitAll (muUnit st b)

/-- Results clamped or saturated: counted, and the first of a job sends the event that MU_CTRL enables. -/
def Mach.muSat (m : Mach) (st b n : Nat) : Mach :=
  if n = 0 then m
  else
    let m := m.stat (Reg.muSat st b) n
    if bit (m.muWord st b 0) 1 && !(m.muOf st b).satSeen then
      (m.modMu st b fun u => { u with satSeen := true }).event
        { addr := Reg.muCtrl st b, bit := 1, info := m.raw (Reg.muSat st b) % 2 ^ 32 }
    else m

/-- The next weight block of the list after the one that the load pointers name. -/
def Mach.muNextBlock (m : Mach) (st b : Nat) (r : MuRun) : MuRun :=
  let d := m.passDesc st b r.ldDesc
  if r.ldKb + 1 < d.kBlocks then { r with ldKb := r.ldKb + 1 }
  else
    match d.nextVisit r.ldWalk with
    | some (w, _, n) => { r with ldWalk := w, ldN := n, ldKb := 0 }
    | none => if d.last then { r with ldDone := true } else { r with ldDesc := d.next, ldWalk := 0, ldN := 0, ldKb := 0 }

/-- A load that has its bytes and its time goes to the shadow plane, and the shadow plane becomes active once the pass
before has issued its last row (R34). -/
def Mach.muSettle (m : Mach) (st b : Nat) : Mach :=
  let u := m.muOf st b
  match u.run with
  | none => m
  | some r =>
    let cyc := m.cyc st
    let m := match u.load with
      | some l =>
        if l.bytes.length = l.need && l.ready ≤ cyc && u.shadow.isNone then
          let d := m.passDesc st b r.ldDesc
          let (w, sats) := decodeBlock d (m.decTable st b d.table) l.bytes
          let m := m.modMu st b fun u => { u with
            load := none, shadow := some w, run := some { m.muNextBlock st b r with ldLate := false, ldRaised := false } }
          let m := match l.late, m.stnJob st with
            | some q, some (h, _) => m.clearStall h (muUnit st b) q
            | _, _ => m
          (m.unwaitAt (waitSlot (muUnit st b) 2)).muSat st b sats
        else m
      | none => m
    let u := m.muOf st b
    if u.active.isNone && u.shadow.isSome && r.next ≤ cyc then
      m.modMu st b fun u => { u with active := u.shadow, shadow := none }
    else m

/-- The rows of an MU are held by their weights: the time of the next has come and no plane is active. -/
def Mu.needsWeights (u : Mu) (cyc : Nat) : Bool :=
  u.active.isNone && match u.run with
    | some r => !u.ended && decide (r.next ≤ cyc)
    | none => false

/-- The MU stalls for a block whose load a late queue put off: it waits under "operand", or by the queue's LATE field, and
raises one stall request for the block (R35). -/
def Mach.muLate (m : Mach) (h st b q : Nat) : Mach :=
  let late := m.qLate st q
  let cause := if late = 1 then 4 else if late = 2 then 5 else 0
  let m := m.waitAt (waitSlot (muUnit st b) 2) { cause := cause, empty := some (queueKey st q) }
  match (m.muOf st b).run with
  | some r => if r.ldRaised then m
    else (m.raiseStall h (muUnit st b) q cause).modMu st b fun u => { u with run := some { r with ldRaised := true } }
  | none => m

/-- Begins the load of the next block, if the shadow plane is free: the lines of a slab block are requested one per
cycle; a queue block must be readable whole, and one that is not holds the rows once they need it (R34, R35, R455). -/
def Mach.muLoad (m : Mach) (h : Nat) (j : Job) (st b : Nat) : Mach :=
  let u := m.muOf st b
  match u.run with
  | none => m
  | some r =>
    if u.faulted || r.ldDone || u.load.isSome || u.shadow.isSome then m
    else
      let d := m.passDesc st b r.ldDesc
      let cyc := m.cyc st
      let lead := m.lat j Config.muWload + (if d.decoded then m.lat j Config.muDecode else 0)
      let late := m.lateOf j Config.muWload + (if d.decoded then m.lateOf j Config.muDecode else 0)
      match d.wQueue with
      | none =>
        let a := d.blockAddr r.ldN r.ldKb
        let n := (a + d.stored - 1) / 128 - a / 128 + 1
        let m := (List.range n).foldl
          (fun m i => m.slabPost st b { order := 2, sub := 0, user := .muWeight, addr := (a / 128 + i) * 128, due := cyc + i })
          m
        let m := m.modMu st b fun u => { u with load := some { need := d.stored, ready := cyc + lead } }
        m.noteResult (muUnit st b) late (cyc + lead)
      | some q =>
        match m.take st q with
        | (some (bs, _), m) =>
          let (bs, m) := m.fixLength st d.stored bs
          let m := (m.clearStall h (muUnit st b) q).noteResult (muUnit st b) late (cyc + lead)
          m.modMu st b fun u => { u with
            load := some { bytes := bs, need := d.stored, ready := cyc + lead, late := if r.ldLate then some q else none } }
        | (none, m) =>
          if m.headAbsent st q = false then m
          else
            let m := m.modMu st b fun u => { u with run := u.run.map fun r => { r with ldLate := true } }
            if u.needsWeights cyc then (m.modQueue st q fun x => { x with want := 0 }).muLate h st b q else m

/-- MU_START: a start reaches the MU, which runs its list from the descriptor (R57, R58). -/
def effMuStart (st b : Nat) (m : Mach) : Mach :=
  match m.liveJob st with
  | none => m
  | some (_, j) =>
    if (m.muOf st b).run.isSome || (m.muOf st b).faulted then m
    else
      match m.takeStart st 0 b with
      | (none, m) => m
      | (some x, m) =>
        let d := m.passDesc st b x.idx
        let lead := m.lat j Config.muWload + (if d.decoded then m.lat j Config.muDecode else 0)
        (m.modMu st b fun u => { u with
          run := some { desc := x.idx, ldDesc := x.idx, next := m.cyc st + lead }, curDesc := x.idx, active := none
          shadow := none, load := none, actLine := none, actRec := none, ended := false }).work st

/-- WEIGHT_BLOCK_LOAD. -/
def effWeightBlockLoad (st b : Nat) (m : Mach) : Mach :=
  match m.liveJob st with
  | none => m
  | some (h, j) => (m.muSettle st b).muLoad h j st b

/-- Asks for the line or the message that the next row reads, where it does not have it (R455). -/
def Mach.muAskRow (m : Mach) (h : Nat) (st b : Nat) : Mach :=
  let u := m.muOf st b
  match u.run with
  | none => m
  | some r =>
    let cyc := m.cyc st
    let d := m.passDesc st b r.desc
    let weights := u.active.isSome || u.shadow.isSome || (match u.load with
      | some l => l.bytes.length == l.need && decide (l.ready ≤ cyc + 1)
      | none => false)
    if u.ended || u.faulted || u.initWait || r.next > cyc + 1 || !weights then m
    else
      match d.aQueue with
      | none =>
        let line := d.rowAddr r.g r.kb r.row / 128 * 128
        let held := (u.actLine.map (·.1)) == some line
        let asked := (m.portOf st b).reqs.any fun q => q.user == .muAct
        if held || asked then m
        else m.slabPost st b { order := 2, sub := 1, user := .muAct, addr := line, due := max cyc (r.next - 1) }
      | some q =>
        if u.actRec.isSome || r.next > cyc then m
        else
          match m.take st q with
          | (some (bs, v), m) =>
            let (bs, m) := m.fixLength st d.record bs
            ((m.clearStall h (muUnit st b) q).unwait (muUnit st b)).modMu st b fun u => { u with actRec := some (bs, v) }
          | (none, m) => m.waitQueue h (muUnit st b) q true

/-- The record of the next row, if it has come. -/
def Mach.muRecord (m : Mach) (st b : Nat) (d : PassDesc) (r : MuRun) : Option (Bytes × Bool) :=
  let u := m.muOf st b
  match d.aQueue with
  | some _ => u.actRec
  | none =>
    let a := d.rowAddr r.g r.kb r.row
    match u.actLine with
    | some (l, bs) => if l = a / 128 * 128 then some (slice bs (a % 128) d.record, true) else none
    | none => none

/-- The place after a row: the next row, K-block, visit or descriptor; none when the list has issued its last row. -/
def Mach.muAdvance (m : Mach) (st : Nat) (d : PassDesc) (r : MuRun) : Option MuRun :=
  let next := m.cyc st + 1
  if r.row + 1 < 16 * d.mTiles then some { r with row := r.row + 1, next := next }
  else if r.kb + 1 < d.kBlocks then some { r with row := 0, kb := r.kb + 1, next := next }
  else
    match d.nextVisit r.walk with
    | some (w, g, n) => some { r with row := 0, kb := 0, walk := w, g := g, n := n, next := next }
    | none =>
      if d.last then none
      else some { r with desc := d.next, row := 0, kb := 0, walk := 0, g := 0, n := 0, next := next }

/-- ROW_ISSUE: the next row issues, once its weights and its record are there; otherwise the MU asks for them, or waits
(R34, R35, R46, R58). -/
def effRowIssue (st b : Nat) (m : Mach) : Mach :=
  match m.liveJob st with
  | none => m
  | some (h, j) =>
    let m := (m.muSettle st b).muAskRow h st b
    let u := m.muOf st b
    match u.run, u.active with
    | some r, some w =>
      let cyc := m.cyc st
      let d := m.passDesc st b r.desc
      if u.ended || u.faulted || u.initWait || decide (cyc < r.next) then m
      else
        match m.muRecord st b d r with
        | none => m
        | some (rec, valid) =>
          let i := r.row / 16
          let passEnd := r.row + 1 == 16 * d.mTiles
          let lastK := r.kb + 1 == d.kBlocks
          let adv := m.muAdvance st d r
          let row : MuRow :=
            { due := cyc + m.lat j Config.muPipe, slot := (d.slotBase + i) % 16
              tag := (d.tagBase + 65536 * r.n + 16 * r.g + i) % 2 ^ 24, int := d.int
              isInit := d.initFirst && r.kb == 0, first := r.row % 16 == 0, last := r.row % 16 == 15
              rowInTile := r.row % 16, colBase := if d.fmt == 4 && d.colHalf then 32 else 0
              groups := rowGroups d w rec valid
              drain := if lastK then d.drain else 0, drainQ := d.drainQ, passEnd := passEnd }
          let m := m.modMu st b fun u => { u with
            pipe := u.pipe ++ [row], actRec := none, actLine := if passEnd then none else u.actLine
            active := if passEnd then none else u.active, ended := adv.isNone
            run := some (adv.getD { r with next := cyc + 1 }), curDesc := (adv.map (·.desc)).getD r.desc }
          let m := m.noteLate (muUnit st b) j Config.muPipe (m.lat j Config.muPipe)
          let m := m.count (Reg.muIssueCyc st b) 1
          ((m.unwait (muUnit st b)).muAskRow h st b).work st
    | some r, none =>
      -- the weights are not there: a block that a late queue puts off stalls the MU
      if u.ended || u.faulted || decide (m.cyc st < r.next) then m
      else if u.load.isNone && u.shadow.isNone then m.muLoad h j st b
      else match u.load.bind (·.late) with
        | some q => m.muLate h st b q
        | none => m
    | none, _ => m

/-! ### The accumulator (R47 to R53) -/

/-- The slot record s of an MU. -/
def Mu.slot (u : Mu) (s : Nat) : Slot := fget {} u.slots s
/-- A slot as it stands in a consist cycle: DRAINING from the cycle after its tile's last update, FREE in the cycle after its
last drain cycle (R51). -/
def Mu.slotAt (u : Mu) (cyc s : Nat) : Slot :=
  match u.drains.find? fun d => d.slot == s with
  | none => u.slot s
  | some d =>
    if d.row = 16 ∧ d.next ≤ cyc then {}
    else if d.start ≤ cyc then { u.slot s with state := .draining }
    else u.slot s

/-- The key of an element. -/
def accKey (slot row col : Nat) : Nat := slot * 1024 + row * 64 + col

/-- Reads elements through their code: corrected ones are written back and counted; answers whether one is
uncorrectable (R52). -/
def Mach.accCheck (m : Mach) (st b : Nat) (keys : List Nat) : Bool × Mach :=
  keys.foldl
    (fun (acc : Bool × Mach) k =>
      match ffind (acc.2.muOf st b).accErr k with
      | none => acc
      | some 1 =>
        let m := acc.2.modMu st b fun u => { u with accErr := fdel u.accErr k }
        let m := m.stat (Reg.muCe st b) 1
        (acc.1, if bit (m.muWord st b 0) 0 then
            m.event { addr := Reg.muCtrl st b, bit := 0, info := m.raw (Reg.muCe st b) % 2 ^ 32 }
          else m)
      | some _ => (true, acc.2))
    (false, m)

/-- ACC_ALIAS (R50): 0 MISMATCH, 1 UNCLAIMED, 2 REINIT, 3 TYPE, 4 LATE. -/
def Mach.accAlias (m : Mach) (h st b : Nat) (row : MuRow) (cause occupant : Nat) : Mach :=
  let m := m.muStop st b
  let m := m.setRaw (Reg.muAlias st b) (pack [(0, 4, row.slot), (4, 3, cause), (7, 1, 1), (8, 24, row.tag)])
  m.fault 2 (muUnit st b row.slot) (some h) (row.tag + occupant * 2 ^ 24)

/-- Whether a slot is FREE for its update, after a drain that ends in this cycle (R51). -/
def Mach.muFreeDrained (m : Mach) (st b : Nat) : Mach :=
  let u := m.muOf st b
  match u.drains with
  | d :: rest =>
    if d.row = 16 ∧ d.next ≤ m.cyc st then
      let u := { u with
        slots := fput u.slots d.slot {}
        acc := fkeep u.acc fun k => k / 1024 != d.slot
        accErr := fkeep u.accErr fun k => k / 1024 != d.slot
        drains := match rest with
          | e :: es => { e with next := max e.next d.next } :: es
          | [] => [] }
      m.setMu st b u
    else m
  | [] => m

/-- The MU reports completion once its list has ended and its last write is made (R57, R211). -/
def Mach.muFinish (m : Mach) (j : Job) (st b : Nat) : Mach :=
  let u := m.muOf st b
  let flying := m.dev.queues.any fun e => e.2.flight.any fun w => w.unit == muUnit st b
  if u.ended && u.pipe.isEmpty && u.drains.isEmpty && !(m.senderBusy st b (muUnit st b)) && !flying then
    let m := m.modMu st b fun u => { u with run := none, ended := false, active := none, shadow := none, load := none }
    m.unitDone j st 0 b Config.sbDone
  else m

/-- Adds a row's groups to the elements it covers, and starts the tile's drain after its last row. -/
def Mach.accAdd (m : Mach) (h : Nat) (j : Job) (st b : Nat) (row : MuRow) : Mach :=
  let cols := ((row.groups.head?).getD []).length
  let keys := (List.range cols).map fun c => accKey row.slot row.rowInTile (row.colBase + c)
  let (bad, m) := m.accCheck st b keys
  if bad then (m.muStop st b).fault 1 (muUnit st b row.slot) (some h) 0
  else
    let u := m.muOf st b
    let (acc, sats) := (List.range cols).foldl
      (fun (a : FMap W32 × Nat) c =>
        let k := accKey row.slot row.rowInTile (row.colBase + c)
        let r := row.groups.foldl
          (fun (x : Nat × Nat) g => let y := addGroup row.int x.1 (nth (0, 0, 0) g c); (y.1, x.2 + b2n y.2))
          ((fget 0 a.1 k).toNat, 0)
        (fput a.1 k (BitVec.ofNat 32 r.1), a.2 + b2n (decide (0 < r.2))))
      (u.acc, 0)
    let cyc := m.cyc st
    let drain := row.last && row.drain != 0
    let m := m.setMu st b { u with
      acc := acc
      drains := if drain then
          u.drains ++ [{ slot := row.slot, mode := row.drain, queue := row.drainQ, start := cyc + 1, next := cyc + 1 }]
        else u.drains }
    let m := m.muSat st b sats
    let m := if row.passEnd then m.count (Reg.muPassDone st b) 1 else m
    (m.muFinish j st b).work st

/-- ACCUMULATOR_UPDATE: the row that reaches the accumulator. A tile's first row is checked against its slot under Table
2.5; an INIT that meets a DRAINING slot waits, and every row in the pipeline waits with it (R49). -/
def effAccumulatorUpdate (st b : Nat) (m : Mach) : Mach :=
  match m.liveJob st with
  | none => m
  | some (h, j) =>
    let m := m.muFreeDrained st b
    let u := m.muOf st b
    let cyc := m.cyc st
    match u.pipe with
    | [] => m.muFinish j st b
    | row :: rest =>
      if cyc < row.due then m
      else
        let s := u.slotAt cyc row.slot
        let proceed := fun (m : Mach) (claim : Bool) =>
          let m := m.modMu st b fun u => { u with
            pipe := rest.map fun x => { x with due := x.due + (cyc - row.due) }
            initWait := false
            run := if u.initWait then u.run.map fun r => { r with next := max r.next (cyc + 1) } else u.run
            slots := if claim then fput u.slots row.slot { state := .live, tag := row.tag, int := row.int } else u.slots
            acc := if claim then fkeep u.acc fun k => k / 1024 != row.slot else u.acc
            accErr := if claim then fkeep u.accErr fun k => k / 1024 != row.slot else u.accErr }
          (if u.initWait then m.unwait (muUnit st b) else m).accAdd h j st b row
        if row.first = false then proceed m false
        else if row.isInit then
          match s.state with
          | .free => proceed m true
          | .live => m.accAlias h st b row (if s.tag = row.tag then 2 else 0) s.tag
          | .draining =>
            (m.modMu st b fun u => { u with initWait := true }).wait (muUnit st b) { cause := 2 }
        else
          match s.state with
          | .free => m.accAlias h st b row 1 0
          | .live =>
            if s.tag ≠ row.tag then m.accAlias h st b row 0 s.tag
            else if s.int ≠ row.int then m.accAlias h st b row 3 s.tag
            else proceed m false
          | .draining => m.accAlias h st b row 4 s.tag

/-- The vector unit and the compartment of a bay (R89, R104). -/
def vuOfBay (b : Nat) : Nat := 2 * (b / 16) + b % 16 / 8

/-- SLOT_DRAIN: the slot at the front drains its next row; a slot whose rows have left becomes FREE in the cycle after
(R51). -/
def effSlotDrain (st b : Nat) (m : Mach) : Mach :=
  match m.liveJob st with
  | none => m
  | some (h, j) =>
    let m := m.muFreeDrained st b
    let u := m.muOf st b
    let cyc := m.cyc st
    match u.drains with
    | [] => m.muFinish j st b
    | d :: rest =>
      if cyc < d.next ∨ d.row = 16 then m
      else
        let v := vuOfBay b
        let comp := fget [] (m.vuOf st v).comps (b % 8)
        let full := if d.mode = 1 then decide (32 ≤ comp.length) || m.bayPlane st b != m.vuPlane st v
          else m.senderBlocked st b (muUnit st b)
        if full then (if d.mode = 1 then m.waitAt (waitSlot (muUnit st b) 1) { cause := 2 } else m)
        else
          let keys := (List.range 64).map fun c => accKey d.slot d.row c
          let (bad, m) := m.accCheck st b keys
          if bad then (m.muStop st b).fault 1 (muUnit st b d.slot) (some h) 0
          else
            let u := m.muOf st b
            let s := u.slot d.slot
            let elems := keys.map fun k => fget 0 u.acc k
            let m := if d.mode = 1 then
                let x := m.vuOf st v
                let comp := comp ++ [{ tag := s.tag, int := s.int, elems := elems, ready := cyc + 2 }]
                m.setVu st v { x with comps := fput x.comps (b % 8) comp }
              else
                match m.routeOf st b d.queue with
                | some r => m.sendMessage st b r (muUnit st b) (elems.flatMap fun e => toLe 4 e.toNat) true
                | none => m
            -- the sixteen rows take MU_DRAIN cycles in all
            let next := if d.row = 15 then cyc + 1 + (m.lat j Config.muDrain - 16) else cyc + 1
            let m := if d.row = 15 then m.noteResult (muUnit st b) (m.lateOf j Config.muDrain) next else m
            let m := m.modMu st b fun u => { u with drains := { d with row := d.row + 1, next := next } :: rest }
            (m.unwaitAt (waitSlot (muUnit st b) 1)).work st

/-! ### Lines from the slab port -/

/-- A slab line that the MU asked for has been read; an uncorrectable word stops the MU (R122). -/
def Mach.muLine (m : Mach) (h st b : Nat) (user : PortUser) (addr : Nat) (data : Bytes) (bad : Option Nat) : Mach :=
  match bad with
  | some a => (m.muStop st b).fault 1 (muUnit st b) (some h) a
  | none =>
    let u := m.muOf st b
    match user, u.run with
    | .muAct, some r => m.setMu st b { u with
        actLine := some (addr, data), run := some { r with next := max r.next (m.cyc st + 1) } }
    | .muWeight, some r =>
      match u.load with
      | some l =>
        let d := m.passDesc st b r.ldDesc
        let a := d.blockAddr r.ldN r.ldKb
        let lo := max addr a
        let hi := min (addr + 128) (a + d.stored)
        m.setMu st b { u with load := some { l with
          bytes := l.bytes ++ slice data (lo - addr) (hi - lo)
          ready := max l.ready (if l.bytes.length + (hi - lo) = l.need then m.cyc st + 1 else 0) } }
      | none => m
    | _, _ => m

/-- Whether an MU of a station now wants the message at the head of a queue; it reads it (QUEUE_READ). -/
def Mach.muReads (m : Mach) (h : Nat) (j : Job) (st q : Nat) : Option Mach :=
  (m.dev.mu.filter fun e => e.1 / 256 == st).findSome? fun e =>
    let b := e.1 % 256
    match e.2.run with
    | none => none
    | some r =>
      if !r.ldDone && e.2.load.isNone && e.2.shadow.isNone && (m.passDesc st b r.ldDesc).wQueue == some q then
        some (m.muLoad h j st b)
      else if !e.2.ended && e.2.actRec.isNone && (m.passDesc st b r.desc).aQueue == some q then some (m.muAskRow h st b)
      else none

/-- What is left of an MU when its job has gone (R327, R387): it stops; the accumulator stays as it stands. -/
def Mach.muHalt (m : Mach) (st b : Nat) : Mach :=
  m.modMu st b fun u => { u with run := none, load := none, shadow := none, active := none, pipe := [], initWait := false,
                                 actLine := none, actRec := none, drains := [], ended := false, satSeen := false }

/-! ### The commands -/

def execMuStart (st b : Nat) (s : State) := act .run (.muStart st b) s fun m =>
  m.inBay st b (effMuStart st b)
def execWeightBlockLoad (st b : Nat) (s : State) := act .run (.weightBlockLoad st b) s fun m =>
  m.inBay st b (effWeightBlockLoad st b)
def execRowIssue (st b : Nat) (s : State) := act .run (.rowIssue st b) s fun m =>
  m.inBay st b (effRowIssue st b)
def execAccumulatorUpdate (st b : Nat) (s : State) := act .run (.accumulatorUpdate st b) s fun m =>
  m.inBay st b (effAccumulatorUpdate st b)
def execSlotDrain (st b : Nat) (s : State) := act .run (.slotDrain st b) s fun m =>
  m.inBay st b (effSlotDrain st b)

end Sys2Proof.Machine
end

