-- ==== Sys2Proof/Machine/Vu.lean ====
section
/-! DEFINITION. The vector units (chapter 04, and R78 to R85 of chapter 03): streams, rates, issue, element operations,
reductions, conversions, and the writes that leave in instruction order. -/

namespace Sys2Proof.Machine
open Sys2Proof

/-! ### Descriptors and instructions (Tables 4.10 and 4.11) -/

structure StreamDesc where
  kind : Nat
  ty : Nat
  bay : Nat
  width : Nat
  bcast : Bool
  addr : Nat
  queue : Nat
  inner : Nat
  outer : Nat
  outer2 : Nat
  rowStride : Nat
  planeStride : Nat
  deriving DecidableEq, Repr

/-- Stream descriptor i of a vector unit's active plane. -/
def Mach.streamDesc (m : Mach) (st v i : Nat) : StreamDesc :=
  let w := fun k => m.vuWord st v (0x400 + 16 * i + 4 * k)
  { kind := bits (w 0) 1 0, ty := bits (w 0) 5 2, bay := bits (w 0) 8 6, width := 2 ^ bits (w 0) 10 9
    bcast := bit (w 0) 11, addr := bits (w 1) 19 0, queue := bits (w 1) 31 20
    inner := orMax (bits (w 2) 11 0) 4096, outer := orMax (bits (w 2) 23 12) 4096
    outer2 := orMax (bits (w 2) 31 24) 256, rowStride := bits (w 3) 15 0 * 16, planeStride := bits (w 3) 31 16 * 16 }

structure VuInst where
  op : Nat
  rnd : Nat
  f64 : Bool
  sat : Bool
  amaxEn : Bool
  amaxSel : Nat
  amaxClr : Bool
  target : Nat
  fsrc : Nat
  scaleMode : Nat
  wait : Bool
  last : Bool
  dst : Nat
  srcA : Nat
  srcB : Nat
  srcC : Nat
  mask : Nat
  red : Nat
  imm : Nat
  deriving DecidableEq, Repr

/-- Instruction j of a vector unit's active plane. -/
def Mach.vuInst (m : Mach) (st v j : Nat) : VuInst :=
  let w := fun k => m.vuWord st v (0x1000 + 16 * j + 4 * k)
  { op := bits (w 0) 5 0, rnd := bits (w 0) 8 6, f64 := bit (w 0) 9, sat := bit (w 0) 10, amaxEn := bit (w 0) 11
    amaxSel := bits (w 0) 13 12, amaxClr := bit (w 0) 14, target := bits (w 0) 17 15, fsrc := bits (w 0) 19 18
    scaleMode := bits (w 0) 20 20, wait := bit (w 0) 21, last := bit (w 0) 22
    dst := bits (w 1) 4 0, srcA := bits (w 1) 9 5, srcB := bits (w 1) 14 10, srcC := bits (w 1) 19 15
    mask := bits (w 1) 24 20, red := bits (w 1) 29 25, imm := w 2 + w 3 * 2 ^ 32 }

/-- A vector unit, named by the first bay of its group (R107). -/
def vuUnit (st v : Nat) : UnitRef := { cls := 1, st := st, bay := 16 * (v / 2) + 8 * (v % 2) }
/-- Station bay of group bay i (R89). -/
def groupBay (v i : Nat) : Nat := 16 * (v / 2) + 8 * (v % 2) + i

def Mach.modVu (m : Mach) (st v : Nat) (f : Vu → Vu) : Mach := m.setVu st v (f (m.vuOf st v))

/-! ### Operations by OP (Table 4.3) -/

/-- Whether an OP is a reduction, and whether it is element-wise. -/
def isReduction (op : Nat) : Bool := op == 0x18 || op == 0x19 || op == 0x1A
/-- Element-wise operations that read b, and c. -/
def usesB (op : Nat) : Bool :=
  op == 0x02 || op == 0x03 || op == 0x04 || op == 0x05 || op == 0x06 || op == 0x07 || op == 0x0A || op == 0x0B
  || op == 0x10 || op == 0x15
def usesC (op : Nat) : Bool := op == 0x05 || op == 0x0B || op == 0x15

/-- Elements that an operation issues per cycle. -/
def opRate (op : Nat) (f64b : Bool) : Nat :=
  let full := if op = 0x10 ∨ op = 0x11 ∨ op = 0x12 then 16 else if op = 0x15 ∨ op = 0x16 then 32 else 64
  if f64b then full / 2 else full

/-- The latency entry of an operation. -/
def opEntry (op : Nat) (f64b : Bool) : Nat :=
  if op = 0x10 ∨ op = 0x11 then (if f64b then Config.vuDiv64 else Config.vuDiv)
  else if op = 0x12 then (if f64b then Config.vuDiv64 else Config.vuRcp)
  else if op = 0x13 ∨ op = 0x14 then Config.vuEst
  else if op = 0x15 then Config.vuExp
  else if op = 0x16 then Config.vuLog
  else if isReduction op then Config.vuRed
  else if f64b then Config.vuAlu64
  else Config.vuAlu

/-- INVALID where any operand signals. -/
def signals (f : FFmt) (xs : List Nat) : Nat := if xs.any fun x => (f.decode x).isSnan then flInvalid else 0

/-- The result of an element-wise operation on widened operands, with its flags. -/
def vuOp (op rnd : Nat) (f64b : Bool) (a b c : Nat) : Nat × Nat :=
  let f := workFmt f64b
  let one := if f64b then 0x3FF0000000000000 else 0x3F800000
  match op with
  | 0x01 => (a, 0)
  | 0x02 => f.add rnd a b
  | 0x03 => f.sub rnd a b
  | 0x04 => f.mul rnd a b
  | 0x05 => f.fma rnd a b c
  | 0x06 => f.minMaxNum false a b
  | 0x07 => f.minMaxNum true a b
  | 0x08 => (f.abs a, 0)
  | 0x09 => (f.neg a, 0)
  | 0x0A => let r := f.cmp false .lt a b; (if r.1 then one else 0, r.2)
  | 0x0B =>
    let zero := match f.decode c with
      | .fin _ m _ => m == 0
      | _ => false
    let x := if zero then b else a
    (if (f.decode x).isNan then f.nanBits else x, signals f [a, b, c])
  | 0x10 => f.div rnd a b
  | 0x11 => f.sqrt rnd a
  | 0x12 => f.div rnd one a
  | 0x13 => rcpEstimate a
  | 0x14 => rsqEstimate a
  | 0x15 =>
    let t := f32.fma 0 a b c
    let r := expEstimate t.1
    (r.1, r.2 ||| (t.2 &&& flInvalid))
  | _ => logEstimate a

/-- Combines two values of a reduction (R96). -/
def redOp (op rnd : Nat) (f64b : Bool) (x y : Nat) : Nat × Nat :=
  let f := workFmt f64b
  if op = 0x19 ∨ op = 0x1A then f.minMaxNum true x y else f.add rnd x y

/-- One element of a row added into partial sum j mod 64. -/
def partStep (op rnd : Nat) (f64b : Bool) (parts : List (Option W64)) (j x : Nat) : List (Option W64) × Nat :=
  let parts := if parts.isEmpty then List.replicate 64 none else parts
  match nth none parts (j % 64) with
  | none => (parts.set (j % 64) (some (BitVec.ofNat 64 x)), 0)
  | some p => let r := redOp op rnd f64b p.toNat x; (parts.set (j % 64) (some (BitVec.ofNat 64 r.1)), r.2)

/-- One level of the fixed binary tree over the partial sums. -/
def treeLevel (op rnd : Nat) (f64b : Bool) : List (Option W64) → List (Option W64) × Nat
  | some x :: some y :: rest =>
    let r := redOp op rnd f64b x.toNat y.toNat
    let t := treeLevel op rnd f64b rest
    (some (BitVec.ofNat 64 r.1) :: t.1, r.2 ||| t.2)
  | some x :: none :: rest => let t := treeLevel op rnd f64b rest; (some x :: t.1, t.2)
  | none :: y :: rest => let t := treeLevel op rnd f64b rest; (y :: t.1, t.2)
  | l => (l, 0)

/-- The whole tree: n levels. -/
def treeSum (op rnd : Nat) (f64b : Bool) : Nat → List (Option W64) → Option W64 × Nat
  | 0, l => ((l.head?).getD none, 0)
  | n + 1, l =>
    let t := treeLevel op rnd f64b l
    let r := treeSum op rnd f64b n t.1
    (r.1, t.2 ||| r.2)

/-- The result of a row: what a row masked off whole gives is −∞ for ROWMAX and +0 otherwise (R98). A NaN result is
the default NaN. -/
def rowResult (op rnd : Nat) (f64b : Bool) (parts : List (Option W64)) : Nat × Nat :=
  let f := workFmt f64b
  match treeSum op rnd f64b 6 (if parts.isEmpty then List.replicate 64 none else parts) with
  | (some x, fl) => if (f.decode x.toNat).isNan then (f.nanBits, fl ||| signals f [x.toNat]) else (x.toNat, fl)
  | (none, fl) => (if op = 0x19 then f.infBits true else 0, fl)

/-! ### Streams (R88 to R92) -/

/-- The group bay and slab byte address of the byte at offset o of a row (R89). -/
def StreamDesc.at (d : StreamDesc) (row o : Nat) : Nat × Nat :=
  let s := o / 128
  (d.bay + s % d.width,
    (d.addr + row % d.outer * d.rowStride + row / d.outer * d.planeStride + s / d.width * 128 + o % 128) % 2 ^ 20)

/-- The line that a cell of `w` bits lies in: group bay and line address. -/
def StreamDesc.line (d : StreamDesc) (w perRow i : Nat) : Nat × Nat :=
  let a := d.at (i / perRow) (i % perRow * w / 8)
  (a.1, a.2 / 128 * 128)

/-- What an instruction is made of: its sources with their numbers (2 SRCA, 3 SRCB, 4 SRCC, 5 MASK, in the order in
which they read a slab), its shape, and its rate as a fraction. -/
structure VuPlan where
  inst : VuInst
  srcs : List (Nat × StreamDesc)
  inner : Nat
  total : Nat
  num : Nat
  den : Nat
  deriving DecidableEq, Repr

/-- The bits that each slab of the group gives and takes per element, times 4, for one stream. -/
def StreamDesc.load (d : StreamDesc) (g : Nat) : Nat :=
  if d.kind = 0 ∧ d.bcast = false ∧ d.bay ≤ g ∧ g < d.bay + d.width then elemBits d.ty * 4 / d.width else 0

/-- The plan of instruction j. -/
def Mach.vuPlan (m : Mach) (st v j : Nat) : VuPlan :=
  let i := m.vuInst st v j
  let ds : Nat → StreamDesc := m.streamDesc st v
  let body := i.op != 0x00 && i.op != 0x21
  let needB := usesB i.op || (i.op == 0x20 && i.fsrc == 3)
  let ids := (if body then [(2, i.srcA)] else []) ++ (if needB then [(3, i.srcB)] else [])
    ++ (if usesC i.op then [(4, i.srcC)] else []) ++ (if i.op != 0x00 then [(5, i.mask)] else [])
  let srcs := (ids.filter fun p => p.2 != 0).map fun p => (p.1, ds p.2)
  let shape : Option StreamDesc := match srcs.find? fun p => !p.2.bcast with
    | some p => some p.2
    | none => if i.dst ≠ 0 ∧ isReduction i.op = false then some (ds i.dst) else (srcs.head?).map fun p => p.2
  let inner := if body then (shape.map fun d => d.inner).getD 1 else 1
  let total := if i.op = 0x00 then 0 else if body then
      (match shape with
        | some d => d.inner * d.outer * d.outer2
        | none => 1)
    else 1
  let all := (if i.dst = 0 ∨ i.op = 0x00 then [] else [ds i.dst]) ++ (if i.red = 0 ∨ body = false then [] else [ds i.red])
    ++ srcs.map (·.2)
  let load := ((List.range 8).map fun g => (all.map fun d => d.load g).sum).foldl max 0
  let op := if srcs.any fun p => p.2.kind == 1 then min 64 (opRate i.op i.f64) else opRate i.op i.f64
  -- 128 bytes over a load of load / 32 bytes per element
  { inst := i, srcs := srcs, inner := inner, total := total
    num := if load = 0 ∨ op * load ≤ 4096 then op else 4096, den := if load = 0 ∨ op * load ≤ 4096 then 1 else load }

/-- Elements issued after t issue cycles. -/
def VuPlan.upTo (p : VuPlan) (t : Nat) : Nat := min p.total (p.num * t / p.den)

/-- The cell of a source that serves element e: its number and the cells in a row. -/
def VuPlan.cell (p : VuPlan) (d : StreamDesc) (e : Nat) : Nat × Nat :=
  if d.bcast then (e / p.inner, 1) else (e, p.inner)

/-- The line of the cell that a slab source gives element e: group bay and line address. -/
def VuPlan.lineOf (p : VuPlan) (d : StreamDesc) (e : Nat) : Nat × Nat :=
  let c := p.cell d e
  d.line (elemBits d.ty) c.2 c.1

/-- Removes the entries of a list that repeat the one before them. -/
def runsOf : Option (Nat × Nat) → List (Nat × Nat) → List (Nat × Nat)
  | _, [] => []
  | prev, x :: l => if prev = some x then runsOf prev l else x :: runsOf (some x) l

/-- The lines that elements [lo, hi) read from a slab source, one for each run of consecutive elements in one line
(R455); `whole` tells whether the run that element lo goes on counts. -/
def VuPlan.lines (p : VuPlan) (d : StreamDesc) (lo hi : Nat) (whole : Bool) : List (Nat × Nat) :=
  runsOf (if whole || lo = 0 then none else some (p.lineOf d (lo - 1))) ((List.range (hi - lo)).map fun k => p.lineOf d (lo + k))

/-! ### Overlap of an instruction's own streams (R93) -/

/-- Bytes of a row of a stream whose cells take `w` bits. -/
def rowBytes (w perRow : Nat) : Nat := (w * perRow + 7) / 8

/-- The byte intervals that a slab stream touches: group bay, first byte, end, in whole words. -/
def StreamDesc.intervals (d : StreamDesc) (bytes rows : Nat) : List (Nat × Nat × Nat) :=
  (List.range rows).flatMap fun r =>
    (List.range d.width).filterMap fun g =>
      let stripes := (bytes + 127) / 128
      let mine := (stripes + d.width - 1 - g) / d.width
      if mine = 0 then none
      else
        let a := (d.at r (128 * g)).2
        let lastPart := if (stripes - 1) % d.width = g ∧ bytes % 128 ≠ 0 then bytes % 128 else 128
        some (d.bay + g, a / 4 * 4, (a + (mine - 1) * 128 + lastPart + 3) / 4 * 4)

def intervalsMeet (xs ys : List (Nat × Nat × Nat)) : Bool :=
  xs.any fun x => ys.any fun y => x.1 == y.1 && decide (x.2.1 < y.2.2) && decide (y.2.1 < x.2.2)

/-- Whether an instruction's own streams overlap other than as R93 allows; its results are then free values. -/
def Mach.vuOverlaps (m : Mach) (st v : Nat) (p : VuPlan) : Bool :=
  let i := p.inst
  let rec_ := i.op == 0x20 && i.fsrc == 2
  let dst := if i.dst = 0 then none else some (m.streamDesc st v i.dst)
  let red := if i.red = 0 then none else some (m.streamDesc st v i.red)
  let span := fun (d : StreamDesc) (bytes : Nat) => if d.kind = 0 then d.intervals bytes (d.outer * d.outer2) else []
  let block := if i.target = 0 then 32 else 16
  let dIv := match dst with
    | some d => span d (if rec_ then 32 * ((d.inner + block - 1) / block) else rowBytes (elemBits d.ty) d.inner)
    | none => []
  let rIv := match red with
    | some d => span d (rowBytes (elemBits d.ty) d.inner)
    | none => []
  let sIv := fun (d : StreamDesc) => span d (rowBytes (elemBits d.ty) d.inner)
  let elementwise := !isReduction i.op && i.op != 0x21 && !rec_
  intervalsMeet dIv rIv
  || p.srcs.any fun s =>
    (!(elementwise && dst == some s.2) && intervalsMeet dIv (sIv s.2)) || intervalsMeet rIv (sIv s.2)

/-! ### Sources -/

/-- Asks for the slab lines of the elements of the present instruction up to hi that have not been asked for: one request
for each run (R455). -/
def Mach.vuAskLines (m : Mach) (st v : Nat) (p : VuPlan) (hi due : Nat) : Mach :=
  match (m.vuOf st v).run with
  | none => m
  | some r =>
    if hi ≤ r.asked then m
    else
      let m := p.srcs.foldl
        (fun m s =>
          if s.2.kind ≠ 0 then m
          else
            (p.lines s.2 r.asked hi false).foldl
              (fun m l => m.slabPost st (groupBay v l.1)
                { order := 3, sub := s.1, user := .vuRead v s.1, addr := l.2, due := due }) m)
        m
      m.modVu st v fun u => { u with run := u.run.map fun r => { r with asked := hi } }

/-- Whether the slab lines of the elements up to hi have come. -/
def Mach.vuHasLines (m : Mach) (st v : Nat) (hi : Nat) : Bool :=
  ((m.vuOf st v).run.any fun r => decide (hi ≤ r.asked)) &&
    (List.range 8).all fun g => (m.portOf st (groupBay v g)).reqs.all fun r => match r.user with
      | .vuRead w _ => w != v
      | _ => true

/-- The rows of a queue or compartment source that elements [lo, hi) need. -/
def VuPlan.rows (p : VuPlan) (lo hi : Nat) : List Nat :=
  if hi ≤ lo then [] else (List.range ((hi - 1) / p.inner - lo / p.inner + 1)).map fun k => lo / p.inner + k

/-- The bytes of a source's row, and those of its first cells that elements below hi need (R178). -/
def VuPlan.rowLen (p : VuPlan) (d : StreamDesc) : Nat := rowBytes (elemBits d.ty) (if d.bcast then 1 else p.inner)
def VuPlan.rowNeed (p : VuPlan) (d : StreamDesc) (hi row : Nat) : Nat :=
  if d.bcast then p.rowLen d else rowBytes (elemBits d.ty) (min p.inner (hi - row * p.inner))

/-- Reads what elements below hi need of a row of a queue or compartment source, or waits: the words of a queue's message
one by one, and the message is taken with the row's last byte (R178, R180). -/
def Mach.vuReadRow (m : Mach) (h st v : Nat) (p : VuPlan) (s : Nat × StreamDesc) (hi row : Nat) : Bool × Mach :=
  let key := s.1 + 8 * row
  let u := vuUnit st v
  let n := p.rowNeed s.2 hi row
  if ((ffind (m.vuOf st v).qrows key).map (·.length)).any fun k => n ≤ k then (true, m)
  else if s.2.kind = 1 then
    match fget [] (m.vuOf st v).comps s.2.bay with
    | r :: rest =>
      if r.ready ≤ m.cyc st then
        (true, m.modVu st v fun u => { u with
          comps := fput u.comps s.2.bay rest, qrows := fput u.qrows key (r.elems.flatMap fun e => toLe 4 e.toNat) })
      else (false, m.wait u { cause := 1 })
    | [] => (false, m.wait u { cause := 1 })
  else
    let got := fun (m : Mach) (bs : Bytes) =>
      (true, (m.clearStall h u s.2.queue).modVu st v fun u => { u with qrows := fput u.qrows key bs })
    if n = p.rowLen s.2 then
      match m.take st s.2.queue with
      | (some (bs, _), m) => let (bs, m) := m.fixLength st n bs; got m bs
      | (none, m) => (false, m.waitQueue h u s.2.queue false)
    else
      match m.readTo st s.2.queue n with
      | (true, m) => got m (padTo n (m.headBytes st s.2.queue (min n (m.headMsg st s.2.queue).1)))
      | (false, m) => (false, m.waitQueue h u s.2.queue false 0 n)

/-- Reads every row that elements [lo, hi) need; false where one is missing. -/
def Mach.vuReadRows (m : Mach) (h st v : Nat) (p : VuPlan) (lo hi : Nat) : Bool × Mach :=
  let needs := p.srcs.flatMap fun s => if s.2.kind = 0 then [] else (p.rows lo hi).map fun r => (s, r)
  needs.foldl
    (fun (acc : Bool × Mach) n => if acc.1 then acc.2.vuReadRow h st v p n.1 hi n.2 else acc)
    (true, m)

/-- The code of the cell that a source gives element e, of those that issue from element lo on: a slab's line is the one
read for the run that e lies in. -/
def Mach.vuCode (m : Mach) (st v : Nat) (p : VuPlan) (lo : Nat) (s : Nat × StreamDesc) (e : Nat) : Nat :=
  let u := m.vuOf st v
  let w := elemBits s.2.ty
  let (c, perRow) := p.cell s.2 e
  if s.2.kind = 0 then
    let l := p.lineOf s.2 e
    let a := (s.2.at (c / perRow) (c % perRow * w / 8)).2
    let before := ((p.lines s.2 lo (e + 1) true).filter (· == l)).length - 1
    let read := u.lines.filter fun x => x.1 == s.1 && x.2.1 == slabOff st (groupBay v l.1) l.2
    leNat (nth (0, 0, []) read before).2.2 (a % 128) ((w + 7) / 8) / 2 ^ (c % perRow * w % 8) % 2 ^ w
  else
    let row := fget [] u.qrows (s.1 + 8 * (e / p.inner))
    let i := c % perRow
    leNat row (i * w / 8) ((w + 7) / 8) / 2 ^ (i * w % 8) % 2 ^ w

/-- An operand of element e, widened, or the immediate. -/
def Mach.vuOperand (m : Mach) (st v : Nat) (p : VuPlan) (lo n e : Nat) : Nat × Nat :=
  let i := p.inst
  match p.srcs.find? fun s => s.1 == n with
  | some s => widenElem i.f64 s.2.ty (m.vuCode st v p lo s e)
  | none => if n = 4 ∧ i.op = 0x15 then (0, 0) else (if i.f64 then i.imm else i.imm % 2 ^ 32, 0)

/-! ### Results -/

/-- What one issue cycle gathers: cells for the destination and the row sums, flags, saturations, dropped NaNs. -/
structure VuAcc where
  run : VuRun
  dst : List (Nat × Option W64) := []
  red : List (Nat × Option W64) := []
  flags : Nat := 0
  sats : Nat := 0
  nans : Nat := 0
  amax : Nat := 0
  deriving Repr

/-- A result as a destination takes it: a control queue takes INT32 (R94, R149). An in-range inexact conversion raises no
flag (DESIGN CHOICE, log 88). -/
def dstCode (control : Bool) (rnd x : Nat) : Nat × Nat :=
  if control then let r := f32.toInt rnd 32 x; (ofSigned 32 r.1, r.2) else (x, 0)

/-- The 32 bytes of an MX record as eight words (R56, R82, R97). -/
def mxRecord (i : VuInst) (block : List (Option W64)) : List (Option W64) × Nat × Nat × Nat :=
  let a := block.foldl (fun a x => match x with
    | some y => amaxStep a y.toNat
    | none => a) 0
  let code := mxScale i.target a
  let rs := block.map fun x => match x with
    | some y => some (convertShort i.target i.sat i.rnd y.toNat (.fin false 1 (127 - (code : Int))))
    | none => none
  let w := elemBits (targetType i.target)
  let codes := rs.map fun r => (r.map (·.code)).getD 0
  let packed := pack ((codes.zip (List.range codes.length)).map fun c => (w * c.2, w, c.1))
  let bytes := toLe 16 packed ++ [BitVec.ofNat 8 code] ++ zeros 15
  let got := rs.filterMap id
  ((List.range 8).map fun k => some (BitVec.ofNat 64 (leNat bytes (4 * k) 4)),
    got.foldl (fun f r => f ||| r.flags) 0, (got.filter (·.sat)).length, (got.filter (·.dropped)).length)

/-- Whether element e of an instruction is valid: its mask bit, where it names a mask (R98). -/
def Mach.vuMaskOn (m : Mach) (st v : Nat) (p : VuPlan) (lo e : Nat) : Bool :=
  match p.srcs.find? fun s => s.1 == 5 with
  | some s => m.vuCode st v p lo s e == 1
  | none => true

/-- One element of an issue cycle that begins with element lo. A masked-off element changes no flag (R98). -/
def Mach.vuElem (m : Mach) (st v : Nat) (p : VuPlan) (ctlD ctlR : Bool) (lo : Nat) (acc : VuAcc) (e : Nat) : VuAcc :=
  let i := p.inst
  let valid := m.vuMaskOn st v p lo e
  let row := e / p.inner
  let j := e % p.inner
  let rowEnd := j + 1 == p.inner
  let a := m.vuOperand st v p lo 2 e
  let srcTy := ((p.srcs.find? fun s => s.1 == 2).map (·.2.ty)).getD 0
  if isReduction i.op then
    let x := if i.op = 0x1A then (workFmt i.f64).abs a.1 else a.1
    let (parts, fl) := if valid then partStep i.op i.rnd i.f64 acc.run.parts j x else (acc.run.parts, 0)
    let acc := { acc with run := { acc.run with parts := parts }, flags := acc.flags ||| fl ||| (if valid then a.2 else 0) }
    if rowEnd then
      let r := rowResult i.op i.rnd i.f64 parts
      let c := dstCode ctlD i.rnd r.1
      { acc with run := { acc.run with parts := [] }, dst := acc.dst ++ [(row, some (BitVec.ofNat 64 c.1))]
                 flags := acc.flags ||| r.2 ||| c.2 }
    else acc
  else if i.op = 0x20 then
    let amax := if valid && i.amaxEn then amaxStep acc.amax a.1 else acc.amax
    let acc := { acc with flags := if valid then acc.flags ||| a.2 else acc.flags }
    if i.fsrc = 2 then
      let block := acc.run.block ++ [if valid then some (BitVec.ofNat 64 a.1) else none]
      let size := if i.target = 0 then 32 else 16
      if block.length = size ∨ rowEnd then
        let perRow := (p.inner + size - 1) / size
        let (ws, fl, sats, nans) := mxRecord i block
        let first := (row * perRow + j / size) * 8
        { acc with
          run := { acc.run with block := [] }, amax := amax
          dst := acc.dst ++ (ws.zip (List.range 8)).map fun w => (first + w.2, w.1)
          flags := acc.flags ||| fl, sats := acc.sats + sats, nans := acc.nans + nans }
      else { acc with run := { acc.run with block := block }, amax := amax }
    else
      let factor : Num := if i.fsrc = 0 then .fin false 1 0
        else if i.fsrc = 1 then f32.decode (i.imm % 2 ^ 32)
        else f32.decode (m.vuOperand st v p lo 3 e).1
      let r := convertShort i.target i.sat i.rnd a.1 factor
      if valid then
        { acc with amax := amax, dst := acc.dst ++ [(e, some (BitVec.ofNat 64 r.code))]
                   flags := acc.flags ||| r.flags, sats := acc.sats + b2n r.sat, nans := acc.nans + b2n r.dropped }
      else { acc with dst := acc.dst ++ [(e, none)] }
  else
    let b := m.vuOperand st v p lo 3 e
    let c := m.vuOperand st v p lo 4 e
    -- COPY between FP32 and FP64 rounds; every other COPY is a bit operation (R85, R94)
    let r := if i.op = 0x01 ∧ i.f64 = false ∧ srcTy = tyF64 then f64.convert f32 i.rnd a.1
      else if i.op = 0x01 ∧ i.f64 ∧ srcTy = tyF32 then
        (match p.srcs.find? fun s => s.1 == 2 with
          | some s => f32.convert f64 i.rnd (m.vuCode st v p lo s e)
          | none => (a.1, 0))
      else vuOp i.op i.rnd i.f64 a.1 b.1 c.1
    let ins := a.2 ||| (if usesB i.op then b.2 else 0) ||| (if usesC i.op then c.2 else 0)
    let d := dstCode ctlD i.rnd r.1
    let cell := if valid then some (BitVec.ofNat 64 d.1) else none
    let acc := { acc with dst := acc.dst ++ [(e, cell)], flags := if valid then acc.flags ||| r.2 ||| ins ||| d.2 else acc.flags }
    if i.red = 0 then acc
    else
      let (parts, fl) := if valid then partStep 0x18 i.rnd i.f64 acc.run.redParts j r.1 else (acc.run.redParts, 0)
      let acc := { acc with run := { acc.run with redParts := parts }, flags := acc.flags ||| fl }
      if rowEnd then
        let s := rowResult 0x18 i.rnd i.f64 parts
        let c := dstCode ctlR i.rnd s.1
        { acc with run := { acc.run with redParts := [] }, red := acc.red ++ [(row, some (BitVec.ofNat 64 c.1))]
                   flags := acc.flags ||| s.2 ||| c.2 }
      else acc

/-- Flags raised: sticky, with the event of the first in a job (Table 4.7). -/
def Mach.vuFlags (m : Mach) (st v fl : Nat) : Mach :=
  if fl = 0 then m
  else
    let m := m.raiseFlags (Reg.vuFpflags st v) fl
    if (m.vuOf st v).flagSeen then m
    else
      let m := m.modVu st v fun u => { u with flagSeen := true }
      if bit (m.vuWord st v 0) 0 then m.event { addr := Reg.vuCtrl st v, bit := 0 } else m

/-- Saturations and dropped NaNs counted (R79, R80). -/
def Mach.vuCounts (m : Mach) (st v sats nans : Nat) : Mach :=
  let m := m.stat (Reg.vuNan st v) nans
  if sats = 0 then m
  else
    let m := m.stat (Reg.vuSat st v) sats
    if (m.vuOf st v).satSeen then m
    else
      let m := m.modVu st v fun u => { u with satSeen := true }
      if bit (m.vuWord st v 0) 1 then
        m.event { addr := Reg.vuCtrl st v, bit := 1, info := m.raw (Reg.vuSat st v) % 2 ^ 32 }
      else m

/-- Replaces cells by free values (R93, log 3). -/
def Mach.freeCells (m : Mach) (w : Nat) (cells : List (Option W64)) : List (Option W64) × Mach :=
  cells.foldl
    (fun (acc : List (Option W64) × Mach) c =>
      match c with
      | some _ => let (x, m) := acc.2.freeVal; (acc.1 ++ [some (BitVec.ofNat 64 (x.toNat % 2 ^ w))], m)
      | none => (acc.1 ++ [none], acc.2))
    ([], m)

/-! ### Issue -/

/-- Whether writes of a unit are still to be made. -/
def Mach.vuWriting (m : Mach) (st v : Nat) : Bool :=
  !(m.vuOf st v).writes.isEmpty
  || (List.range 8).any fun g => (m.portOf st (groupBay v g)).reqs.any fun r => r.user == .vuWrite v

/-- The entries whose latencies make up an instruction's results: its reads, its operation and its writes, and its
reductions (R101). -/
def VuInst.entries (i : VuInst) : List Nat :=
  [Config.vuRd, opEntry i.op i.f64, Config.vuWr] ++ if i.red = 0 then [] else [Config.vuRed]

/-- By how many cycles entries are late in an elastic run (R310). -/
def Mach.lateBy (m : Mach) (j : Job) (ids : List Nat) : Nat := (ids.map (m.lateOf j)).sum

/-- Whether the instruction waits for every earlier write: its WAIT bit, or, in an elastic run, an instruction of a
late entry before it. -/
def Mach.vuMustWait (m : Mach) (j : Job) (st v : Nat) (r : VuRun) : Bool :=
  r.elem == 0 && r.tick == 0 &&
    ((m.vuInst st v r.inst).wait ||
      (r.inst != 0 && m.lateBy j (m.vuInst st v (r.inst - 1)).entries != 0))

/-- The unit reports completion once its last instruction's last write is made (R100, R211). -/
def Mach.vuFinish (m : Mach) (j : Job) (st v : Nat) : Mach :=
  let u := m.vuOf st v
  let unit := vuUnit st v
  let flying := m.dev.queues.any fun e => e.2.flight.any fun w => w.unit == unit
  if u.ended && !m.vuWriting st v && !(m.senderBusy st unit.bay unit) && !flying then
    let m := m.modVu st v fun u => { u with run := none, ended := false, lines := [], qrows := [] }
    m.unitDone j st 1 v Config.sbDone
  else m

/-- VU_START: a start reaches the unit (R100). -/
def effVuStart (st v : Nat) (m : Mach) : Mach :=
  match m.liveJob st with
  | none => m
  | some _ =>
    if (m.vuOf st v).run.isSome || (m.vuOf st v).faulted then m
    else
      match m.takeStart st 1 v with
      | (none, m) => m
      | (some x, m) =>
        let m := m.modVu st v fun u => { u with
          run := some { inst := x.idx, next := m.cyc st }, curInst := x.idx, lines := [], qrows := [], ended := false }
        let p := m.vuPlan st v x.idx
        (m.vuAskLines st v p (p.upTo 1) (m.cyc st)).work st

/-- Puts an instruction's cells on their way to a destination. -/
def Mach.vuEmit (m : Mach) (st v : Nat) (w : VuWrite) (cells : List (Nat × Option W64)) (free : Bool) : Mach :=
  match cells with
  | [] => m
  | c :: _ =>
    let vs := cells.map (·.2)
    let (vs, m) := if free then m.freeCells w.width vs else (vs, m)
    m.modVu st v fun u => { u with writes := u.writes ++ [{ w with first := c.1, cells := vs }] }

/-- One issue cycle of the current instruction, if its OP is `op` and it may issue (R91, R101). -/
def effVuIssue (op st v : Nat) (m : Mach) : Mach :=
  match m.liveJob st with
  | none => m
  | some (h, j) =>
    let u := m.vuOf st v
    let cyc := m.cyc st
    match u.run with
    | none => m
    | some r =>
      let p := m.vuPlan st v r.inst
      let i := p.inst
      let unit := vuUnit st v
      if u.faulted || u.ended || i.op != op then m
      else if m.vuMustWait j st v r && m.vuWriting st v then m
      else
        let next := if m.vuMustWait j st v r then max r.next (u.lastWrite + 1) else r.next
        let hi := p.upTo (r.tick + 1)
        let m := if next ≤ cyc + 1 then m.vuAskLines st v p hi (max cyc (next - 1)) else m
        if cyc < next then m
        -- waits for a queue's room and for the slab port are counted from the messages and the requests themselves
        else if m.senderBlocked st unit.bay unit || !(m.vuHasLines st v hi) then m.unwait unit
        else
          let (ready, m) := m.vuReadRows h st v p r.elem hi
          if ready = false then m
          else
            let d := m.streamDesc st v i.dst
            let rd := m.streamDesc st v i.red
            let ctlD := i.dst != 0 && d.kind == 2 && m.ctlRoute st unit.bay d.queue
            let ctlR := i.red != 0 && rd.kind == 2 && m.ctlRoute st unit.bay rd.queue
            let free := m.vuOverlaps st v p
            let sel := Reg.vuAmax st v i.amaxSel
            let m := if op = 0x20 && i.amaxEn && i.amaxClr && r.tick = 0 then m.setRaw sel 0 else m
            let acc0 : VuAcc := { run := r, amax := m.raw sel }
            let acc := if op = 0x21 then
                let x := if i.scaleMode = 0 then tensorScale i.target (m.raw sel) else mxScale i.target (m.raw sel)
                { acc0 with dst := [(0, if m.vuMaskOn st v p 0 0 then some (BitVec.ofNat 64 x) else none)] }
              else (List.range (hi - r.elem)).foldl (fun a k => m.vuElem st v p ctlD ctlR r.elem a (r.elem + k)) acc0
            let m := if op = 0x20 && i.amaxEn then m.setRaw sel acc.amax else m
            let m := (m.vuFlags st v acc.flags).vuCounts st v acc.sats acc.nans
            -- latencies of R101
            let entry := opEntry op i.f64
            let base := cyc + m.lat j Config.vuRd + m.lat j entry + m.lat j Config.vuWr
            let rec_ := op == 0x20 && i.fsrc == 2
            let size := if i.target = 0 then 32 else 16
            let perRow := if isReduction op || op = 0x21 then 1 else if rec_ then (p.inner + size - 1) / size * 8 else p.inner
            let rows := if p.inner = 0 then 0 else p.total / p.inner
            let width := if rec_ then 32 else if i.dst = 0 then 32 else elemBits d.ty
            let m := m.vuEmit st v { due := base, desc := i.dst, inst := r.inst, perRow := perRow, total := rows * perRow
                                     width := width } acc.dst free
            let m := if i.red = 0 then m
              else m.vuEmit st v { due := base + m.lat j Config.vuRed, operand := 1, desc := i.red, inst := r.inst
                                   perRow := 1, total := rows, width := elemBits rd.ty } acc.red free
            let m := if hi = r.elem then m
              else
                let m := m.noteResult unit (m.lateBy j [Config.vuRd, entry, Config.vuWr]) base
                if i.red = 0 then m else m.noteResult unit (m.lateBy j i.entries) (base + m.lat j Config.vuRed)
            let m := if hi = r.elem then m else (m.count (Reg.vuIssueCyc st v) 1).count (Reg.vuElemDone st v) (hi - r.elem)
            -- the next issue cycle
            let done := hi = p.total
            let run' : VuRun := if done then { inst := (r.inst + 1) % 256, next := cyc + 1 }
              else { acc.run with elem := hi, tick := r.tick + 1, next := cyc + 1 }
            let ended := done && i.last
            let m := if done && p.total = 0 then m.count (Reg.vuInstrDone st v) 1 else m
            let m := m.modVu st v fun u =>
              -- the line of each source's last element stays for the elements that go on in it
              let keep := fun (s : Nat × StreamDesc) =>
                let l := p.lineOf s.2 (hi - 1)
                (u.lines.reverse.find? fun x => x.1 == s.1 && x.2.1 == slabOff st (groupBay v l.1) l.2).toList
              { u with
                run := some run', curInst := if ended then r.inst else run'.inst, ended := ended
                lines := if done then [] else if hi = r.elem then u.lines else p.srcs.flatMap keep
                qrows := if done then [] else fkeep u.qrows fun k => hi / p.inner ≤ k / 8 }
            let m := (m.unwait unit).work st
            let m := if ended then m.vuFinish j st v
              else
                let q := m.vuPlan st v run'.inst
                if m.vuMustWait j st v run' then m else m.vuAskLines st v q (q.upTo (run'.tick + 1)) cyc
            m

/-! ### Writes (R101, R113, R114) -/

/-- Sends the words gathered for one line to the slab port, for an instruction. -/
def Mach.vuFlush (m : Mach) (st v operand inst : Nat) (d : StreamDesc) : Mach :=
  match (m.vuOf st v).wline.find? fun x => x.1 == operand with
  | none => m
  | some x =>
    let m := m.modVu st v fun u => { u with wline := u.wline.filter fun y => y.1 != operand }
    if x.2.2.isEmpty then m
    else
      let b := groupBay v (d.bay + x.2.1 / 2 ^ 20)
      m.slabPost st b { order := 3, sub := operand, user := .vuWrite v, write := true, addr := x.2.1 % 2 ^ 20
                        words := x.2.2, inst := inst, due := m.cyc st }

/-- Adds a code of w bits at a byte address of a line to the words gathered. A cell that begins a word begins it anew, 0 in
every bit that follows, as the tail word of a row is written (R114); where two rows meet in a word, the later one stands. -/
def addWord (ws : List (Nat × W32)) (a shift w x : Nat) : List (Nat × W32) :=
  let one := fun (ws : List (Nat × W32)) (a x : Nat) =>
    let k := a % 128 / 4
    let v := BitVec.ofNat 32 (x * 2 ^ (8 * (a % 4) + shift))
    if ws.any fun y => y.1 == k then
      ws.map fun y => if y.1 == k then (k, if a % 4 = 0 ∧ shift = 0 then v else y.2 ||| v) else y
    else ws ++ [(k, v)]
  if w = 64 then one (one ws a (x % 2 ^ 32)) (a + 4) (x / 2 ^ 32) else one ws a x

/-- Writes cell n of a write to a slab destination: the run of cells in one line leaves with its last cell. -/
def Mach.vuPutSlab (m : Mach) (st v : Nat) (w : VuWrite) (d : StreamDesc) (n : Nat) (x : Option W64) : Mach :=
  let ob := n % w.perRow * w.width
  let a := d.at (n / w.perRow) (ob / 8)
  -- the line is named by its bay from the first and its address
  let name := (a.1 - d.bay) * 2 ^ 20 + a.2 / 128 * 128
  let m := m.modVu st v fun u =>
    let old := ((u.wline.find? fun y => y.1 == w.operand).map (·.2.2)).getD []
    let ws := match x with
      | some y => addWord old a.2 (ob % 8) w.width (y.toNat % 2 ^ w.width)
      | none => old
    { u with wline := (w.operand, name, ws) :: u.wline.filter fun y => y.1 != w.operand }
  let nextLine := d.line w.width w.perRow (n + 1)
  if n + 1 = w.total ∨ nextLine ≠ (a.1, a.2 / 128 * 128) then m.vuFlush st v w.operand w.inst d else m

/-- Writes cell n of a write to a queue destination: a row is one message, an item of a control queue one element
(R93, R98, R149). -/
def Mach.vuPutQueue (m : Mach) (st v : Nat) (w : VuWrite) (d : StreamDesc) (n : Nat) (x : Option W64) : Mach :=
  let unit := vuUnit st v
  let code := (x.map (·.toNat)).getD 0 % 2 ^ w.width
  if m.ctlRoute st unit.bay d.queue then
    match m.routeOf st unit.bay d.queue with
    | some r => m.sendMessage st unit.bay r unit (toLe 2 (code % 512)) true
    | none => m
  else
    let row := fget [] (m.vuOf st v).wrow w.operand ++ [code]
    if (n + 1) % w.perRow = 0 then
      let bytes := toLe (rowBytes w.width w.perRow)
        (pack ((row.zip (List.range row.length)).map fun c => (w.width * c.2, w.width, c.1)))
      let m := m.modVu st v fun u => { u with wrow := fdel u.wrow w.operand }
      match m.routeOf st unit.bay d.queue with
      | some r => m.sendMessage st unit.bay r unit bytes true
      | none => m
    else m.modVu st v fun u => { u with wrow := fput u.wrow w.operand row }

/-- What an uncorrectable word has left of a vector unit still makes the writes of the elements that it had issued (R107):
its job, while the job stops. -/
def Mach.vuWriter (m : Mach) (st v : Nat) : Option Job :=
  match m.liveJob st with
  | some (_, j) => some j
  | none =>
    if (m.vuOf st v).faulted then (m.stnJob st).bind fun x => if x.2.phase = .stopping ∧ !x.2.frozen then some x.2 else none
    else none

/-- The lines that a faulted unit had gathered in part are written with what they hold. -/
def Mach.vuFlushAll (m : Mach) (st v inst : Nat) : Mach :=
  (m.vuOf st v).wline.foldl (fun m x => m.vuFlush st v x.1 inst (m.streamDesc st v
    (let i := m.vuInst st v inst; if x.1 = 0 then i.dst else i.red))) m

/-- VU_RESULT_WRITE: the next write of the unit, in instruction order, once its latencies are over and its destination
takes it; an instruction's write is held while one of an earlier instruction still waits at a slab port (R101). -/
def effVuResultWrite (st v : Nat) (m : Mach) : Mach :=
  match m.vuWriter st v with
  | none => m
  | some j =>
    let u := m.vuOf st v
    let unit := vuUnit st v
    match u.writes with
    | [] => m.vuFinish j st v
    | f :: _ =>
      match leastBy VuWrite.due (u.writes.filter fun w => w.inst == f.inst) with
      | none => m
      | some w =>
        let behind := (List.range 8).any fun g =>
          (m.portOf st (groupBay v g)).reqs.any fun r => r.user == .vuWrite v && r.inst != w.inst
        if m.cyc st < w.due ∨ behind then m
        else
          let d := m.streamDesc st v w.desc
          if w.desc ≠ 0 && d.kind = 2 && j.phase != .stopping && m.senderBlocked st unit.bay unit then m
          else
            let m := m.modVu st v fun u => { u with
              writes := removeFirst (· == w) u.writes, lastWrite := m.cyc st }
            let m := if w.desc = 0 ∨ d.kind = 1 then m
              else (w.cells.zip (List.range w.cells.length)).foldl
                (fun m c => if d.kind = 0 then m.vuPutSlab st v w d (w.first + c.2) c.1
                  else m.vuPutQueue st v w d (w.first + c.2) c.1) m
            let u := m.vuOf st v
            let m := if u.faulted && !(u.writes.any fun x => x.inst == w.inst) then m.vuFlushAll st v w.inst else m
            let ended := !(u.writes.any fun x => x.inst == w.inst)
              && (u.ended || (u.run.map (·.inst)) != some w.inst) && !u.faulted
            let m := if ended then m.count (Reg.vuInstrDone st v) 1 else m
            (m.vuFinish j st v).work st

/-! ### Lines from the slab port -/

/-- A line that the unit asked for has been read; an uncorrectable word stops it (R107). -/
def Mach.vuLine (m : Mach) (h st b v operand addr : Nat) (data : Bytes) (bad : Option Nat) : Mach :=
  match bad with
  | some a =>
    ((m.modVu st v fun u => { u with faulted := true, run := none, lines := [] }).unwaitAll (vuUnit st v)).fault 1
      (vuUnit st v) (some h) (a + b % 8 * 2 ^ 45)
  | none =>
    let m := m.modVu st v fun u => { u with
      lines := u.lines ++ [(operand, slabOff st b addr, data)]
      run := u.run.map fun r => { r with next := max r.next (m.cyc st + 1) } }
    m

/-- A port has made a unit's write. -/
def Mach.vuWritten (m : Mach) (j : Job) (st v : Nat) : Mach :=
  (m.modVu st v fun u => { u with lastWrite := max u.lastWrite (m.cyc st) }).vuFinish j st v

/-- Whether a vector unit of a station now wants the message at the head of a queue; it reads it (QUEUE_READ). -/
def Mach.vuReads (m : Mach) (h st q : Nat) : Option Mach :=
  (m.dev.vu.filter fun e => e.1 / 32 == st).findSome? fun e =>
    let v := e.1 % 32
    match e.2.run with
    | none => none
    | some r =>
      let p := m.vuPlan st v r.inst
      if e.2.ended || decide (m.cyc st < r.next) then none
      else
        match p.srcs.find? fun s => s.2.kind == 2 && s.2.queue == q with
        | none => none
        | some s =>
          let hi := p.upTo (r.tick + 1)
          match (p.rows r.elem hi).find? fun row =>
              decide (((ffind e.2.qrows (s.1 + 8 * row)).map (·.length)).getD 0 < p.rowNeed s.2 hi row) with
          | none => none
          | some row => some (m.vuReadRow h st v p s hi row).2

/-- What is left of a vector unit when its job stops; the number registers stay (R83), and a faulted unit still makes the
writes of what it had issued (R107). -/
def Mach.vuHalt (m : Mach) (st v : Nat) : Mach :=
  m.modVu st v fun u => { u with run := none, writes := if u.faulted then u.writes else [], lines := [],
                                 wline := if u.faulted then u.wline else [], wrow := [], qrows := [], ended := false,
                                 flagSeen := false, satSeen := false }

/-! ### The commands -/

def execVuStart (st v : Nat) (s : State) := act .run (.vuStart st v) s fun m => m.inVu st v (effVuStart st v)
def execVuNop (st v : Nat) (s : State) := act .run (.vuNop st v) s fun m => m.inVu st v (effVuIssue 0x00 st v)
def execVuCopy (st v : Nat) (s : State) := act .run (.vuCopy st v) s fun m => m.inVu st v (effVuIssue 0x01 st v)
def execVuAdd (st v : Nat) (s : State) := act .run (.vuAdd st v) s fun m => m.inVu st v (effVuIssue 0x02 st v)
def execVuSub (st v : Nat) (s : State) := act .run (.vuSub st v) s fun m => m.inVu st v (effVuIssue 0x03 st v)
def execVuMul (st v : Nat) (s : State) := act .run (.vuMul st v) s fun m => m.inVu st v (effVuIssue 0x04 st v)
def execVuFma (st v : Nat) (s : State) := act .run (.vuFma st v) s fun m => m.inVu st v (effVuIssue 0x05 st v)
def execVuMin (st v : Nat) (s : State) := act .run (.vuMin st v) s fun m => m.inVu st v (effVuIssue 0x06 st v)
def execVuMax (st v : Nat) (s : State) := act .run (.vuMax st v) s fun m => m.inVu st v (effVuIssue 0x07 st v)
def execVuAbs (st v : Nat) (s : State) := act .run (.vuAbs st v) s fun m => m.inVu st v (effVuIssue 0x08 st v)
def execVuNeg (st v : Nat) (s : State) := act .run (.vuNeg st v) s fun m => m.inVu st v (effVuIssue 0x09 st v)
def execVuCmplt (st v : Nat) (s : State) := act .run (.vuCmplt st v) s fun m => m.inVu st v (effVuIssue 0x0A st v)
def execVuSel (st v : Nat) (s : State) := act .run (.vuSel st v) s fun m => m.inVu st v (effVuIssue 0x0B st v)
def execVuDiv (st v : Nat) (s : State) := act .run (.vuDiv st v) s fun m => m.inVu st v (effVuIssue 0x10 st v)
def execVuSqrt (st v : Nat) (s : State) := act .run (.vuSqrt st v) s fun m => m.inVu st v (effVuIssue 0x11 st v)
def execVuRcp (st v : Nat) (s : State) := act .run (.vuRcp st v) s fun m => m.inVu st v (effVuIssue 0x12 st v)
def execVuRcpe (st v : Nat) (s : State) := act .run (.vuRcpe st v) s fun m => m.inVu st v (effVuIssue 0x13 st v)
def execVuRsqe (st v : Nat) (s : State) := act .run (.vuRsqe st v) s fun m => m.inVu st v (effVuIssue 0x14 st v)
def execVuExp (st v : Nat) (s : State) := act .run (.vuExp st v) s fun m => m.inVu st v (effVuIssue 0x15 st v)
def execVuLog (st v : Nat) (s : State) := act .run (.vuLog st v) s fun m => m.inVu st v (effVuIssue 0x16 st v)
def execVuRowsum (st v : Nat) (s : State) := act .run (.vuRowsum st v) s fun m => m.inVu st v (effVuIssue 0x18 st v)
def execVuRowmax (st v : Nat) (s : State) := act .run (.vuRowmax st v) s fun m => m.inVu st v (effVuIssue 0x19 st v)
def execVuRowamax (st v : Nat) (s : State) := act .run (.vuRowamax st v) s fun m => m.inVu st v (effVuIssue 0x1A st v)
def execVuCvt (st v : Nat) (s : State) := act .run (.vuCvt st v) s fun m => m.inVu st v (effVuIssue 0x20 st v)
def execVuScalesel (st v : Nat) (s : State) := act .run (.vuScalesel st v) s fun m => m.inVu st v (effVuIssue 0x21 st v)
def execVuResultWrite (st v : Nat) (s : State) := act .run (.vuResultWrite st v) s fun m => m.inVu st v (effVuResultWrite st v)

end Sys2Proof.Machine
end

