-- ==== Sys2Proof/Machine/Engines.lean ====
section
/-! DEFINITION. Marshalling engines and the remote line store (chapter 09): transfer descriptors, the issue of pieces,
masked and multicast writes in order of issue, failures, completions, and the signal-box operations 0x28 to 0x2B. -/

namespace Sys2Proof.Machine
open Sys2Proof

/-! ### Transfer descriptors (Table 9.10) -/

/-- A transfer descriptor's fields. -/
structure XferDesc where
  srcKind : Nat
  dstKind : Nat
  rls : Bool
  merge : Bool
  signal : Bool
  ovr : Nat
  last : Bool
  pace : Nat
  next : Nat
  token : Nat
  rowLen : Nat
  rows : Nat
  srcStride : Nat
  dstStride : Nat
  src : Nat
  dst : Nat
  deriving DecidableEq, Repr

/-- A descriptor of the active plane, with the offsets of MGOR added. -/
def Mach.xferDesc (m : Mach) (st : Nat) (x : EngDesc) : XferDesc :=
  let w := fun k => m.stWord st (0x10000 + 64 * x.desc + 4 * k)
  { srcKind := bits (w 0) 1 0, dstKind := bits (w 0) 3 2, rls := bit (w 0) 4, merge := bit (w 0) 5
    signal := bit (w 0) 6, ovr := bits (w 0) 8 7, last := bit (w 0) 9, pace := bits (w 0) 13 10, next := bits (w 0) 22 14
    token := bits (w 1) 10 0, rowLen := orMax (bits (w 2) 23 0) (2 ^ 24), rows := orMax (bits (w 3) 15 0) 65536
    srcStride := w 4 % 2 ^ 32, dstStride := w 5 % 2 ^ 32
    src := (w 6 + w 7 * 2 ^ 32 + x.addSrc) % 2 ^ 64, dst := (w 8 + w 9 * 2 ^ 32 + x.addDst) % 2 ^ 64 }

/-- Endpoint kinds (Table 9.1). -/
def kErmus : Nat := 0
def kHost : Nat := 1
def kQueue : Nat := 2
def kMulti : Nat := 3

/-- The address of a byte of a row at the source and at the destination (R224). A queue's rows are messages. -/
def XferDesc.srcAt (d : XferDesc) (row off : Nat) : Nat :=
  if d.srcKind = kQueue then off else (d.src + row * d.srcStride + off) % 2 ^ 64
def XferDesc.dstAt (d : XferDesc) (row off : Nat) : Nat :=
  if 2 ≤ d.dstKind then off else (d.dst + row * d.dstStride + off) % 2 ^ 64

/-- The length of the piece at a place: what is left of the row, of the source line and of the destination line
(R225). -/
def XferDesc.pieceLen (d : XferDesc) (row off : Nat) : Nat :=
  let s := min (d.rowLen - off) (128 - d.srcAt row off % 128)
  if 2 ≤ d.dstKind then s else min s (128 - d.dstAt row off % 128)

/-- The place of the piece after one that ends at an offset. -/
def XferDesc.nextPos (d : XferDesc) (row off : Nat) : Option (Nat × Nat) :=
  if off < d.rowLen then some (row, off) else if row + 1 < d.rows then some (row + 1, 0) else none

/-! ### Engines and their latencies -/

def engUnit (st e : Nat) : UnitRef := { cls := 5, st := st, sub := e }

def Mach.modEngine (m : Mach) (st e : Nat) (f : Engine → Engine) : Mach := m.setEngine st e (f (m.engine st e))

/-- The ways between an engine's station router and the memory that a global address of this device names, outward and back
(R25, R225). -/
def Mach.wayTo (m : Mach) (j : Job) (st a t : Nat) : Option Way :=
  let off := gaOffset a
  if gaSpace a = 0 then m.toChannel j st (chanOf off) t
  else (m.stnWay j st (spStn off) t).bind fun w => w.via (m.toBay j (spStn off) (spBay off))
def Mach.wayBack (m : Mach) (j : Job) (st a t : Nat) : Option Way :=
  let off := gaOffset a
  if gaSpace a = 0 then m.fromChannel j st (chanOf off) t
  else (m.toRouter j (spStn off) (spBay off) t).bind fun w => w.via (m.stnWay j (spStn off) st)

/-- The way of a word from an engine's station router to a queue. -/
def Mach.wayQueue (m : Mach) (j : Job) (st st' q t : Nat) : Option Way :=
  (m.stnWay j st st' t).bind fun w => w.via (m.toQueue j st' q)

/-- A cycle count carried from one clock to another as things stand now. -/
def Mach.reclock (m : Mach) (st : Nat) (t : Nat) (arc arc' : Bool) : Nat :=
  if arc = arc' then t else m.clock st arc' + (t - m.clock st arc)

/-- Whether an Ermus address may be read or written by an engine: DDR space or scratchpad space; on this device, memory
that exists (Table 9.3, cause 1). -/
def Mach.engAddrOk (m : Mach) (a n : Nat) : Bool :=
  let own := gaDevice a == m.deviceId
  if gaSpace a = 0 then !own || m.ddrReachable (gaOffset a) n
  else if gaSpace a = 1 then !own || m.slabExists (gaOffset a) n
  else false

/-! ### Failures (R232, Table 9.3) -/

def causeAddr : Nat := 1
def causeRefused : Nat := 2
def causeRemote : Nat := 3
def causeHost : Nat := 4
def causeDdr : Nat := 5
def causeSlab : Nat := 6

/-- An engine whose list has stopped is no longer busy once nothing that it issued is outstanding. -/
def Mach.engRest (m : Mach) (st e : Nat) : Mach :=
  let x := m.engine st e
  if x.halted && x.descs.isEmpty && x.pieces.isEmpty then
    (m.setEngine st e { x with busy := false }).unwait (engUnit st e)
  else m

/-- A request of a descriptor fails: the engine issues no more; nothing is written from piece p onward; earlier pieces
complete. For causes 1 to 4 ERROR and ST_MEe_ERR record the first failure and an event is sent; causes 5 and 6 raise the
fault of the engine's context. `fault` is the address field of that fault. -/
def Mach.engFail (m : Mach) (h st e p cause run row addr : Nat) : Mach :=
  let x := m.engine st e
  let desc := ((x.descs.find? fun d => d.id == run).map (·.desc)).getD x.curDesc
  let x' := { x with
    halted := true
    descs := (x.descs.filter fun d => d.id ≤ run).map fun d => if d.id = run then { d with issued := true, cut := some p } else d
    pieces := fkeep x.pieces fun k => k < p, rowBuf := none, lines := [], prevLine := none }
  let m := m.setEngine st e x'
  let m :=
    if cause = causeDdr then m.fault 9 (engUnit st e) (some h) addr
    else if cause = causeSlab then m.fault 1 (engUnit st e) (some h) addr
    else
      let m := m.modEngine st e fun y => { y with error := true }
      let m := if bit (m.raw (Reg.meErr st e)) 31 then m
        else (m.setRaw (Reg.meErr st e) (pack [(0, 3, cause), (3, 9, desc), (12, 16, row), (31, 1, 1)])).setRaw
          (Reg.meErrAddr st e) addr
      m.event { addr := Reg.meErr st e, bit := 31, info := addr % 2 ^ 32 }
  m.engRest st e

/-- A piece of an engine fails. -/
def Mach.engPieceFail (m : Mach) (h st e p cause : Nat) (addr : Option Nat := none) : Mach :=
  match ffind (m.engine st e).pieces p with
  | none => m
  | some y => m.engFail h st e p cause y.run y.row (addr.getD (y.src / 128 * 128))

/-! ### The remote line store (R234 to R237) -/

/-- The set of a global address in a station's store. -/
def rlsKey (st a : Nat) : Nat := st * 256 + a / 128 % 256
def Mach.rlsSet (m : Mach) (st a : Nat) : List RlsLine := fget [] m.dev.rls (rlsKey st a)
def Mach.setRls (m : Mach) (st a : Nat) (l : List RlsLine) : Mach :=
  { m with dev := { m.dev with rls := if l.isEmpty then fdel m.dev.rls (rlsKey st a) else fput m.dev.rls (rlsKey st a) l } }

/-- The data of a line that the store holds; it becomes the most recently used of its set. -/
def Mach.rlsHit (m : Mach) (st line : Nat) : Option (Bytes × Mach) :=
  let l := m.rlsSet st line
  match l.find? fun x => x.addr == line with
  | none => none
  | some x =>
    let m := m.setRls st line (l.map fun y => if y.addr == line then { y with used := m.dev.rlsUse } else y)
    some (x.data, { m with dev := { m.dev with rlsUse := m.dev.rlsUse + 1 } })

/-- Installs a line in the lowest invalid way, or in the least recently used one. -/
def Mach.rlsInstall (m : Mach) (st line : Nat) (data : Bytes) : Mach :=
  let l := (m.rlsSet st line).filter fun x => x.addr != line
  let way := match lowest 8 fun w => !(l.any fun x => x.way == w) with
    | some w => w
    | none => ((leastBy RlsLine.used l).map (·.way)).getD 0
  let m := m.setRls st line
    ((l.filter fun x => x.way != way) ++ [{ way := way, addr := line, data := data, used := m.dev.rlsUse }])
  { m with dev := { m.dev with rlsUse := m.dev.rlsUse + 1 } }

/-- A store of an engine of this station invalidates the line it writes (R236). -/
def Mach.rlsDrop (m : Mach) (st a : Nat) : Mach :=
  let l := m.rlsSet st a
  if l.isEmpty then m else m.setRls st a (l.filter fun x => x.addr != a / 128 * 128)

/-- Invalidates every line of a station; fills in flight are not installed (R236). -/
def Mach.rlsFlush (m : Mach) (st : Nat) : Mach :=
  { m with dev := { m.dev with
      rls := fkeep m.dev.rls fun k => k / 256 != st
      fills := m.dev.fills.map fun f => if f.1 / 65536 = st then (f.1, { f.2 with install := false }) else f } }

/-! ### Data for pieces -/

/-- The line that piece p read has come, in a cycle: every piece that it serves holds its part (R227). -/
def Mach.engData (m : Mach) (st e p : Nat) (line : Nat) (data : Bytes) (due : Nat) (arc : Bool) : Mach :=
  m.modEngine st e fun x => { x with
    pieces := x.pieces.map fun y =>
      if y.2.rd = p ∧ y.2.stage = 0 then
        (y.1, { y.2 with stage := 1, data := slice data (y.2.src - line) y.2.len, due := due, arc := arc })
      else y
    lines := x.lines.map fun l => if l.rd = p then { l with data := some data } else l
    prevLine := x.prevLine.map fun l => if l.rd = p then { l with data := some data } else l }

/-! ### Writes (R113, R224, R226, R228) -/

/-- A copy that a write makes (R228): its place in the set, and a slab of this station or a queue of a station. -/
inductive Copy where
  | slab (i bay addr : Nat)
  | queue (i st q : Nat)
  deriving DecidableEq, Repr

/-- The copies that a row's bytes go to: a queue, or the valid entries of a multicast set in ascending order (Table
9.13). -/
def Mach.engCopies (m : Mach) (st : Nat) (d : XferDesc) (row : Nat) : List Copy :=
  if d.dstKind = kQueue then [.queue 0 (bits d.dst 15 12) (bits d.dst 11 0)]
  else
    (List.range 16).filterMap fun i =>
      let w := m.stWord st (0x2000 + 128 * (d.dst % 16) + 8 * i)
      if bit w 0 = false then none
      else if bit w 1 then some (.slab i (bits w 25 18) (bits w 45 26 + row * d.dstStride))
      else some (.queue i (bits w 5 2) (bits w 17 6))

/-- The pieces that one masked write makes: the piece, and those after it in the descriptor that fall in its destination
line, if all of them are held; `none` while one is still to come. A failure cuts the descriptor off (R227, R232). -/
def gatherGo (x : Engine) (d : XferDesc) (line : Nat) (cut : Option Nat) : Nat → Nat → Nat × Nat → Option (List (Nat × Piece))
  | 0, _, _ => none
  | fuel + 1, p, (row, off) =>
    if cut.any fun c => c ≤ p then some []
    else
      let rest := match d.nextPos row (off + d.pieceLen row off) with
        | none => some []
        | some pos => gatherGo x d line cut fuel (p + 1) pos
      if d.dstAt row off / 128 ≠ line then rest
      else match ffind x.pieces p with
        | some z => if z.stage = 1 then rest.map fun l => (p, z) :: l else none
        | none => none

/-- The pieces of the write that begins with piece p: a row of a queue or of a multicast goes piece by piece. -/
def gather (x : Engine) (d : XferDesc) (cut : Option Nat) (p : Nat) (y : Piece) : Option (List (Nat × Piece)) :=
  if 2 ≤ d.dstKind then some [(p, y)]
  else gatherGo x d (y.dst / 128) cut (d.rows * (d.rowLen + 1)) p (y.row, y.off)

/-- Joins parts of a write that follow each other. -/
def mergeSegs : List (Nat × Bytes) → List (Nat × Bytes)
  | [] => []
  | a :: l =>
    match mergeSegs l with
    | b :: r => if a.1 + a.2.length = b.1 then (a.1, a.2 ++ b.2) :: r else a :: b :: r
    | [] => [a]

/-- The words of a line that a write's parts enable. -/
def lineWords (segs : List (Nat × Bytes)) : List (Nat × W32) :=
  segs.flatMap fun s => (List.range (s.2.length / 4)).map fun i =>
    (s.1 % 128 / 4 + i, BitVec.ofNat 32 (leNat s.2 (4 * i) 4))

/-- A slab write in a line for an engine's piece. -/
def Mach.engSlab (m : Mach) (st e p st' b : Nat) (segs : List (Nat × Bytes)) (due : Nat) (arc : Bool) : Mach :=
  match segs with
  | [] => m
  | s :: _ => m.slabPost st' b { order := 1, sub := subEngine e, user := .engine st e p, write := true, job := (m.stn st).job
                                 addr := s.1 % 2 ^ 20 / 128 * 128, words := lineWords segs, due := due, arc := arc }

/-- The latency from an engine's station to the home bay of a queue, for requests, grants and words (Table 6.3, R26). -/
def Mach.engQueueLat (m : Mach) (j : Job) (st st' q : Nat) : Nat :=
  m.stnLatency st st' + m.legIn j (m.qBay st' q)

/-- The grant that a row has from a copy's queue, if its request was sent. -/
def Engine.grant (x : Engine) (i run row : Nat) : Option QGrant :=
  (ffind x.grants i).bind fun g => if g.run = run ∧ g.row = row then some g else none

/-- Sends a row's admission requests to the queue copies that have none yet. -/
def Mach.engAsk (m : Mach) (j : Job) (st e : Nat) (d : XferDesc) (y : Piece) (copies : List Copy) (t : Nat) (arc : Bool) :
    Mach :=
  copies.foldl
    (fun m c => match c with
      | .queue i st' q =>
        if ((m.engine st e).grant i y.run y.row).isSome then m
        else
          let m := m.modEngine st e fun x => { x with grants := fput x.grants i { run := y.run, row := y.row } }
          m.modQueue st' q fun x => { x with
            reqs := x.reqs ++ [{ due := t + m.engQueueLat j st st' q, arc := arc, key := e, router := true, st := st
                                 eng := some (st, e, i), len := d.rowLen }] }
      | .slab _ _ _ => m) m

/-- Whether every queue copy has admitted the row. -/
def Engine.granted (x : Engine) (y : Piece) (copies : List Copy) : Bool :=
  copies.all fun c => match c with
    | .queue i _ _ => ((x.grant i y.run y.row).bind (·.seq)).isSome
    | .slab _ _ _ => true

/-- Sends words to a queue from an engine's router, one in a cycle from time t on, each over booked slots. -/
def Mach.engWordGo (m : Mach) (j : Job) (st st' q : Nat) (arc : Bool) : Nat → List NetWord → Mach
  | _, [] => m
  | t, w :: l =>
    let (due, m) := (m.ride w.unit arc t (m.wayQueue j st st' q)).getD (t + m.engQueueLat j st st' q, m)
    Mach.engWordGo (m.modQueue st' q fun x => { x with flight := x.flight ++ [{ w with due := due }] }) j st st' q arc (t + 1) l

/-- Sends the words of a queue copy that a piece completes: those of the row that end in [from, upto). The answer is the
number of words sent. -/
def Mach.engWords (m : Mach) (j : Job) (st e p i st' q : Nat) (d : XferDesc) (row : Bytes) (y : Piece) (t : Nat)
    (arc : Bool) : Nat × Mach :=
  match (m.engine st e).grant i y.run y.row with
  | none => (0, m)
  | some g =>
    let net := m.qNet st' q
    let wb := wordBytes net
    let upto := y.off + y.len
    let w0 := y.off / wb
    let w1 := if upto = d.rowLen then wordsOf net d.rowLen else upto / wb
    let n := w1 - w0
    let t := max t (m.reclock st g.next g.arc arc)
    let words := (List.range n).map fun k =>
      ({ unit := engUnit st e, seq := g.seq.getD 0, idx := w0 + k, bytes := slice row ((w0 + k) * wb) wb
         arc := arc, eng := if k + 1 = n then some (st, e, p) else none } : NetWord)
    let m := m.engWordGo j st st' q arc t words
    (n, m.modEngine st e fun x => { x with grants := fput x.grants i { g with next := t + n, arc := arc } })

/-- Ends the reading side of the pieces of a write: the first stands for them all, with its writes outstanding. -/
def Mach.engSent (m : Mach) (st e : Nat) (g : List (Nat × Piece)) (left : Nat) (due : Nat) (arc : Bool) : Mach :=
  match g with
  | [] => m
  | (p, y) :: rest =>
    let total := y.len + (rest.map fun z => z.2.len).sum
    let m := m.count (Reg.meBytes st e) total
    m.modEngine st e fun x => { x with
      pieces := fput (x.pieces.filter fun z => !(rest.any fun r => r.1 == z.1)) p
        { y with stage := if left = 0 then 3 else 2, left := left, due := due, arc := arc, data := [] }
      wdue := due, warc := arc }

/-- The bytes of a queue source's or a multicast's row up to the end of a piece: pieces of one row are held in order. -/
def Engine.rowBytes (x : Engine) (y : Piece) : Bytes :=
  match x.rowBuf with
  | some (run, row, bs, _) => if run = y.run ∧ row = y.row then bs else []
  | none => []

/-- Starts the write of a group of pieces, if what it needs is there. -/
def Mach.engWrite (m : Mach) (h : Nat) (j : Job) (st e : Nat) (d : XferDesc) (g : List (Nat × Piece)) : Option Mach :=
  match g with
  | [] => none
  | (p, y) :: _ =>
    let x := m.engine st e
    let arc := g.any fun z => z.2.arc
    let t := (g.map fun z => m.reclock st z.2.due z.2.arc arc).foldl max 0
    let after := fun due => max due (m.reclock st x.wdue x.warc arc)
    let segs := g.map fun z => (z.2.dst, z.2.data)
    let here := decide (t ≤ m.clock st arc)
    if d.dstKind = kErmus then
      let off := gaOffset y.dst
      if gaDevice y.dst ≠ m.deviceId then
        let parts := mergeSegs segs
        if here = false ∨ 1024 < m.remEntries st true + parts.length then none
        else
          let m := m.engSent st e g parts.length t arc
          some (parts.foldl (fun m s => (m.remIssue st { unit := 1 + e, op := opStore, size := s.2.length, addr := s.1,
                                                         job := h, piece := p } 0 s.2 s.2.length).rlsDrop st s.1) m)
      else if gaSpace y.dst = 1 then
        match m.ride (engUnit st e) arc t (m.wayTo j st y.dst) with
        | none => none
        | some (due, m) =>
          let due := after due
          let m := m.engSent st e g 1 due arc
          some ((m.engSlab st e p (spStn off) (spBay off) (segs.map fun s => (gaOffset s.1, s.2)) due arc).rlsDrop st y.dst)
      else
        let tt := m.timetabledFor (chanOf off) h
        match m.ride (engUnit st e) arc t (m.wayTo j st y.dst) with
        | none => none
        | some (due, m) =>
        let due := after due
        let m := m.engSent st e g 1 due arc
        some ((m.ddrPost { user := .engine st e p, write := true, off := off / 128 * 128
                           segs := segs.map fun s => (gaOffset s.1, s.2), job := some h
                           due := m.reclock st due arc (!tt), arc := !tt }).rlsDrop st y.dst)
    else if d.dstKind = kHost then
      if here = false then none
      else
        let parts := mergeSegs segs
        let open_ := bit (m.raw Reg.ilStatus) 0 && m.busMaster && m.dev.host.heldOut.isEmpty
        let m := m.engSent st e g (if open_ then 0 else parts.length) t arc
        some (parts.foldl (fun m s =>
          if open_ then m.hostWrite s.1 s.2
          else { m with dev := { m.dev with host := { m.dev.host with
              heldOut := m.dev.host.heldOut ++ [{ addr := s.1, data := s.2, st := st, eng := e, piece := p, job := h }] } } }) m)
    else
      let copies := m.engCopies st d y.row
      -- the row's bytes so far: a word of a queue may hold bytes of several pieces
      let row := splice (padTo y.off (x.rowBytes y)) y.off y.data
      let led := copies.all fun c => match c with
        | .slab _ b _ => (m.toBay j st b m.now).isSome
        | .queue _ st' q => (m.wayQueue j st st' q m.now).isSome
      if x.granted y copies = false ∨ led = false then none
      else
        let slabs := copies.filter fun c => match c with
          | .slab _ _ _ => true
          | _ => false
        let parts := slabs.flatMap fun c => match c with
          | .slab _ b a => (linesOf (a + y.off) y.len).map fun l => (b, l.1, slice y.data (l.1 - (a + y.off)) l.2)
          | _ => []
        let due := after (t + 2)
        let m := m.engSent st e g 1 due arc
        let m := parts.foldl
          (fun m s =>
            let (due, m) := (m.ride (engUnit st e) arc t (m.toBay j st s.1)).getD (t + m.legIn j s.1, m)
            m.engSlab st e p st s.1 [(s.2.1, s.2.2)] due arc) m
        let (n, m) := copies.foldl
          (fun (acc : Nat × Mach) c => match c with
            | .queue i st' q =>
              let (k, m) := acc.2.engWords j st e p i st' q d row y t arc
              (acc.1 + b2n (decide (0 < k)), m)
            | .slab _ _ _ => acc) (0, m)
        let left := n + parts.length
        let m := m.modEngine st e fun x => { x with
          rowBuf := if d.srcKind = kQueue then x.rowBuf else some (y.run, y.row, row, 0)
          pieces := x.pieces.map fun z =>
            if z.1 = p then (p, { z.2 with left := left, stage := if left = 0 then 3 else 2 }) else z }
        some m

/-- Starts the writes of the pieces that are held, in the order of the requests (R225): stops at the first that cannot
start. -/
def Mach.engPumpGo (h : Nat) (j : Job) (st e : Nat) : Nat → Mach → Mach
  | 0, m => m
  | fuel + 1, m =>
    let x := m.engine st e
    match x.pieces.find? fun z => z.2.stage < 2 with
    | none => m
    | some (p, y) =>
      match x.descs.find? fun d => d.id == y.run with
      | none => m
      | some ds =>
        if y.stage ≠ 1 then m
        else
          let d := m.xferDesc st ds
          let m := if 2 ≤ d.dstKind then m.engAsk j st e d y (m.engCopies st d y.row) y.due y.arc else m
          match gather x d ds.cut p y with
          | none => m
          | some g =>
            match m.engWrite h j st e d g with
            | none => m
            | some m => Mach.engPumpGo h j st e fuel m

/-- Starts what writes an engine can start. Writes of what came over an external leg go on through a freeze (R159). -/
def Mach.engPump (m : Mach) (st e : Nat) : Mach :=
  m.inEngine st e fun m =>
    match m.stnJob st with
    | none => m
    | some (h, j) =>
      let x := m.engine st e
      let m := if j.frozen && !(x.pieces.any fun z => z.2.arc) then m
        else Mach.engPumpGo h j st e (x.pieces.length + 1) m
      m.engRest st e

/-! ### Waits (R231) -/

/-- The cause of an endpoint's external leg: host or another device, DDR, or none of its own. -/
def Mach.legCause (m : Mach) (kind a : Nat) : Option Nat :=
  if kind = kHost then some 5
  else if kind = kErmus then (if gaDevice a ≠ m.deviceId then some 5 else if gaSpace a = 0 then some 4 else none)
  else none

/-- The cause under which a transfer waits for a grid slot: that of its external leg (R30, R231), and "remote" for one that
has none. -/
def Mach.slotCause (m : Mach) (d : XferDesc) (src dst : Nat) : Nat :=
  ((m.legCause d.srcKind src).orElse fun _ => m.legCause d.dstKind dst).getD 5

/-- The cause under which an engine that has issued what it can waits for a piece. -/
def Mach.pieceCause (m : Mach) (st e : Nat) (d : XferDesc) (y : Piece) : Nat :=
  if y.stage = 0 then (m.legCause d.srcKind y.src).getD 0
  else if 2 ≤ d.dstKind then
    if (m.engine st e).grants.any fun g => g.2.run == y.run && g.2.row == y.row && g.2.held then 2
    else if y.stage = 1 then m.slotCause d y.src y.dst else 0
  else (m.legCause d.dstKind y.dst).getD (if y.stage = 1 then m.slotCause d y.src y.dst else 0)

/-- Notes the wait of an engine: for its oldest piece, when it issues nothing more. -/
def Mach.engWait (m : Mach) (st e : Nat) : Mach :=
  let x := m.engine st e
  let u := engUnit st e
  match x.pieces.find? fun z => z.2.stage != 3 with
  | none => m.unwait u
  | some (_, y) =>
    match x.descs.find? fun d => d.id == y.run with
    | none => m.unwait u
    | some ds =>
      let full := (x.grants.find? fun g => g.2.run == y.run && g.2.row == y.row && g.2.held).bind fun g =>
        (m.engCopies st (m.xferDesc st ds) y.row).findSome? fun c => match c with
          | .queue i st' q => if i = g.1 then some (st' * 4096 + q) else none
          | .slab _ _ _ => none
      m.wait u { cause := m.pieceCause st e (m.xferDesc st ds) y, full := full }

/-! ### Issue (R225, R227, R235) -/

/-- The conditions of Table 14.1 that a piece of a transfer meets: Host-kind, or Ermus-kind to or from another device. -/
def Mach.flagPiece (m : Mach) (st e : Nat) (d : XferDesc) (y : Piece) : Mach :=
  let h := (m.engine st e).job
  let away := fun (kind a : Nat) => kind == kErmus && gaDevice a != m.deviceId
  let m := if away d.srcKind y.src || away d.dstKind y.dst then m.flagJob h fgRemote else m
  if d.srcKind = kHost ∨ d.dstKind = kHost then m.flagJob h fgHost else m

/-- Puts the next piece among those in flight and moves the place on; `y` is complete but for its number. -/
def Mach.engIssued (m : Mach) (st e : Nat) (ds : EngDesc) (d : XferDesc) (y : Piece) : Mach :=
  let cyc := m.cyc st
  (m.flagPiece st e d y).modEngine st e fun x =>
    let first := if x.count = 0 then cyc else x.first
    let count := x.count + 1
    let next := if d.pace = 0 then cyc + 1 else max (cyc + 1) (first + 19 * count / d.pace)
    let x := { x with
      pieces := fput x.pieces x.pieceNext y, pieceNext := x.pieceNext + 1, first := first, count := count, next := next
      curDesc := ds.desc }
    match d.nextPos y.row (y.off + y.len) with
    | some (r, o) => { x with row := r, off := o }
    | none =>
      let descs := x.descs.map fun z => if z.id = ds.id then { z with issued := true } else z
      { x with
        row := 0, off := 0, count := 0, next := cyc + 1
        lines := [], prevLine := if d.srcKind = kQueue then none else x.lines.getLast?
        descs := if d.last then descs else descs ++ [{ id := x.runNext, desc := d.next }]
        runNext := x.runNext + 1 }

/-- Sends the read of a source line for the piece to be numbered next (R235, R239, R274); `none` where it must wait for
an entry, or for one of the 768 host reads that may be outstanding (Table 13.1). -/
def Mach.engRead (m : Mach) (h : Nat) (j : Job) (st e : Nat) (d : XferDesc) (a : Nat) : Option (Piece → Piece × Mach) :=
  let p := (m.engine st e).pieceNext
  let cyc := m.cyc st
  let line := a / 128 * 128
  if d.srcKind = kHost then
    if 768 ≤ m.dev.host.reads.length then none else
    let tag := m.dev.host.readNext
    let m := { m with dev := { m.dev with host := { m.dev.host with
        reads := fput m.dev.host.reads tag (st, e, p), readNext := tag + 1 } } }
    some fun y => (y, m.emit (.hostRead tag line 128))
  else if gaDevice a = m.deviceId then
    let off := gaOffset line
    if gaSpace a = 0 then
      let tt := m.timetabledFor (chanOf off) h
      if (m.wayBack j st line m.now).isNone then none
      else
        (m.ride (engUnit st e) (!tt) (m.clock st (!tt)) (m.wayTo j st line)).map fun r y =>
          (y, r.2.ddrPost { user := .engine st e p, off := off, job := some h, due := r.1, arc := !tt })
    else if (m.wayBack j st line m.now).isNone then none
    else
      (m.ride (engUnit st e) false cyc (m.wayTo j st line)).map fun r y =>
        (y, r.2.slabPost (spStn off) (spBay off)
          { order := 1, sub := subEngine e, user := .engine st e p, addr := spAddr off, due := r.1, job := some h })
  else
    let load := fun (m : Mach) (fill : Bool) =>
      m.remIssue st { unit := 1 + e, op := opLoad, size := 128, addr := line, job := h, piece := p, fill := fill } 0 [] 128
    if d.rls then
      let bypass := bit (m.raw (Reg.rlsCtrl st)) 0
      let hit := if bypass then none else m.rlsHit st line
      match hit with
      | some (data, m) =>
        some fun y => ({ y with stage := 1, data := slice data (y.src - line) y.len, due := cyc + m.lat j Config.rlsHit },
          (m.stat (Reg.rlsHits st) 1).noteLate (engUnit st e) j Config.rlsHit (m.lat j Config.rlsHit))
      | none =>
        let pending := if bypass then none
          else m.dev.fills.find? fun f => f.1 / 65536 == st && f.2.addr == line && f.2.install
        match pending with
        | some (k, f) =>
          let m := { m with dev := { m.dev with fills := fput m.dev.fills k { f with waiters := f.waiters ++ [(e, p)] } } }
          some fun y => (y, m.stat (Reg.rlsMisses st) 1)
        | none =>
          if m.remFree st opLoad = false then none
          else
            let tag := m.remTag
            let m := m.stat (Reg.rlsMisses st) 1
            let m := { m with dev := { m.dev with
                fills := fput m.dev.fills (st * 65536 + tag) { addr := line, install := !bypass, waiters := [(e, p)] } } }
            some fun y => (y, load m true)
    else if m.remFree st opLoad = false then none
    else some fun y => (y, load m false)

/-- Whether a piece's addresses reach memory: the failing address if not. -/
def Mach.engBadAddr (m : Mach) (st : Nat) (d : XferDesc) (row off len : Nat) : Option Nat :=
  let a := d.srcAt row off
  let b := d.dstAt row off
  if d.srcKind = kErmus && !(m.engAddrOk a len) then some (a / 128 * 128)
  else if d.dstKind = kErmus && !(m.engAddrOk b len) then some (b / 128 * 128)
  else if d.dstKind = kMulti then
    (m.engCopies st d row).findSome? fun c => match c with
      | .slab _ b a => if slabSize < a + off + len then some (slabOff st b (a + off) / 128 * 128) else none
      | .queue _ _ _ => none
  else none

/-- A receiver that comes before the marshalling engines takes the message at a queue's head in this cycle (R171). -/
def Mach.takenBefore (m : Mach) (h : Nat) (j : Job) (st q : Nat) : Bool :=
  (m.muReads h j st q).isSome || (m.vuReads h st q).isSome || m.ptWants st q || m.combWants st q || m.sbWants st q

/-- An engine takes a piece from its source queue: the words of the row's message as they may be read, and the message with
the row's last bytes (R178, R180, R224). An uncorrectable word of the ring fails the engine (R122); else it waits (R231). -/
def Mach.engFromQueue (m : Mach) (h : Nat) (j : Job) (st e : Nat) (ds : EngDesc) (d : XferDesc) (y : Piece) : Mach :=
  let q := d.src % 4096
  let u := engUnit st e
  let n := y.off + y.len
  let p := (m.engine st e).pieceNext
  let go := fun (m : Mach) =>
    match (m.engine st e).rowBuf with
    | some (_, _, bs, due) =>
      (((m.clearStall h u q).unwait u).engIssued st e ds d
        { y with stage := 1, data := slice bs y.off y.len, due := max (m.cyc st) due }).work st
    | none => m
  if (m.engine st e).rowBuf.any fun b => b.1 == ds.id && b.2.1 == y.row && decide (n ≤ b.2.2.1.length) then go m
  else if m.takenBefore h j st q then m
  else
    match m.ride u false (m.cyc st) (m.toRouter j st (m.qBay st q)) with
    | none => m.wait u { cause := m.slotCause d y.src y.dst }
    | some (due, moved) =>
      let late := ((m.toRouter j st (m.qBay st q) m.now).map (·.late)).getD 0
      let carry := fun (m : Mach) =>
        ({ m with dev := { m.dev with gridUsed := moved.dev.gridUsed } } : Mach).noteResult u late due
      let hold := fun (m : Mach) (bs : Bytes) =>
        go (m.modEngine st e fun x => { x with rowBuf := some (ds.id, y.row, bs, due) })
      let lack := fun (m : Mach) (need : Nat) =>
        match (m.queue st q).bad, (m.queue st q).unread with
        | some w, 0 => m.engFail h st e p causeSlab ds.id y.row (slabOff st (m.qBay st q) w)
        | _, _ => m.waitQueue h u q false 0 need
      if n = d.rowLen then
        match m.take st q true with
        | (some (bs, _), m) => let (bs, m) := m.fixLength st n bs; hold (carry m) bs
        | (none, m) => lack m 0
      else
        match m.readTo st q n true with
        | (true, m) =>
          hold { m with dev := { m.dev with gridUsed := moved.dev.gridUsed } }
            (padTo n (m.headBytes st q (min n (m.headMsg st q).1)))
        | (false, m) => lack m n

/-- An engine issues its next piece, if it may in this cycle (R225). With `only`, it may read only from that queue. -/
def Mach.engIssue (m : Mach) (h : Nat) (j : Job) (st e : Nat) (only : Option Nat) : Mach :=
  let x := m.engine st e
  let cyc := m.cyc st
  match x.descs.getLast? with
  | none => m
  | some ds =>
    if x.busy = false ∨ x.halted ∨ ds.issued ∨ cyc < x.next then m
    else
      let d := m.xferDesc st ds
      let q := d.src % 4096
      let len := d.pieceLen x.row x.off
      -- every copy of the line before must have been admitted or stored (R228)
      let copying := d.dstKind = kMulti && x.pieces.any fun z => z.2.run == ds.id && (decide (z.2.stage < 2) ||
        m.dev.slabPort.any fun s => s.2.reqs.any fun r => r.user == .engine st e z.1)
      if copying ∨ (only.isSome ∧ (d.srcKind ≠ kQueue ∨ only ≠ some q)) then m
      else
        match m.engBadAddr st d x.row x.off len with
        | some a => m.engFail h st e x.pieceNext causeAddr ds.id x.row a
        | none =>
          let a := d.srcAt x.row x.off
          let y : Piece := { run := ds.id, row := x.row, off := x.off, src := a, dst := d.dstAt x.row x.off, len := len
                             rd := x.pieceNext }
          if d.srcKind = kQueue then m.engFromQueue h j st e ds d y
          else
            let line := a / 128 * 128
            let first := x.count = 0
            let same := ((if first && d.merge then x.prevLine.toList else []) ++ x.lines).find? fun l =>
              l.kind == d.srcKind && l.line == line
            let use := fun (l : SrcLine) (m : Mach) => m.modEngine st e fun x => { x with
              lines := (x.lines.filter fun z => !(z.kind == l.kind && z.line == l.line)) ++ [l] }
            match same with
            | some l =>
              let m := if first then m.stat (Reg.meMerged st e) 1 else m
              let y := match l.data with
                | some bs => { y with stage := 1, data := slice bs (a - line) len, due := cyc, rd := l.rd }
                | none => { y with rd := l.rd }
              (((use l m).unwait (engUnit st e)).engIssued st e ds d y).work st
            | none =>
              match m.engRead h j st e d a with
              | none => m.wait (engUnit st e) { cause := m.slotCause d a y.dst }
              | some f =>
                let (y, m) := f y
                let held := if y.stage = 1 then ((m.rlsSet st line).find? fun r => r.addr == line).map (·.data) else none
                let m := use { kind := d.srcKind, line := line, rd := x.pieceNext, data := held } m
                ((m.unwait (engUnit st e)).engIssued st e ds d y).work st

/-- ENGINE_REQUEST: an engine issues its next piece; what it holds is written; an engine that can do neither waits. -/
def effEngineRequest (st e : Nat) (m : Mach) : Mach :=
  match m.liveJob st with
  | none => m.engPump st e
  | some (h, j) =>
    let n := (m.engine st e).pieceNext
    let m := (m.engIssue h j st e none).engPump st e
    let x := m.engine st e
    if x.pieceNext = n ∧ x.next ≤ m.cyc st ∧ (ffind m.dev.waits (waitKey (engUnit st e))).isNone then m.engWait st e
    else m

/-! ### Starts and completions (R226, R230) -/

/-- ENGINE_START: a start reaches an idle engine; one that has stopped on an error takes none. -/
def effEngineStart (st e : Nat) (m : Mach) : Mach :=
  match m.liveJob st with
  | none => m
  | some (h, _) =>
    let x := m.engine st e
    if x.busy ∨ x.halted then m
    else
      match m.takeStart st 2 e with
      | (none, m) => m
      | (some s, m) =>
        let ovr := (m.xferDesc st { desc := s.idx }).ovr
        m.modEngine st e fun x => { x with
          busy := true, job := h, row := 0, off := 0, count := 0, next := m.cyc st, curDesc := s.idx, grants := []
          descs := [{ id := x.runNext, desc := s.idx, addSrc := if ovr = 1 then s.ovr else 0
                      addDst := if ovr = 2 then s.ovr else 0 }]
          runNext := x.runNext + 1 }

/-- Signals the token of a completed descriptor: SIG by 1 in the cycle after completion (R226). -/
def Mach.engSignal (m : Mach) (h : Nat) (j : Job) (st e : Nat) (d : XferDesc) : Mach :=
  if d.signal = false then m
  else
    match m.tokDecl j st d.token with
    | none => m
    | some t =>
      m.tokSend j st t.st { slot := t.slot, kind := 0, src := 1 + e, val := 1, job := h } (engUnit st e) 1

/-- DESCRIPTOR_COMPLETE: the oldest descriptor of an engine completes once each of its writes has taken effect; after
one with END the engine is idle (R226, R230). -/
def effDescriptorComplete (st e : Nat) (m : Mach) : Mach :=
  match m.liveJob st with
  | none => m.engPump st e
  | some (h, j) =>
    let m := m.engPump st e
    let x := m.engine st e
    match x.descs with
    | [] => m
    | ds :: rest =>
      let mine := x.pieces.filter fun z => z.2.run == ds.id
      if ds.issued && mine.all fun z => z.2.stage == 3 && decide (z.2.due ≤ m.clock st z.2.arc) then
        let d := m.xferDesc st ds
        let m := m.setEngine st e { x with
          descs := rest, pieces := x.pieces.filter fun z => z.2.run != ds.id, busy := x.busy && !(d.last && ds.cut.isNone) }
        let m := if ds.cut.isSome then m else m.engSignal h j st e d
        let m := if d.last && ds.cut.isNone then (m.unwait (engUnit st e)).unitDone j st 2 e Config.meDone else m
        (m.engRest st e).work st
      else m

/-- The engines of a station when its job has left it (R232). -/
def Mach.engReset (m : Mach) (st e : Nat) : Mach :=
  (m.modEngine st e fun x => { curDesc := x.curDesc, pieceNext := x.pieceNext, runNext := x.runNext }).unwaitAll (engUnit st e)

/-! ### Status (Table 9.9) -/

/-- ST_MEe_STATUS. -/
def Mach.meStatusValue (m : Mach) (st e : Nat) : Nat :=
  let x := m.engine st e
  let w := ffind m.dev.waits (waitKey (engUnit st e))
  pack [(0, 1, b2n x.busy), (1, 1, b2n (ffind (m.sb st).pend (startKey 2 e)).isSome), (2, 1, b2n x.error),
    (3, 1, b2n w.isSome), (4, 3, (w.map (·.cause)).getD 0), (7, 9, x.curDesc)]

/-! ### Signal-box operations (Table 9.2) -/

/-- MGO. -/
def effSbMgo (st : Nat) (m : Mach) : Mach :=
  m.sbRun st 0x28 (fun _ => []) fun _ j i m =>
    m.sbStartUnit j st 2 (insImm i % 8) (bits (insImm i) 11 3) 0 Config.meStart

/-- MGOR. -/
def effSbMgor (st : Nat) (m : Mach) : Mach :=
  m.sbRun st 0x29 (fun i => [insB i]) fun _ j i m =>
    m.sbStartUnit j st 2 (insImm i % 8) (bits (insImm i) 11 3) ((m.sb st).reg (insB i)) Config.meStart

/-- MJOIN. -/
def effSbMjoin (st : Nat) (m : Mach) : Mach :=
  m.sbRun st 0x2A (fun _ => []) fun _ _ i m =>
    if m.unitJoined st 2 (insImm i % 8) then m.sbWaited st else m.wait (sbUnit st) { cause := 6 }

/-- MSTAT. -/
def effSbMstat (st : Nat) (m : Mach) : Mach :=
  m.sbRun st 0x2B (fun _ => []) fun _ j i m =>
    (m.sbWrite j st (insD i) (m.meStatusValue st (insImm i % 8)) Config.sbAlu).sbDone st

/-! ### Fills of the remote line store -/

/-- RLS_FILL: a fill that has returned is installed, unless the store was invalidated or bypassed meanwhile, and
delivered to the requests that wait for it (R235, R236). -/
def effRlsFill (st tag : Nat) (m : Mach) : Mach :=
  let k := st * 65536 + tag
  match ffind m.dev.fills k with
  | none => m
  | some f =>
    match f.data with
    | none => m
    | some data =>
      let m := { m with dev := { m.dev with fills := fdel m.dev.fills k } }
      let m := if f.install then m.rlsInstall st f.addr data else m
      f.waiters.foldl (fun m w => (m.engData st w.1 w.2 f.addr data m.now true).engPump st w.1) m

/-! ### The commands -/

def execSbMgo (st : Nat) (s : State) := act .run (.sbMgo st) s (effSbMgo st)
def execSbMgor (st : Nat) (s : State) := act .run (.sbMgor st) s (effSbMgor st)
def execSbMjoin (st : Nat) (s : State) := act .run (.sbMjoin st) s (effSbMjoin st)
def execSbMstat (st : Nat) (s : State) := act .run (.sbMstat st) s (effSbMstat st)
/-- Acts for the job before on a station where a start of it to an engine is on its way (R327). -/
def Mach.inStart (m : Mach) (st e : Nat) (f : Mach → Mach) : Mach :=
  m.asOld st ((m.stn st).prev.any fun p => p.sb.starts.any fun x => x.kind == 2 && x.unit == e) f

/-- After an engine's work for the job before, a start of the present job that waits for it is let go. -/
def Mach.engHandover (m : Mach) (st e : Nat) (f : Mach → Mach) : Mach :=
  let old := m.unitOld st 2 e
  let m := m.inEngine st e f
  if old && !m.unitOld st 2 e then m.releasePend st 2 e else m

def execEngineStart (st e : Nat) (s : State) := act .run (.engineStart st e) s fun m =>
  m.inStart st e (effEngineStart st e)
def execEngineRequest (st e : Nat) (s : State) := act .run (.engineRequest st e) s fun m =>
  m.inEngine st e (effEngineRequest st e)
def execDescriptorComplete (st e : Nat) (s : State) := act .run (.descriptorComplete st e) s fun m =>
  m.engHandover st e (effDescriptorComplete st e)
def execRlsFill (st tag : Nat) (s : State) := act .run (.rlsFill st tag) s (effRlsFill st tag)

end Sys2Proof.Machine
end

