-- ==== Sys2Proof/Machine/Rings.lean ====
section
/-! DEFINITION. Command rings, replies, and the event ring (R345 to R350, R361 to R365): fetching, the gates that every
command passes before its own checks, and the reply. -/

namespace Sys2Proof.Machine
open Sys2Proof

/-! ### Status codes (Table 13.9) -/
def scOk : Nat := 0
def scNotReady : Nat := 1
def scStale : Nat := 2
def scBusy : Nat := 0x10
def scBadParam : Nat := 0x11
def scVersion : Nat := 0x12
def scFrame : Nat := 0x20
def scRegion : Nat := 0x21
def scLatency : Nat := 0x22
def scSignature : Nat := 0x23
def scInterlock : Nat := 0x24
def scDrain : Nat := 0x30
def scMiss : Nat := 0x40
def scAbort : Nat := 0x41
def scFault : Nat := 0x50
def scPoisoned : Nat := 0x51

/-- Opcodes of the commands (Table 13.7). -/
def opcodes : List Nat :=
  [0x01, 0x02, 0x10, 0x20, 0x21, 0x22, 0x30, 0x40, 0x41, 0x42, 0x50, 0x51, 0x60, 0x61, 0x62, 0x70, 0x80, 0x81, 0x90, 0xA0,
   0xB0]

/-- DETAIL of a BUSY_CONFLICT: opcode, activity code and target (Table 13.9). -/
def busyDetail (op activity target : Nat) : Nat := pack [(0, 16, op), (16, 8, activity), (32, 32, target)]

/-! ### Rings -/

def Mach.ring (m : Mach) (r : Nat) : Ring := fget {} m.dev.host.rings r
def Mach.setRing (m : Mach) (r : Nat) (x : Ring) : Mach :=
  { m with dev := { m.dev with host := { m.dev.host with rings := fput m.dev.host.rings r x } } }

/-- Entries of a ring. -/
def Mach.ringSize' (m : Mach) (r : Nat) : Nat := 2 ^ bits (m.raw (Reg.ringCtrl r)) 4 1
def Mach.ringHead (m : Mach) (r : Nat) : Nat := bits (m.raw (Reg.ringStatus r)) 11 0
/-- ENABLE is 1 and the ring has not stopped. -/
def Mach.ringRuns (m : Mach) (r : Nat) : Bool := bit (m.raw (Reg.ringCtrl r)) 0 && !bit (m.raw (Reg.ringStatus r)) 15

/-- Stops a ring (Table 13.20). A command in progress goes on to its reply (R346, R347). -/
def Mach.ringStop (m : Mach) (r cause : Nat) : Mach :=
  (m.setBit (Reg.ringStatus r) 15).setField (Reg.ringStatus r) 18 16 cause

/-- A ring with a pending command and none in progress, which may be fetched (R346, R347, R405). -/
def Mach.ringPending (m : Mach) (r : Nat) : Bool :=
  m.ringRuns r && (m.ring r).cmd.isNone && m.ringHead r != (m.ring r).tail && (m.dev.boot.fw || r == 0)

/-- The ring whose turn it is: the first pending one after the ring fetched last (R347). -/
def Mach.ringTurn (m : Mach) : Option Nat :=
  ((List.range 16).map fun i => (m.dev.host.lastRing + 1 + i) % 16).find? m.ringPending

/-- Parameter word i of a command. -/
def Cmd.p (c : Cmd) (i : Nat) : Nat := ((c.params[i]?).map (·.toNat)).getD 0

/-- Writes the reply of the command in progress: two posted writes, then the vector (R349, R365). Without Bus Master
Enable the reply cannot be issued, and the ring stops. -/
def Mach.reply (m : Mach) (r status detail value : Nat) : Mach :=
  match (m.ring r).cmd with
  | none => m
  | some c =>
    let x := m.ring r
    let m := m.setRing r { x with cmd := none, wrote := x.wrote || c.entry == 0 }
    let m := m.setField (Reg.ringStatus r) 12 12 0
    if m.busMaster = false then m.ringStop r 4
    else
      let st := m.raw (Reg.ringStatus r)
      let phase := if c.entry = 0 ∧ x.wrote then !bit st 13 else bit st 13
      let m := m.setField (Reg.ringStatus r) 13 13 (b2n phase)
      let a := m.raw (Reg.ringRplBase r) + 32 * c.entry
      let m := m.hostWrite a (toLe 2 status ++ toLe 2 c.opcode ++ toLe 4 c.tag ++ toLe 8 detail ++ toLe 8 value ++ zeros 4)
      let m := m.hostWrite (a + 28) (toLe 4 (pack [(0, 12, c.entry), (31, 1, b2n phase)]))
      if c.irq then m.msix (bits (m.raw (Reg.ringCtrl r)) 10 5) else m

/-- Replies that refuse a command. -/
def Mach.refuse (m : Mach) (r status detail : Nat) : Mach := m.reply r status detail 0
/-- A reply of OK with a value. -/
def Mach.accept (m : Mach) (r value : Nat) : Mach := m.reply r scOk 0 value
/-- BAD_PARAM: DETAIL is the byte offset of parameter word i in the packet. -/
def Mach.badParam (m : Mach) (r i : Nat) : Mach := m.refuse r scBadParam (16 + 8 * i)

/-- BAD_PARAM for the field of parameter word i that begins at bit `lo`. -/
def Mach.badField (m : Mach) (r i lo : Nat) : Mach := m.refuse r scBadParam (16 + 8 * i + lo / 8)

/-- The command in progress has begun; its reply comes from a later event. -/
def Mach.begin (m : Mach) (r : Nat) : Mach :=
  let x := m.ring r
  m.setRing r { x with cmd := x.cmd.map fun c => { c with begun := true } }

/-! ### Gates -/

/-- DDR has trained, and the wipe that a start owes is done (R400, R408). -/
def Mach.ddrReady (m : Mach) : Bool := bit (m.raw 0x2100) 16 && !m.dev.boot.training

/-- Commands that need DDR space (R400). -/
def needsDdr (op : Nat) : Bool := op == 0x20 || op == 0x21 || op == 0x30 || op == 0x40 || op == 0x62 || op == 0xB0

/-- Commands that a 2.x interface does not have (Table 13.12). -/
def needsV3 (op : Nat) : Bool := op == 0x21 || op == 0x62 || op == 0x90 || op == 0xA0

/-- The negotiated version, 0 for none. -/
def Mach.version (m : Mach) : Nat := bits (m.raw Reg.coIfVersion) 15 0

/-- SEC_BOOT_STATUS.STAGE is FAILED (R409). -/
def Mach.bootFailed (m : Mach) : Bool := bits (m.raw Reg.secBootStatus) 1 0 == 3

/-- The status of a command that may not run as things stand: in the boot ROM (R405, R409), before a NEGOTIATE (R351),
before DDR is ready (R400), or under an interface version without it (Table 13.12). -/
def Mach.gate (m : Mach) (op : Nat) : Option Nat :=
  if m.dev.boot.fw = false then
    if op = 2 ∨ (op = 0x10 ∧ m.bootFailed = false) then none else some scNotReady
  else if op = 1 ∨ op = 2 ∨ op = 0x10 then none
  else if m.version = 0 then some scNotReady
  else if needsDdr op && !m.ddrReady then some scNotReady
  else if needsV3 op && decide (m.version < 0x300) then some scVersion
  else none

/-! ### The order of commands in progress (R347) -/

/-- What a command acts on (log 93). -/
inductive CmdObject where
  | job (h : Nat)
  | consist (c : Nat)
  | window (w : Nat)
  | station (n : Nat)
  | channel (c : Nat)
  | port (l : Nat)
  | activity (code : Nat)
  | opcode (op : Nat)
  deriving DecidableEq, Repr

/-- The objects of a maintenance activity (Table 13.11). -/
def activityObjects (code target : Nat) : List CmdObject :=
  match code with
  | 2 => (maskBits target 16).map .station
  | 3 => (maskBits target 16).map .channel
  | 4 => [.channel target]
  | 5 => [.port target]
  | _ => [.activity code]

/-- The objects of a command. -/
def Mach.objects (m : Mach) (c : Cmd) : List CmdObject :=
  match c.opcode with
  | 0x20 => [.opcode 0x20]
  | 0x21 => [.opcode 0x20, .consist (c.p 2 % 64)]
  | 0x22 => [.consist (c.p 0 % 64)]
  | 0x40 => .consist (c.p 0 % 64) :: if bit (c.p 0) 8 then [.window (bits (c.p 0) 18 11)] else []
  | 0x41 => [.job (c.p 0 % 4096)]
  | 0x42 => .job (c.p 0 % 4096) :: (((m.job (c.p 0 % 4096)).bind (·.window)).toList.map .window)
  | 0x50 | 0x62 => (maskBits (c.p 0) 16).map .station
  | 0x60 | 0x61 => activityObjects (bits (c.p 0) 7 0) (bits (c.p 0) 31 16)
  | 0x70 =>
    let i := bits (c.p 0) 15 8
    match c.p 0 % 8 with
    | 0 => [.station i]
    | 1 => (List.range 4).map fun k => .channel (4 * i + k)
    | 2 => (m.logPort i).toList.map .port
    | _ => []
  | 0x80 | 0x81 => [.port (c.p 0 % 8)]
  | op => [.opcode op]

/-- The DDR range that a command writes: that of WIPE and of SAMPLE_SCRATCHPAD. -/
def Cmd.writes (c : Cmd) : Nat × Nat :=
  if c.opcode = 0xB0 then (if bit (c.p 0) 0 then (0, 2 ^ 64) else (c.p 1, c.p 1 + c.p 2))
  else if c.opcode = 0x62 then
    let n := bits (c.p 1) 39 20
    (c.p 2, c.p 2 + 256 * (if n = 0 then 4096 else n) * popCount (c.p 0) 16)
  else (0, 0)

/-- Whether two commands act on the same object. -/
def Mach.sameObject (m : Mach) (a b : Cmd) : Bool :=
  ((m.objects a).any fun x => (m.objects b).contains x)
    || (decide (a.writes.1 < b.writes.2) && decide (b.writes.1 < a.writes.2))

/-- Whether the command `c` of ring `r` waits for one on the same object that was fetched before and has not begun:
commands in progress on one object take effect in fetch order. -/
def Mach.waitsTurn (m : Mach) (r : Nat) (c : Cmd) : Bool :=
  m.dev.host.rings.any fun e => e.1 != r && e.2.cmd.any fun d =>
    !d.begun && decide (d.order < c.order) && m.sameObject d c

/-- A command's own effect, once it is in progress, its turn has come and it has passed the gates. -/
def Mach.command (m : Mach) (r op : Nat) (f : Cmd → Mach → Mach) : Mach :=
  match (m.ring r).cmd with
  | none => m
  | some c =>
    if c.opcode ≠ op ∨ c.begun ∨ m.waitsTurn r c then m
    else
      match m.gate op with
      | some s => m.refuse r s 0
      | none => f c m

/-! ### Fetching -/

/-- The bits that each parameter word of a command may carry (Tables 13.7 and 13.10); a word that is not named is
reserved. -/
def paramMasks (op : Nat) : List Nat :=
  let w := 2 ^ 64 - 1
  match op with
  | 0x01 => [0xFFFFFFFF]
  | 0x02 => [w]
  | 0x10 => [w, w]
  | 0x20 => [w, w, w, w, 0x1FF, w]
  | 0x21 => [w, w, 0x3F]
  | 0x22 => [0x3F]
  | 0x30 => [w, w]
  | 0x40 => [0x3FFFFFF, w, w, 0xFFFFFFFF, w]
  | 0x41 => [0xFFF]
  | 0x42 => [0xFFF, w]
  | 0x50 => [0xFFFF, w]
  | 0x51 => [w, w, w]
  | 0x60 => [0xFFFF00FF]
  | 0x61 => [0xFFFF00FF]
  | 0x62 => [0xFFFF, 0xFFFFFFFFFF, w]
  | 0x70 => [0xFF07]
  | 0x80 => [0x7, 0xFFFFF]
  | 0x81 => [0x37]
  | 0x90 => [w, w, w]
  | 0xA0 => [0x3, w]
  | 0xB0 => [0x1, w, w]
  | _ => []

/-- The byte offset of the first reserved field of a packet that is not 0: FLAGS, the bytes after PLEN, and the bits of
the parameter words that no field takes (R348, R350; log 22). -/
def reservedAt (op : Nat) (b : Bytes) (params : List W64) : Option Nat :=
  if 2 ≤ leNat b 2 2 then some 2
  else if leNat b 10 6 ≠ 0 then some 10
  else
    (List.range 6).findSome? fun i =>
      let mask := nth 0 (paramMasks op) i
      let v := (nth 0 params i).toNat
      (lowest 64 fun k => bit v k && !bit mask k).map fun k =>
        let lo := ((List.range (k + 1)).reverse.takeWhile fun n => !bit mask n).getLast?.getD k
        16 + 8 * i + lo / 8


/-- A command packet (Table 13.5). Parameter words beyond PLEN read as 0. -/
def parseCmd (b : Bytes) (entry order : Nat) : Cmd :=
  let plen := leNat b 8 2
  { opcode := leNat b 0 2, irq := bit (leNat b 2 2) 0, tag := leNat b 4 4, plen := plen, entry := entry, order := order
    params := (List.range 6).map fun i => BitVec.ofNat 64 (if 8 * i < plen then leNat b (16 + 8 * i) 8 else 0) }

/-- COMMAND_FETCH: the Control Office fetches the next command of the ring whose turn it is. A failed read stops the
ring. A reserved opcode, or a PLEN that is not 0 to 48 in steps of 8, gives BAD_PARAM (R346 to R350). -/
def effCommandFetch (r : Nat) (packet : HostData) (m : Mach) : Mach :=
  if m.ringTurn ≠ some r ∨ m.busMaster = false then m
  else
    let m := { m with dev := { m.dev with host := { m.dev.host with lastRing := r } } }
    match packet with
    | none => m.ringStop r 2
    | some b =>
      let entry := m.ringHead r
      let c := parseCmd b entry m.dev.host.fetches
      let m := { m with dev := { m.dev with host := { m.dev.host with fetches := m.dev.host.fetches + 1 } } }
      let m := m.setRing r { m.ring r with cmd := some c }
      let m := (m.setField (Reg.ringStatus r) 11 0 ((entry + 1) % m.ringSize' r)).setBit (Reg.ringStatus r) 12
      -- a LOAD_FIRMWARE fetched in time meets the load deadline (R406)
      let m := if c.opcode = 0x10 then { m with dev := { m.dev with boot := { m.dev.boot with fetched := true } } } else m
      match m.gate c.opcode with
      | some s => m.refuse r s 0
      | none =>
        if 48 < c.plen ∨ c.plen % 8 ≠ 0 then m.refuse r scBadParam 8
        else if opcodes.contains c.opcode = false then m.refuse r scBadParam 0
        else
          match reservedAt c.opcode b c.params with
          | some off => m.refuse r scBadParam off
          | none => m

/-- DOORBELL_WRITE (R346). -/
def effDoorbellWrite (r : Nat) (v : W32) (m : Mach) : Mach :=
  let t := v.toNat % 4096
  if m.bar0Open (Reg.doorbell r) = false ∨ m.ringRuns r = false then m
  else if m.ringSize' r ≤ t then m.ringStop r 1
  else m.setRing r { m.ring r with tail := t }

/-- RING_CTRL_WRITE (R345): ENABLE is taken as it stands before the write. -/
def effRingCtrlWrite (r : Nat) (v : W32) (m : Mach) : Mach :=
  let old := m.raw (Reg.ringCtrl r)
  let new := v.toNat % 2 ^ 11
  if m.bar0Open (Reg.ringCtrl r) = false then m
  else if bit old 0 then
    let m := m.setRaw (Reg.ringCtrl r) (setBits new 4 1 (bits old 4 1))
    if bits new 4 1 ≠ bits old 4 1 then m.setBit (Reg.ringStatus r) 14 else m
  else
    let m := m.setRaw (Reg.ringCtrl r) new
    if bit new 0 = false then m
    else
      let keep := m.raw (Reg.ringStatus r)
      let m := m.setRing r { cmd := (m.ring r).cmd }
      let m := m.setRaw (Reg.ringStatus r) (pack [(12, 1, b2n (m.ring r).cmd.isSome), (13, 1, 1), (14, 1, b2n (bit keep 14))])
      if bits new 4 1 < 4 ∨ 12 < bits new 4 1 then m.ringStop r 3 else m

/-! ### Events (R361 to R364) -/

/-- Entries of the event ring, and records not yet consumed. -/
def Mach.evqSize (m : Mach) : Nat := 2 ^ bits (m.raw Reg.evqCtrl) 4 1
def Mach.evqHeld (m : Mach) : Nat :=
  (bits (m.raw Reg.evqStatus) 11 0 + m.evqSize - bits (m.raw Reg.evqHead) 11 0) % m.evqSize

/-- FULL of CO_EVQ_STATUS: the ring is on and holds all the records that it can (R363; log 92). -/
def Mach.evqFull (m : Mach) : Mach :=
  m.setField Reg.evqStatus 12 12 (b2n (bit (m.raw Reg.evqCtrl) 0 && decide (m.evqHeld = m.evqSize - 1)))

/-- The event that the arbiter takes next: the earliest, and in one cycle the lowest ADDR, then BIT (R362). -/
def evKey (e : Event) : Nat := (e.due * 2 ^ 26 + e.addr) * 64 + e.bit

/-- The 32 bytes of an event record (Table 13.17). -/
def eventRecord (e : Event) (now seq : Nat) (lost phase : Bool) : Bytes :=
  toLe 4 (pack [(0, 26, e.addr), (26, 6, e.bit)]) ++ toLe 4 e.ctx ++ toLe 8 now ++ toLe 8 seq ++ toLe 4 e.info ++
    toLe 4 (pack [(30, 1, b2n lost), (31, 1, b2n phase)])

/-- EVENT_TAKEN: the arbiter takes one event: EVSEQ advances; the record is written, or dropped while the ring is off or
full. While Bus Master Enable is 0, records wait (R379). -/
def effEventTaken (m : Mach) : Mach :=
  match leastBy evKey m.dev.host.events with
  | none => m
  | some e =>
    let ctl := m.raw Reg.evqCtrl
    let live := bit ctl 0 && !bit (m.raw Reg.evqStatus) 14
    if live && !m.busMaster then m
    else
      let seq := m.dev.host.evSeq + 1
      let m := { m with dev := { m.dev with host := { m.dev.host with
          events := removeFirst (· == e) m.dev.host.events, evSeq := seq } } }
      if live = false then m
      else if m.evqHeld = m.evqSize - 1 then
        let m := (m.setBit Reg.evqStatus 12).stat Reg.evLost 1
        { m with dev := { m.dev with host := { m.dev.host with evLost := true } } }
      else
        let w := bits (m.raw Reg.evqStatus) 11 0
        let m := m.hostWrite (m.raw Reg.evqBase + 32 * w) (eventRecord e m.now seq m.dev.host.evLost m.dev.host.evPhase)
        let m := (m.setField Reg.evqStatus 11 0 ((w + 1) % m.evqSize)).evqFull
        let m := { m with dev := { m.dev with host := { m.dev.host with
            evLost := false, evPhase := if w + 1 = m.evqSize then !m.dev.host.evPhase else m.dev.host.evPhase } } }
        m.msix (bits ctl 10 5)

/-- EVQ_CTRL_WRITE (R364). -/
def effEvqCtrlWrite (v : W32) (m : Mach) : Mach :=
  let old := m.raw Reg.evqCtrl
  let new := v.toNat % 2 ^ 11
  if m.bar0Open Reg.evqCtrl = false then m
  else if bit old 0 then
    let m := m.setRaw Reg.evqCtrl (setBits new 4 1 (bits old 4 1))
    let m := if bit new 0 then m else m.setField Reg.evqStatus 12 12 0
    if bits new 4 1 ≠ bits old 4 1 then m.setBit Reg.evqStatus 13 else m
  else if bit new 0 = false then m.setRaw Reg.evqCtrl new
  else if bits new 4 1 < 4 ∨ 12 < bits new 4 1 then
    (m.setRaw Reg.evqCtrl (setBits new 0 0 0)).setBit Reg.evqStatus 14
  else
    let m := m.setRaw Reg.evqCtrl new
    let m := (m.setRaw Reg.evqHead 0).setRaw Reg.evqStatus (m.raw Reg.evqStatus &&& 0x2000)
    { m with dev := { m.dev with host := { m.dev.host with evPhase := true } } }

/-- EVQ_HEAD_WRITE: HEAD may not pass records that are not written (R364). -/
def effEvqHeadWrite (v : W32) (m : Mach) : Mach :=
  let h := v.toNat % 4096
  let size := m.evqSize
  let head := bits (m.raw Reg.evqHead) 11 0
  if m.bar0Open Reg.evqHead = false then m
  else if h < size ∧ (h + size - head) % size ≤ m.evqHeld then
    (m.setRaw Reg.evqHead h).evqFull
  else m.setBit Reg.evqStatus 13

/-- FAULT_HEAD_WRITE: the same rule with 64 records. -/
def effFaultHeadWrite (v : W32) (m : Mach) : Mach :=
  let h := v.toNat % 64
  let head := m.raw Reg.faultHead % 64
  let w := bits (m.raw Reg.faultStatus) 5 0
  if m.bar0Open Reg.faultHead = false then m
  else if (h + 64 - head) % 64 ≤ (w + 64 - head) % 64 then (m.setRaw Reg.faultHead h).setField Reg.faultStatus 6 6 (b2n ((w + 64 - h) % 64 == 63))
  else m.setBit Reg.faultStatus 7

/-! ### The commands -/

def execCommandFetch (r : Nat) (p : HostData) (s : State) := act .run (.commandFetch r p) s (effCommandFetch r p)
def execDoorbellWrite (r : Nat) (v : W32) (s : State) := act .run (.doorbellWrite r v) s (effDoorbellWrite r v)
def execRingCtrlWrite (r : Nat) (v : W32) (s : State) := act .run (.ringCtrlWrite r v) s (effRingCtrlWrite r v)
def execEventTaken (s : State) := act .run .eventTaken s effEventTaken
def execEvqCtrlWrite (v : W32) (s : State) := act .run (.evqCtrlWrite v) s (effEvqCtrlWrite v)
def execEvqHeadWrite (v : W32) (s : State) := act .run (.evqHeadWrite v) s (effEvqHeadWrite v)
def execFaultHeadWrite (v : W32) (s : State) := act .run (.faultHeadWrite v) s (effFaultHeadWrite v)

end Sys2Proof.Machine
end

