-- ==== Sys2Proof/Machine/Ddr.lean ====
section
/-! DEFINITION. The DDR5 channels (chapter 09): timetabled and reordering service, the symbol code's outcomes, refresh
gaps, write-backs, patrol scrub, retraining and training, and BAR2 accesses (R237 to R252, R343, R395, R400). -/

namespace Sys2Proof.Machine
open Sys2Proof

/-! ### Requests at a port -/

/-- Whether a request has reached its port. -/
def Mach.reqReached (m : Mach) (r : DdrReq) : Bool :=
  if r.arc then r.due ≤ m.now else r.due ≤ ((r.job.bind m.job).map (·.cyc)).getD 0

/-- The requests of a channel in order of arrival. -/
def reqOrder (r : DdrReq) : Nat := r.due * 2 ^ 32 + r.age

/-- Consist time of the job that a channel serves. -/
def Mach.chCyc (m : Mach) (ch : DdrCh) : Nat := ((ch.job.bind m.job).map (·.cyc)).getD 0

/-- Whether consist cycle t lies in a refresh gap of a rank (R247). -/
def inGap (p phi gap rank t : Nat) : Bool :=
  p != 0 && decide (phi ≤ t) && decide ((t - phi) % p < gap) && (t - phi) / p % 2 == rank

/-- Whether a request may be served in consist cycle t beside those served before (R246). An entry is (cycle, rank,
write, bank), the newest first. -/
def mayServe (recent : List (Nat × Nat × Bool × Nat)) (gap : Nat → Bool) (rank : Nat) (write : Bool) (bank t : Nat) : Bool :=
  let win := recent.filter fun e => t < e.1 + 19
  let weights : List (Nat × Nat) :=
    ((rank, if (recent.head?.map fun e => e.2.2.1 != write).getD false then 2 else 1)) ::
      (win.zip (List.range win.length)).map fun x =>
        (x.1.2.1, if ((recent[x.2 + 1]?).map fun e => e.2.2.1 != x.1.2.2.1).getD false then 2 else 1)
  ((weights.map (·.2)).sum ≤ 8)
    && (((weights.filter fun w => w.1 == rank).map (·.2)).sum ≤ 4)
    && !(recent.any fun e => e.2.2.2 == bank && decide (t < e.1 + 96))
    && !gap t

/-- The first cycle from t on in which a request may be served: held while it would break a rule. -/
def serveAt (recent : List (Nat × Nat × Bool × Nat)) (gap : Nat → Bool) (rank : Nat) (write : Bool) (bank : Nat) :
    Nat → Nat → Nat
  | 0, t => t
  | fuel + 1, t => if mayServe recent gap rank write bank t then t else serveAt recent gap rank write bank fuel (t + 1)

/-- The source code of a request in DM_ERRLOG (Table 9.18). -/
def DdrUser.source : DdrUser → Nat
  | .engine _ _ _ => 0
  | .remote _ => 1
  | .bar2 _ => 2
  | .scrub => 3
  | .siding _ _ => 0
  | _ => 4

/-! ### Outcomes of the symbol code (R243) -/

/-- Logs a faulty line: its counter, DM_ERRLOG, and the event that DM_CTRL enables, or that the patrol scrub's uncorrectable
line sends in any case (R243). -/
def Mach.ddrLog (m : Mach) (off err source : Nat) : Mach :=
  let c := chanOf off
  let uncorr := err == 32
  let m := m.stat (if uncorr then Reg.dmUe c else Reg.dmCe c) 1
  let old := m.raw (Reg.dmErrlog c)
  let m :=
    if !uncorr && bit old 63 && bit old 48 then m
    else m.setRaw (Reg.dmErrlog c)
      (pack [(0, 43, off), (43, 5, if uncorr then 31 else err - 1), (48, 1, b2n uncorr), (49, 3, source), (63, 1, 1)])
  let bit_ := if uncorr then 2 else 1
  if bit (m.raw (Reg.dmCtrl c)) bit_ || (uncorr && source == 3) then m.farEvent 1 (c / 4) { addr := Reg.dmCtrl c, bit := bit_, info := off % 2 ^ 32 } else m

/-- A line that was read with errors: counted and logged; a corrected line is to be written back. -/
def Mach.ddrChecked (m : Mach) (off err source : Nat) : Mach :=
  if err = 0 then m
  else
    let m := m.ddrLog off err source
    if err = 32 then m
    else
      let c := chanOf off
      m.modCh c fun ch => { ch with backs := ch.backs.filter (· != off) ++ [off] }

/-- The Control Office reads a range of the depot area through the symbol code (R301, R335): what the code finds is counted
and logged, under SOURCE 0 (log 83). -/
def Mach.depotRead (m : Mach) (lo n : Nat) : Mach :=
  (m.dev.ddrErr.filter fun e => decide (lo < 128 * e.1 + 128) && decide (128 * e.1 < lo + n)).foldl
    (fun m e => m.ddrChecked (128 * e.1) (symbolCode e.2) 0) m

/-- The first line of a range of the depot area that a property of its error mark holds of. -/
def Mach.depotFind (m : Mach) (lo n : Nat) (p : Nat → Bool) : Option Nat :=
  (m.dev.ddrErr.find? fun e => p e.2 && decide (lo < 128 * e.1 + 128) && decide (128 * e.1 < lo + n)).map fun e => 128 * e.1

/-- Where frame i of a consist's golden copy lies (R457). -/
def Mach.goldenAt (m : Mach) (c : Consist) (i : Nat) : Nat := m.depotBase + 65536 * c.golden.1 + 1064 * i

/-- Frame i of a golden copy cannot be used: an uncorrectable line, or a CRC mismatch, which errors that the symbol code
missed are taken to leave (R301, log 82). -/
def Mach.goldenFails (m : Mach) (c : Consist) (i : Nat) : Bool :=
  (nth {} c.frames i).bad
    || (m.depotFind (m.goldenAt c i) 1064 fun k => symbolCode k == 32 || decide (2 < (faultyDevices k).length)).isSome

/-- Stores a write's bytes. A write of a whole line clears its error, as a corrected line's write-back does; any write makes
a write-back of the line moot (R243, R395). -/
def Mach.ddrStore (m : Mach) (r : DdrReq) : Mach :=
  let parts := if r.segs.isEmpty then [(r.off, r.data)] else r.segs
  let line := r.off / 128 * 128
  let m := parts.foldl (fun m p => m.ddrWrite p.1 p.2) m
  let whole := r.user == .writeBack || (List.range 128).all fun i => parts.any fun p => decide (p.1 ≤ line + i) && decide (line + i < p.1 + p.2.length)
  let m := m.modCh (chanOf line) fun ch => { ch with backs := ch.backs.filter (· != line) }
  let m := if whole then { m with dev := { m.dev with ddrErr := fdel m.dev.ddrErr (line / 128) } } else m
  m.count (Reg.dmWriteLines (chanOf line)) 1

/-! ### What a request's end brings -/

/-- A part of a scratchpad sample has been written: after the last, the command completes (R399, R458). -/
def Mach.sampleStored (m : Mach) (ring : Nat) : Mach :=
  match ffind m.dev.samples ring with
  | none => m
  | some s =>
    if s.left = 1 then
      let m := { m with dev := { m.dev with samples := fdel m.dev.samples ring } }
      m.accept ring (s.bytes * 256 * popCount s.mask 16)
    else { m with dev := { m.dev with samples := fput m.dev.samples ring { s with left := s.left - 1 } } }

/-- A write has been served: it takes effect in a cycle. -/
def Mach.ddrWrote (m : Mach) (r : DdrReq) : Mach :=
  match r.user with
  | .engine st e p => (m.engStored st e p).modEngine st e fun x => { x with
      pieces := x.pieces.map fun z => if z.1 = p ∧ z.2.stage = 3 then (p, { z.2 with due := r.due, arc := r.arc }) else z }
  | .remote pkt =>
    match ffind m.dev.pkts pkt with
    | none => m
    | some k =>
      if k.left ≤ 1 then m.answer pkt ocOk 0 [] else m.setPacket pkt { k with left := k.left - 1 }
  | .sampling ring => m.sampleStored ring
  | _ => m

/-- A read delivers: data and what the code found, to whoever asked. -/
def Mach.ddrGive (m : Mach) (r : DdrReq) : Mach :=
  let bad := r.err == 32
  match r.user with
  | .engine st e p =>
    match ffind (m.engine st e).pieces p, r.job with
    | some y, some h =>
      if bad then m.engPieceFail h st e p causeDdr (some r.off)
      else
        let line := y.src / 128 * 128
        let t := if r.arc then m.now else r.due
        let (due, m) := (m.ride (engUnit st e) r.arc t (m.wayBack ((m.job h).getD {}) st y.src)).getD
          (t + m.chLatency st (chanOf r.off), m)
        (m.engData st e p line r.data due r.arc).engPump st e
    | _, _ => m
  | .siding st q =>
    if bad then m.fault 9 (engUnit st 0) r.job r.off
    else
      let h := r.job.getD 0
      let here := (if r.arc then m.cyc st else r.due) + m.chLatency st (chanOf r.off)
        + ((m.job h).map fun j => m.legIn j (m.qBay st q)).getD 0
      m.modQueue st q fun x => { x with unread := x.unread - 1, ask := some (max here (x.ask.getD 0)) }
  | .remote pkt =>
    match ffind m.dev.pkts pkt with
    | none => m
    | some k =>
      let data := splice k.data (r.off - gaOffset k.addr) r.data
      let bad := k.bad || bad
      if k.left ≤ 1 then
        if bad then m.answer pkt ocUncorr 0 [] else m.answer pkt ocOk 0 data
      else m.setPacket pkt { k with left := k.left - 1, data := data, bad := bad }
  | .bar2 tag =>
    match ffind m.dev.host.bar2 tag with
    | none => m
    | some k =>
      let k := { k with data := splice k.data (r.off - k.first) r.data, bad := k.bad || bad, left := k.left - 1 }
      if k.left = 0 then
        let m := { m with dev := { m.dev with host := { m.dev.host with bar2 := fdel m.dev.host.bar2 tag } } }
        m.emit (.bar2 k.data k.bad false)
      else { m with dev := { m.dev with host := { m.dev.host with bar2 := fput m.dev.host.bar2 tag k } } }
  | _ => m

/-! ### Service -/

/-- The memory as the writes that a channel has served before will leave it: requests are served in order (R245). -/
def Mach.ddrAhead (m : Mach) (c : Nat) : Mach :=
  ((m.ch c).served.filter fun r => r.write).foldl (fun m r => m.ddrStore r) m

/-- A write takes effect. -/
def Mach.ddrEffect (m : Mach) (r : DdrReq) : Mach := (m.ddrStore r).ddrWrote r

/-- Serves a request, whose effect falls in cycle `due`: a write takes effect then, and a read, which takes the line as the
requests before it leave it, delivers it then. -/
def Mach.ddrServe (m : Mach) (c : Nat) (r : DdrReq) (due : Nat) (arc : Bool) : Mach :=
  let r := { r with due := due, arc := arc }
  if r.write then
    if m.reqReached r then m.ddrEffect r else m.modCh c fun ch => { ch with served := ch.served ++ [r] }
  else
    let m := m.count (Reg.dmReadLines c) 1
    let x := m.ddrAhead c
    let r := { r with data := x.burst r.off r.len, err := symbolCode (fget 0 x.dev.ddrErr (r.off / 128)) }
    m.modCh c fun ch => { ch with served := ch.served ++ [r] }

/-- The writes whose cycle has come take effect, in every channel, as a cycle begins (R245). -/
def Mach.ddrSettle (m : Mach) : Mach :=
  (m.dev.ddr.map (·.1)).foldl
    (fun m c =>
      let due := (m.ch c).served.filter fun r => r.write && m.reqReached r
      if due.isEmpty then m
      else due.foldl Mach.ddrEffect (m.modCh c fun ch => { ch with served := ch.served.filter fun r => !due.contains r })) m

/-- The service codes of DM_STATUS. -/
def svReorder : Nat := 0
def svTimetabled : Nat := 1
def svOffline : Nat := 2
def svUntrained : Nat := 3

/-- The refresh gaps of the job that a channel serves. -/
def Mach.gapOf (m : Mach) (ch : DdrCh) (rank t : Nat) : Bool :=
  match ch.job.bind m.job with
  | none => false
  | some j =>
    let k := m.consistOf j
    inGap k.ttP k.ttPhi (m.lat j Config.dmTtRefgap) rank t

/-- A latency of the job that a channel serves. -/
def Mach.chLat (m : Mach) (ch : DdrCh) (id : Nat) : Nat := ((ch.job.bind m.job).map fun j => m.lat j id).getD 0

/-- The requests that R246 looks back on from a cycle: those of the last 128 cycles, and the one before them, whose
direction counts. -/
def keepRecent (l : List (Nat × Nat × Bool × Nat)) (t : Nat) : List (Nat × Nat × Bool × Nat) :=
  l.takeWhile (fun e => t < e.1 + 128) ++ (l.dropWhile fun e => t < e.1 + 128).take 1

/-- The consist cycle in which a channel in timetabled service serves a request for a line that may be served from a cycle
on, beside all those before it (R246). -/
def Mach.ddrSlot (m : Mach) (c off : Nat) (write : Bool) (a : Nat) : Nat × Mach :=
  let ch := m.ch c
  let rank := chanRank off
  let last := ((ch.recent.head?).map (·.1)).getD 0
  let t := serveAt ch.recent (m.gapOf ch rank) rank write (chanBank off) 4096 (max a last)
  (t, m.setCh c { ch with recent := keepRecent ((t, rank, write, chanBank off) :: ch.recent) t })

/-- An unscheduled request is served in the cycles that the job of a channel leaves free, and counted (R249). -/
def Mach.ddrUnsched (m : Mach) (c : Nat) (r : DdrReq) : Mach :=
  let ch := m.ch c
  let cyc := m.chCyc ch
  let (t, m) := m.ddrSlot c r.off r.write cyc
  let m := m.stat (Reg.dmUnsched c) 1
  let m := match ch.job with
    | some h => m.flagJob h fgUnschedDdr
    | none => m
  m.ddrServe c r (m.now + (t - cyc) + m.chLat ch (if r.write then Config.dmTtWr else Config.dmTtRd)) true

/-- DDR_REQUEST: the next request that has reached a channel's port. In timetabled service the job's requests are served
in order of arrival, each in the first cycle that breaks no rule of R246; the others, with those that stood at the port
before, are held, or served in the cycles that are left (R249). In reordering service, and while the channel is offline,
the request stands at the port. -/
def effDdrRequest (c : Nat) (m : Mach) : Mach :=
  let ch := m.ch c
  let tt := ch.service == svTimetabled
  match leastBy reqOrder (ch.port.filter fun r => (tt || !r.arrived) && (r.arrived || m.reqReached r)) with
  | none => m
  | some r =>
    let rest := removeFirst (· == r) ch.port
    if tt = false then m.setCh c { ch with port := rest ++ [{ r with arrived := true }] }
    else
      let m := m.setCh c { ch with port := rest }
      if r.user.scheduled && r.job == ch.job then
        let a := if r.arc then m.chCyc ch else r.due
        let (t, m) := m.ddrSlot c r.off r.write a
        let m := m.stat (Reg.dmTtSlip c) (t - a)
        let m := (ch.job.map fun h => m.modJob h fun j => { j with slip := j.slip + (t - a) }).getD m
        let id := if r.write then Config.dmTtWr else Config.dmTtRd
        let due := t + m.chLat ch id
        let late := ((ch.job.bind m.job).map fun j => m.lateOf j id).getD 0
        let m := match r.user with
          | .engine st e _ => m.noteResult (engUnit st e) late due
          | .siding st q => m.noteResult (queueUnit st (m.qdesc st q)) late due
          | _ => m
        m.ddrServe c r due false
      else if bit (m.raw (Reg.dmCtrl c)) 0 then m.modCh c fun ch => { ch with held := ch.held ++ [{ r with arrived := true }] }
      else m.ddrUnsched c r

/-- DDR_REORDER_SERVE: the scheduler of a channel in reordering service serves a request of its choosing among those at
the port: `pick` is that choice (R244). What waited over a retrain is served before, in order (R251). -/
def effDdrReorderServe (c pick : Nat) (m : Mach) : Mach :=
  let ch := m.ch c
  if ch.service ≠ svReorder then m
  else
    match (leastBy reqOrder (ch.port.filter DdrReq.waited)).orElse fun _ => (ch.port.filter fun r => r.arrived)[pick]? with
    | none => m
    | some r =>
      let m := m.setCh c { ch with port := removeFirst (· == r) ch.port }
      let m := match r.job with
        | some h => if r.user.scheduled then m.flagJob h fgReorder else m
        | none => m
      m.ddrServe c r m.now true

/-- DDR_READ_DATA: the next read that is due delivers its data through the symbol code (R242, R243, R245). -/
def effDdrReadData (c : Nat) (m : Mach) : Mach :=
  let ch := m.ch c
  match leastBy reqOrder (ch.served.filter fun r => !r.write && m.reqReached r) with
  | none => m
  | some r =>
    let m := m.setCh c { ch with served := removeFirst (· == r) ch.served }
    (m.ddrChecked (r.off / 128 * 128) r.err r.user.source).ddrGive r

/-- DDR_WRITE_BACK: a corrected line is written back: in timetabled service an unscheduled write, which UNSCHED_DEFER holds
(R243, R249, R395). -/
def effDdrWriteBack (c : Nat) (m : Mach) : Mach :=
  let ch := m.ch c
  match ch.backs with
  | [] => m
  | line :: rest =>
    let r : DdrReq := { user := .writeBack, write := true, off := line }
    if svOffline ≤ ch.service then m
    else if ch.service ≠ svTimetabled then (m.setCh c { ch with backs := rest }).ddrServe c r m.now true
    else if bit (m.raw (Reg.dmCtrl c)) 0 then m
    else (m.setCh c { ch with backs := rest }).ddrUnsched c r

/-! ### Changes of service (R244) -/

/-- A channel enters timetabled service for a job. Both ranks are up to date with refresh. -/
def Mach.ddrEnter (m : Mach) (c h : Nat) : Mach :=
  m.modCh c fun ch => { ch with
    service := svTimetabled, job := some h, recent := [], refresh := [m.now, m.now], gaps := [0, 0] }

/-- A channel leaves timetabled service: what it held stands at the port again, and what is on its way keeps its time in
cycles of ARCLK. -/
def Mach.ddrLeave (m : Mach) (c : Nat) : Mach :=
  m.modCh c fun ch =>
    if ch.service = svTimetabled then
      let arc := fun (r : DdrReq) => if r.arc then r else { r with due := m.now + (r.due - m.chCyc ch), arc := true }
      { ch with
        service := svReorder, job := none, port := (ch.held ++ ch.port).map arc, held := [], recent := []
        served := ch.served.map arc }
    else ch

/-! ### Refresh (R247) -/

/-- The refresh of a rank that is due at the latest 7,410 ARCLK cycles after the last. -/
def refreshLimit : Nat := 7410

/-- REFRESH_GAP: in timetabled service a rank is refreshed once in each of its gaps; in a freeze a rank whose refresh is
due is refreshed and counted. Outside timetabled service the controller refreshes on its own. -/
def effRefreshGap (c rank : Nat) (m : Mach) : Mach :=
  let ch := m.ch c
  if ch.service ≠ svTimetabled then
    if ch.service = svUntrained then m else m.setCh c { ch with refresh := setNth ch.refresh rank m.now }
  else
    match ch.job.bind m.job with
    | none => m
    | some j =>
      let k := m.consistOf j
      let gap := (j.cyc - k.ttPhi) / k.ttP + 1
      if j.frozen then
        if nth 0 ch.refresh rank + refreshLimit ≤ m.now then
          (m.setCh c { ch with refresh := setNth ch.refresh rank m.now }).stat (Reg.dmForcedRef c) 1
        else m
      else if m.gapOf ch rank j.cyc && nth 0 ch.gaps rank != gap then
        m.setCh c { ch with refresh := setNth ch.refresh rank m.now, gaps := setNth ch.gaps rank gap }
      else m

/-! ### Patrol scrub and retraining (R250, R251) -/

/-- DDR_SCRUB_READ: the scrub reads the line at its cursor, at its interval, in reordering service. -/
def effDdrScrubRead (c : Nat) (m : Mach) : Mach :=
  let ch := m.ch c
  if ch.scrubOn = false ∨ ch.service ≠ svReorder ∨ m.now < ch.scrubNext then m
  else
    let a := m.raw (Reg.dmScrubCursor c)
    let off := ddrOf c a
    -- 64 × 2^SCRUB_RATE cycles of DCLK, in ARCLK cycles: DCLK runs at 1,600 MHz and ARCLK at 1,900 MHz
    let gap := (64 * 2 ^ bits (m.raw (Reg.dmCtrl c)) 7 4 * 19 + 15) / 16
    let size := m.capacity / 16
    let wrap := decide (size ≤ a + 128)
    let m := m.setCh c { ch with scrubNext := m.now + gap }
    let m := m.setRaw (Reg.dmScrubCursor c) (if wrap then 0 else a + 128)
    let m := if wrap then m.stat (Reg.dmScrubPasses c) 1 else m
    let m := m.count (Reg.dmReadLines c) 1
    m.ddrChecked off (symbolCode (fget 0 m.dev.ddrErr (off / 128))) 3

/-- DDR_RETRAIN_DONE: a channel comes back from a retrain: what waits at its port is served in order (R251). -/
def effDdrRetrainDone (c : Nat) (m : Mach) : Mach :=
  let ch := m.ch c
  match ch.retrain with
  | none => m
  | some _ =>
    let m := m.setCh c { ch with
      service := svReorder, retrain := none
      port := ch.port.map fun r => if r.arrived then { r with waited := true } else r }
    let m : Mach := { m with dev := { m.dev with clk := { m.dev.clk with dclk := setBits m.dev.clk.dclk (c / 4) (c / 4) 1 } } }
    { m with dev := { m.dev with maint := m.dev.maint.filter fun a => !(a.code == 4 && a.target == c) } }

/-- DDR_TRAINING_DONE: the training that the start of the firmware began ends (R238, R400, R408): `trained` says which
channels trained, `cap` which module they hold (0 64 GiB, 1 128 GiB, 2 256 GiB). With all 16 trained DDR is ready, a
wipe that is owed is done, and WIPE_PENDING clears; otherwise each channel that failed sends an event. -/
def effDdrTrainingDone (trained cap : Nat) (m : Mach) : Mach :=
  if m.dev.boot.training = false ∨ 2 < cap then m
  else
    let ok := trained == 65535
    let m := m.setRaw 0x2100 (trained + b2n ok * 2 ^ 16)
    let m := (List.range 16).foldl
      (fun m c =>
        if bit trained c then m.modCh c fun ch => { ch with service := svReorder, capacity := cap, known := true, refresh := [m.now, m.now] }
        else
          (m.modCh c fun ch => { ch with service := svUntrained, capacity := 3, known := true }).farEvent 1 (c / 4) { addr := Reg.dmStatus c, bit := 0 })
      m
    let m := { m with dev := { m.dev with
        boot := { m.dev.boot with training := false }
        clk := { m.dev.clk with selfRefresh := false, dclk := 15 } } }
    if ok = false then m
    else
      let m := m.setRaw Reg.dmCapacity (16 * 2 ^ (36 + cap))
      if bit (m.raw Reg.secBootStatus) 5 then
        (m.ddrWipe 0 m.capacity).setField Reg.secBootStatus 5 5 0
      else m.ddrWipe m.depotBase m.capacity

/-! ### BAR2 (R343) -/

/-- The DDR offset of a BAR2 byte. -/
def Mach.bar2Off (m : Mach) (a : Nat) : Nat := bits (m.raw Reg.coBar2Base) 12 0 * 2 ^ 30 + a

/-- A range meets a channel whose crossing has timed out (Table 17.6). -/
def Mach.rangeLost (m : Mach) (off n : Nat) : Bool :=
  (linesOf off n).any fun p => m.dev.cdc.lost.contains (1, chanOf p.1 / 4)

/-- The device serves BAR2: not from the boot ROM (R404). -/
def Mach.bar2Ok (m : Mach) (off n : Nat) : Bool := m.dev.boot.fw && m.ddrReachable off n && !m.rangeLost off n

/-- A host read of n bytes of DDR space, with the outcomes of Table 13.4: an unscheduled request, whose data and `pad` bytes
of 0 answer the host. -/
def Mach.hostDdrRead (m : Mach) (off n pad : Nat) : Mach :=
  if m.bar2Ok off n = false then
    (if m.dev.boot.fw then m.stat Reg.coBar2Err 1 else m).emit (.bar2 [] false true)
  else
    let tag := m.dev.host.bar2Next
    let m := { m with dev := { m.dev with host := { m.dev.host with
        bar2Next := tag + 1
        bar2 := fput m.dev.host.bar2 tag
          { first := off, len := n + pad, left := (linesOf off n).length, data := zeros (n + pad) } } } }
    m.ddrPostRead (.bar2 tag) none off n

/-- BAR2_READ. -/
def effBar2Read (a n : Nat) (m : Mach) : Mach := m.hostDdrRead (m.bar2Off a) n 0

/-- BAR2_WRITE. -/
def effBar2Write (a : Nat) (d : Bytes) (m : Mach) : Mach :=
  let off := m.bar2Off a
  if d.isEmpty then m
  else if m.bar2Ok off d.length = false then (if m.dev.boot.fw then m.stat Reg.coBar2Err 1 else m)
  else m.ddrPostWrite (.bar2 0) none off d

/-! ### Status (Table 9.17) -/

/-- DM_STATUS. It reads its reset value until the channel's first training has ended. -/
def Mach.dmStatusValue (m : Mach) (c : Nat) : Nat :=
  let ch := m.ch c
  let tt := ch.service == svTimetabled
  if ch.known = false then 0
  else pack [(0, 2, ch.service), (2, 6, ((ch.job.bind m.job).map (·.consist)).getD 0),
    (8, 1, b2n (!ch.held.isEmpty || (tt && !ch.backs.isEmpty && bit (m.raw (Reg.dmCtrl c)) 0))),
    (9, 1, b2n (ch.scrubOn && ch.service == svReorder)), (10, 1, b2n (ch.scrubOn && tt)), (11, 2, ch.capacity)]

/-! ### The commands -/

def execDdrRequest (c : Nat) (s : State) := act .run (.ddrRequest c) s (effDdrRequest c)
def execDdrReadData (c : Nat) (s : State) := act .run (.ddrReadData c) s (effDdrReadData c)
def execDdrReorderServe (c pick : Nat) (s : State) := act .run (.ddrReorderServe c pick) s (effDdrReorderServe c pick)
def execRefreshGap (c rank : Nat) (s : State) := act .run (.refreshGap c rank) s (effRefreshGap c rank)
def execDdrWriteBack (c : Nat) (s : State) := act .run (.ddrWriteBack c) s (effDdrWriteBack c)
def execDdrScrubRead (c : Nat) (s : State) := act .run (.ddrScrubRead c) s (effDdrScrubRead c)
def execDdrRetrainDone (c : Nat) (s : State) := act .run (.ddrRetrainDone c) s (effDdrRetrainDone c)
def execDdrTrainingDone (t cap : Nat) (s : State) := act .run (.ddrTrainingDone t cap) s (effDdrTrainingDone t cap)
def execBar2Read (a n : Nat) (s : State) := act .run (.bar2Read a n) s (effBar2Read a n)
def execBar2Write (a : Nat) (d : Bytes) (s : State) := act .run (.bar2Write a d) s (effBar2Write a d)

end Sys2Proof.Machine
end

