-- ==== Sys2Proof/Machine/Crypto.lean ====
section
/-! DEFINITION. CRC-32C as RFC 3720 defines it (R291) and SHA3-512 as FIPS 202 defines it (R292). -/

namespace Sys2Proof.Machine
open Sys2Proof

/-! ### CRC-32C -/

/-- One bit of the reflected CRC of polynomial 0x1EDC_6F41. -/
def crc32Step (c : Nat) : Nat := if c % 2 = 1 then c / 2 ^^^ 0x82F63B78 else c / 2

/-- CRC-32C of a byte string. -/
def crc32c (bs : Bytes) : Nat :=
  bs.foldl (fun c b => Nat.repeat crc32Step 8 (c ^^^ b.toNat)) 0xFFFFFFFF ^^^ 0xFFFFFFFF

/-! ### SHA3-512 -/

/-- Rotates a lane left. -/
def rol (n : Nat) (x : W64) : W64 := x.rotateLeft n

/-- Round constants of Keccak-f[1600]. -/
def keccakRc : List W64 :=
  [0x0000000000000001, 0x0000000000008082, 0x800000000000808A, 0x8000000080008000, 0x000000000000808B,
   0x0000000080000001, 0x8000000080008081, 0x8000000000008009, 0x000000000000008A, 0x0000000000000088,
   0x0000000080008009, 0x000000008000000A] ++
  [0x000000008000808B, 0x800000000000008B, 0x8000000000008089, 0x8000000000008003, 0x8000000000008002,
   0x8000000000000080, 0x000000000000800A, 0x800000008000000A, 0x8000000080008081, 0x8000000000008080,
   0x0000000080000001, 0x8000000080008008]

/-- Rotation offsets of lane x + 5y. -/
def keccakRot : List Nat :=
  [0, 1, 62, 28, 27, 36, 44, 6, 55, 20, 3, 10, 43, 25, 39, 41, 45, 15, 21, 8, 18, 2, 61, 56, 14]

/-- Lane x + 5y of a state. -/
def lane (a : List W64) (x y : Nat) : W64 := nth 0 a (x % 5 + 5 * (y % 5))

/-- One round: θ, ρ, π, χ and ι. -/
def keccakRound (a : List W64) (rc : W64) : List W64 :=
  let c := (List.range 5).map fun x => lane a x 0 ^^^ lane a x 1 ^^^ lane a x 2 ^^^ lane a x 3 ^^^ lane a x 4
  let d := (List.range 5).map fun x => nth 0 c ((x + 4) % 5) ^^^ rol 1 (nth 0 c ((x + 1) % 5))
  let t := (List.range 25).map fun i => rol (nth 0 keccakRot i) (nth 0 a i ^^^ nth 0 d (i % 5))
  -- π: lane (x, y) comes from lane (x + 3y, x)
  let b := (List.range 25).map fun i => lane t (i % 5 + 3 * (i / 5)) (i % 5)
  let e := (List.range 25).map fun i =>
    lane b (i % 5) (i / 5) ^^^ (~~~ lane b (i % 5 + 1) (i / 5) &&& lane b (i % 5 + 2) (i / 5))
  e.set 0 (nth 0 e 0 ^^^ rc)

/-- Keccak-f[1600]. -/
def keccakF (a : List W64) : List W64 := keccakRc.foldl keccakRound a

/-- Absorbs n blocks of 72 bytes. -/
def absorb : Nat → List W64 → Bytes → List W64
  | 0, a, _ => a
  | n + 1, a, m =>
    let blk := m.take 72
    let a := (List.range 25).map fun i =>
      if i < 9 then nth 0 a i ^^^ BitVec.ofNat 64 (leNat blk (8 * i) 8) else nth 0 a i
    absorb n (keccakF a) (m.drop 72)

/-- SHA3-512 of a byte string. -/
def sha3 (m : Bytes) : Bytes :=
  let n := m.length / 72 + 1
  let padded := m ++ [0x06] ++ zeros (72 * n - m.length - 1)
  let padded := padded.set (72 * n - 1) (nth 0 padded (72 * n - 1) ||| 0x80)
  let a := absorb n (List.replicate 25 0) padded
  (List.range 8).flatMap fun i => toLe 8 (nth 0 a i).toNat

end Sys2Proof.Machine
end

