-- ==== Sys2Proof/Machine/Image.lean ====
section
/-! DEFINITION. Consist images: the file of R288 to R292, declaration records (R295), patches (R304), and the plane words
that a frame writes (R294). -/

namespace Sys2Proof.Machine
open Sys2Proof

/-! ### The file (R288 to R292) -/

/-- An image as read: its header fields, region declarations, frames by position, and trailer. -/
structure Image where
  raw : Bytes
  format : Nat
  partialLoad : Bool
  signed : Bool
  elastic : Bool
  param : Bool
  bankHash : Bool
  grades : Nat
  target : Nat
  nRegions : Nat
  nFrames : Nat
  ddrSize : Nat
  baseDigest : Bytes
  regions : List Region
  frames : List Frame
  keyId : Nat
  digest : Bytes
  sig : Bytes
  deriving DecidableEq, Repr

/-- The length that the counts of a header give the file. -/
def imageLength (nRegions nFrames : Nat) : Nat := 256 + 64 * nRegions + 1064 * nFrames + 4736

/-- A region declaration (Table 11.2). -/
def parseRegion (b : Bytes) : Region :=
  let w := fun k => leNat b (4 * k) 4
  { external := bit (w 0) 8, all := bit (w 0) 9, stations := bits (w 1) 15 0
    rowFirst := bits (w 2) 3 0, rowLast := bits (w 2) 7 4, colFirst := bits (w 2) 11 8, colLast := bits (w 2) 15 12
    slabBase := bits (w 3) 19 0, slabEnd := bits (w 4) 20 0, qFirst := bits (w 5) 11 0, qLast := bits (w 5) 23 12
    ddrBase := leNat b 24 8, ddrSize := leNat b 32 8, raw := b }

/-- A declaration is malformed where REGION differs from its position, a reserved field is not 0, or ALL is set in an
image that is not parameterised (R290). -/
def regionMalformed (param : Bool) (i : Nat) (b : Bytes) : Bool :=
  let w := fun k => leNat b (4 * k) 4
  bits (w 0) 7 0 != i || bits (w 0) 31 10 != 0 || bits (w 1) 31 16 != 0 || bits (w 2) 31 16 != 0 || bits (w 3) 31 20 != 0
    || bits (w 4) 31 21 != 0 || bits (w 5) 31 24 != 0 || leNat b 40 24 != 0 || (bit (w 0) 9 && !param)

/-- A frame record (R291, Table 11.3). -/
def parseFrame (b : Bytes) : Frame :=
  let w := fun k => leNat b (4 * k) 4
  { kind := bits (w 0) 3 0, grades := bits (w 0) 6 4, region := bits (w 0) 15 8, index := w 1
    stations := bits (w 2) 15 0, all := bit (w 2) 16, unitFirst := bits (w 3) 7 0, unitLast := bits (w 3) 15 8
    strideLog2 := bits (w 3) 19 16, offset := leNat b 16 8, payload := slice b 32 (bits (w 0) 25 16 + 1) }

/-- What check 3 tests of a frame: its CRC, INDEX, KIND, reserved fields and unused payload, and the shapes of R294. -/
def frameSound (i : Nat) (b : Bytes) : Bool :=
  let w := fun k => leNat b (4 * k) 4
  let f := parseFrame b
  let n := f.payload.length
  crc32c (b.take 1056) == leNat b 1056 4 && f.index == i && decide (f.kind ≤ 6)
    && !bit (w 0) 7 && bits (w 0) 31 26 == 0 && bits (w 2) 31 17 == 0 && bits (w 3) 31 20 == 0 && w 6 == 0 && w 7 == 0
    && n % 4 == 0 && leNat b (32 + n) (1024 - n) == 0 && leNat b 1060 4 == 0
    && (f.kind == 0 || f.kind == 3 || bits (w 3) 15 0 == 0) && (f.kind == 0 || f.strideLog2 == 0)
    && (f.kind != 1 || n % 8 == 0) && (f.kind != 2 || n % 32 == 0) && (f.kind != 3 || f.offset % 4 == 0)

/-- The image in a byte string. -/
def parseImage (b : Bytes) : Image :=
  let flags := leNat b 8 4
  let nr := leNat b 16 4
  let nf := leNat b 20 4
  let t := 256 + 64 * nr + 1064 * nf
  { raw := b, format := leNat b 4 2, partialLoad := bit flags 0, signed := bit flags 1, elastic := bit flags 2
    param := bit flags 3, bankHash := bit flags 4, grades := bits flags 7 5, target := leNat b 13 1
    nRegions := nr, nFrames := nf, ddrSize := leNat b 24 8, baseDigest := slice b 64 64
    regions := (List.range nr).map fun i => parseRegion (slice b (256 + 64 * i) 64)
    frames := (List.range nf).map fun i => parseFrame (slice b (256 + 64 * nr + 1064 * i) 1064)
    keyId := leNat b (t + 8) 8, digest := slice b (t + 16) 64, sig := slice b (t + 80) 4627 }

/-- The bytes of frame record i. -/
def Image.frameBytes (x : Image) (i : Nat) : Bytes := slice x.raw (256 + 64 * x.nRegions + 1064 * i) 1064

/-- The image digest D, recomputed (R292). -/
def Image.recomputed (x : Image) : Bytes :=
  sha3 (x.raw.take (256 + 64 * x.nRegions)
    ++ (List.range x.nFrames).flatMap fun i => sha3 ((x.frameBytes i).take 1060))

/-- Check 1: the status and the byte offset of the first header or trailer field that is wrong (Table 11.6). The
reserved fields of the header and the lengths of the trailer are tested here too (log 19). -/
def headerWrong (b : Bytes) (len : Nat) : Option (Nat × Nat) :=
  let nr := leNat b 16 4
  let nf := leNat b 20 4
  let t := 256 + 64 * nr + 1064 * nf
  if leNat b 0 4 ≠ 0x54534E43 then some (0x11, 0)
  else if leNat b 4 2 ≠ 3 ∧ leNat b 4 2 ≠ 4 then some (0x12, 4)
  else if leNat b 6 2 ≠ 256 then some (0x11, 6)
  else if leNat b 8 4 / 256 ≠ 0 then some (0x11, 8)
  else if leNat b 14 2 ≠ 0 then some (0x11, 14)
  else if nr = 0 ∨ 64 < nr then some (0x11, 16)
  else if nf = 0 ∨ len ≠ imageLength nr nf then some (0x11, 20)
  else if leNat b 24 8 % 65536 ≠ 0 then some (0x11, 24)
  else if leNat b 128 128 ≠ 0 then some (0x11, 128)
  else if b.length < len then none
  else if leNat b t 4 ≠ 4736 then some (0x11, t)
  else if leNat b (t + 4) 4 ≠ (if bit (leNat b 8 4) 1 then 4627 else 0) then some (0x11, t + 4)
  else none

/-! ### Targets and declarations -/

/-- A station mask with ALL standing for every enabled station. -/
def stationMask (all : Bool) (mask n : Nat) : Nat := if all then 2 ^ n - 1 else mask

/-- Whether a frame applies on a grade: its GRADES are 0 or name it. -/
def Frame.on (f : Frame) (grade : Nat) : Bool := f.grades == 0 || bit f.grades grade

/-- The 32-bit words of a byte string. -/
def words32 (b : Bytes) : List Nat := (List.range (b.length / 4)).map fun i => leNat b (4 * i) 4

/-- The declaration records of a DECL frame: type and words after the header; and whether the payload is whole records
(R295). -/
def declRecords : Nat → Bytes → List (Nat × List Nat) × Bool
  | 0, _ => ([], true)
  | fuel + 1, b =>
    if b.isEmpty then ([], true)
    else
      let n := leNat b 2 2
      if n < 4 ∨ n % 4 ≠ 0 ∨ b.length < n then ([], false)
      else
        let r := declRecords fuel (b.drop n)
        ((leNat b 0 1, words32 ((b.take n).drop 4)) :: r.1, r.2)

def Frame.decls (f : Frame) : List (Nat × List Nat) × Bool := declRecords 257 f.payload

/-- The declaration records of a list of frames, each with its frame. -/
def declsOf (fs : List Frame) : List (Frame × Nat × List Nat) :=
  (fs.filter fun f => f.kind == 5).flatMap fun f => f.decls.1.map fun r => (f, r)

/-- Token declarations (TYPE 2), with slots still to be given. -/
def tokenDecls (ds : List (Frame × Nat × List Nat)) : List TokDecl :=
  ds.filterMap fun d =>
    if d.2.1 = 2 then
      let w := nth 0 d.2.2 0
      some { st := bits w 3 0, logical := bits w 9 4, cursors := bits w 11 10 + 1, rebase := bit w 12, init := nth 0 d.2.2 1 }
    else none

/-- Counter declarations (TYPE 3). -/
def counterDecls (ds : List (Frame × Nat × List Nat)) : List CntDecl :=
  ds.filterMap fun d =>
    if d.2.1 = 3 then
      some { logical := bits (nth 0 d.2.2 0) 5 0, init := BitVec.ofNat 64 (nth 0 d.2.2 1 + nth 0 d.2.2 2 * 2 ^ 32) }
    else none

/-- Bookings (TYPE 6). -/
def bookingOf (w : Nat) : Booking :=
  { entry := bits w 5 0, lane := bits w 6 6, link := bits w 11 7, dir := bits w 12 12, gateway := bit w 13
    pos := bits w 17 14, gate := bits w 19 18 }

def bookingDecls (ds : List (Frame × Nat × List Nat)) : List (Frame × Booking) :=
  ds.flatMap fun d => if d.2.1 = 6 then d.2.2.map fun w => (d.1, bookingOf w) else []

/-- Two bookings that take the same lane of a grid or gateway link in the same wheel entry (R143). -/
def Booking.clashes (a b : Booking) : Bool :=
  a.entry == b.entry && a.dir == b.dir && a.gateway == b.gateway
    && (if a.gateway then a.pos == b.pos && a.gate == b.gate else a.link == b.link && a.lane == b.lane)

/-- The range entries of a stopping point, from its words. -/
def stopRanges : Nat → List Nat → List LiveRange
  | 0, _ => []
  | n + 1, ws =>
    let x := nth 0 ws 0 + nth 0 ws 1 * 2 ^ 32
    { st := bits x 3 0, bayFirst := bits x 11 4, bayLast := bits x 19 12, line := bits x 44 32, lines := bits x 57 45 }
      :: stopRanges n (ws.drop 2)

/-- The groups of a stopping-point record (R329). -/
def stopGroups : Nat → List Nat → List StopDecl
  | 0, _ => []
  | n + 1, ws =>
    let g := nth 0 ws 0
    let r := bits g 31 16
    { k := bits g 11 0, dist := nth 0 ws 1, ranges := stopRanges r (ws.drop 2) } :: stopGroups n (ws.drop (2 + 2 * r))

/-- The words that a stopping-point record must have. -/
def stopLength : Nat → List Nat → Nat
  | 0, _ => 0
  | n + 1, ws => let r := bits (nth 0 ws 0) 31 16; 2 + 2 * r + stopLength n (ws.drop (2 + 2 * r))

/-- Taps and mileposts of a milepost record (Table 14.5). -/
def tapList : Nat → List Nat → List TapDecl
  | 0, _ => []
  | n + 1, ws =>
    let w := nth 0 ws 0
    { st := bits w 3 0, queue := bits w 15 4, count := nth 0 ws 1 } :: tapList n (ws.drop 2)

def mileGroups : Nat → List Nat → List MileDecl
  | 0, _ => []
  | n + 1, ws =>
    let g := nth 0 ws 0
    let t := bits g 31 16
    { mp := bits g 11 0, role := bits g 13 12, taps := tapList t (ws.drop 1) } :: mileGroups n (ws.drop (1 + 2 * t))

def mileLength : Nat → List Nat → Nat
  | 0, _ => 0
  | n + 1, ws => let t := bits (nth 0 ws 0) 31 16; 1 + 2 * t + mileLength n (ws.drop (1 + 2 * t))

/-- Whether a declaration record has a type of Table 11.5 and the length that its type needs. -/
def declSound (r : Nat × List Nat) : Bool :=
  match r.1 with
  | 1 => r.2.all fun w => bits w 31 24 == 0
  | 2 => r.2.length == 2 && bits (nth 0 r.2 0) 31 13 == 0
  | 3 => r.2.length == 3 && bits (nth 0 r.2 0) 31 6 == 0
  | 4 => r.2.length == 2 && bits (nth 0 r.2 0) 31 16 == 0 && bits (nth 0 r.2 1) 31 24 == 0
  | 5 => r.2.length == 1 && bits (nth 0 r.2 0) 31 6 == 0
  | 6 => r.2.all fun w => bits w 31 20 == 0
  | 7 =>
    let n := bits (nth 0 r.2 0) 11 0
    decide (2 ≤ r.2.length) && r.2.length == 2 + stopLength n (r.2.drop 2)
      && (stopGroups n (r.2.drop 2)).zipIdx.all fun g => g.1.k == g.2 + 1
  | 8 =>
    let m := bits (nth 0 r.2 0) 11 0
    decide (4 ≤ r.2.length) && r.2.length == 4 + mileLength m (r.2.drop 4)
      && (mileGroups m (r.2.drop 4)).all fun g => decide (g.role ≤ 2) && g.taps.all fun t => decide (1 ≤ t.count)
  | _ => false

/-! ### Patches (R304) -/

/-- A patch record with the value that its source gives, 0 with `stn` for STN_INDEX. -/
structure Patch where
  target : Nat
  off : Nat
  width : Nat
  stn : Bool
  value : Nat
  deriving DecidableEq, Repr

/-- The payload of a frame with `width` bytes replaced. -/
def Frame.patch (f : Frame) (p : Patch) : Frame :=
  if p.stn ∨ f.stnPatch ≠ [] then { f with stnPatch := f.stnPatch ++ [(p.off, p.width, b2n p.stn, p.value)] }
  else { f with payload := splice f.payload p.off (toLe p.width p.value) }

/-- The payload of a frame's copy for a station. -/
def Frame.payloadFor (f : Frame) (st : Nat) : Bytes :=
  f.stnPatch.foldl (fun b p => splice b p.1 (toLe p.2.1 (p.2.2.1 * st + p.2.2.2))) f.payload

/-! ### What a frame writes (R294) -/

/-- The plane register at a local offset of a station block: its row, and the key of its first byte. -/
def planeReg (o : Nat) : Option (RegRow × Nat) :=
  if 0x40000 ≤ o ∧ o < 0x80000 then
    (findRow vuPlaneRows ((o - 0x40000) % 0x2000)).map fun r => (r.1, o / 0x2000 * 0x2000 + r.2)
  else if 0x80000 ≤ o ∧ o < 0x100000 then
    (findRow muPlaneRows ((o - 0x80000) % 0x800)).map fun r => (r.1, o / 0x800 * 0x800 + r.2)
  else findRow stationPlaneRows o

/-- RW bits of a table's entries (Tables 6.20 to 6.23), by ST_TBL_SEL value. -/
def tableMask (sel : Nat) : Nat :=
  match sel % 16 with
  | 0 => 0x7FFFF
  | 1 => 0xFFF7
  | 2 => let w := bits sel 17 16; if w = 0 then 0xFFFFFF7F else if w = 1 then 0xFFFFFF else 0xFFF
  | 3 => 0xFFFFF800FFFFFFFF
  | _ => 0

/-- RW bits of word w of a queue descriptor (Table 7.10). -/
def qdescMask (w : Nat) : Nat :=
  match w with
  | 0 => 0x07FFFFFF007FFFFF
  | 1 => 0
  | 2 => 0x0000FFFF000FFFFF
  | _ => 0x00007FFFFFFFF003

/-- One word that a frame gives a plane: kind and key of the plane word, the bits it replaces and their value, and
whether it is a plane field with no reserved or RO bit set. -/
structure PlaneWrite where
  kind : Nat
  idx : Nat
  mask : Nat
  value : Nat
  sound : Bool
  /-- The station-block offset, the ST_TBL_SEL value or the queue that it goes to. -/
  at_ : Nat
  deriving DecidableEq, Repr

/-- Units that a frame is replicated to. -/
def Frame.units (f : Frame) : List Nat :=
  if f.kind = 3 ∨ f.strideLog2 ≠ 0 then (List.range (f.unitLast + 1 - f.unitFirst)).map (· + f.unitFirst) else [0]

/-- The plane words that a frame of KIND 0 to 2 gives a station. -/
def Frame.words (f : Frame) (st : Nat) : List PlaneWrite :=
  let b := f.payloadFor st
  match f.kind with
  | 0 =>
    f.units.flatMap fun u =>
      (words32 b).zipIdx.map fun w =>
        let o := f.offset + 4 * w.2 + (if f.strideLog2 = 0 then 0 else u * 2 ^ f.strideLog2)
        match planeReg o with
        | some (r, k) =>
          let sh := 8 * (o - k)
          let m := r.rw / 2 ^ sh % 2 ^ 32
          { kind := kReg, idx := k, mask := m * 2 ^ sh, value := (w.1 &&& m) * 2 ^ sh, sound := w.1 &&& m == w.1, at_ := o }
        | none => { kind := kReg, idx := o, mask := 0, value := 0, sound := false, at_ := o }
  | 1 =>
    (List.range (b.length / 8)).map fun j =>
      let v := leNat b (8 * j) 8
      let sel := f.offset + 16 * j
      let m := tableMask sel
      { kind := kTbl, idx := sel, mask := m, value := v &&& m
        sound := v &&& m == v && decide (sel % 16 ≤ 3) && decide (sel < 2 ^ 32), at_ := sel }
  | 2 =>
    (List.range (b.length / 8)).map fun j =>
      let v := leNat b (8 * j) 8
      let q := f.offset + j / 4
      let m := qdescMask (j % 4)
      { kind := kQd, idx := 4 * q + j % 4, mask := m, value := v &&& m, sound := v &&& m == v && decide (q < 4096), at_ := q }
  | _ => []

/-- Writes one of a frame's words to a plane of a station. -/
def Mach.plant (m : Mach) (st : Nat) (plane : Bool) (w : PlaneWrite) : Mach :=
  if w.mask = 0 then m
  else
    let k := planeKey st plane w.kind w.idx
    let old := m.planeWord k
    m.setPlane k (old - (old &&& w.mask) + w.value)

/-- Writes a frame of KIND 0 to 2 to the plane of every station that it targets. -/
def Mach.plantFrame (m : Mach) (f : Frame) (plane : Nat → Bool) : Mach :=
  (maskBits (stationMask f.all f.stations m.stations) 16).foldl
    (fun m st => (f.words st).foldl (fun m w => m.plant st (plane st) w) m) m

/-- Writes the header's bank mode into BAY_SLAB_CTRL of bays whose plane no frame writes (R120). -/
def Mach.plantBankMode (m : Mach) (fs : List Frame) (hash : Bool) (st : Nat) (plane : Bool) : Mach :=
  if hash = false then m
  else
    let written := (fs.filter fun f => f.kind == 0 && bit (stationMask f.all f.stations m.stations) st).flatMap fun f =>
      (f.words st).map (·.idx)
    (List.range 256).foldl
      (fun m b =>
        let o := 0x20000 + b * 0x100
        if written.contains o then m
        else m.plant st plane { kind := kReg, idx := o, mask := 1, value := 1, sound := true, at_ := o }) m

/-- Puts one plane of a station back to Reset (R326). -/
def Mach.clearPlane (m : Mach) (st : Nat) (plane : Bool) : Mach :=
  { m with log := { m.log with
      plane := .clear ((st * 2 + b2n plane) * 4 * 2 ^ 32) ((st * 2 + b2n plane + 1) * 4 * 2 ^ 32) :: m.log.plane } }

end Sys2Proof.Machine
end

