-- ==== Sys2Proof/Machine/Checks.lean ====
section
/-! DEFINITION. The interlocking's checks 7 to 14 (R297, Table 11.6) on the frames that a grade takes, after patching.
They run on a trial machine: this one, with the image's frames written to planes that hold nothing else. -/

namespace Sys2Proof.Machine
open Sys2Proof

/-- A refusal: status, failing check, detail, and the region of the failing frame. -/
structure Verdict where
  status : Nat
  check : Nat
  detail : Nat
  region : Option Nat := none
  deriving DecidableEq, Repr

/-- Status codes of the interlocking (Table 13.9). -/
def vFrame : Nat := 0x20
def vRegion : Nat := 0x21
def vLatency : Nat := 0x22
def vSignature : Nat := 0x23
def vInterlock : Nat := 0x24

/-- A refusal for a frame. -/
def Frame.refuse (f : Frame) (status check : Nat) : Verdict := ⟨status, check, f.index, some f.region⟩

/-- The refusal of the lowest detail. -/
def firstVerdict (l : List Verdict) : Option Verdict := leastBy (·.detail) l

/-- What the checks look at. -/
structure Trial where
  /-- The trial machine. -/
  m : Mach
  param : Bool
  bankHash : Bool
  format3 : Bool
  ddrSize : Nat
  /-- The relocation base. -/
  base : Nat
  regions : List Region
  frames : List Frame
  tokens : List TokDecl
  counters : List CntDecl
  deriving DecidableEq, Repr

/-! ### Regions (R290) -/

def Region.mask (r : Region) (n : Nat) : Nat := stationMask r.all r.stations n
def Region.hasBay (r : Region) (b : Nat) : Bool :=
  decide (r.rowFirst ≤ b / 16) && decide (b / 16 ≤ r.rowLast) && decide (r.colFirst ≤ b % 16) && decide (b % 16 ≤ r.colLast)
/-- The region covers all 256 bays of its stations. -/
def Region.whole (r : Region) : Bool := r.hasBay 0 && r.hasBay 255
/-- A range of slab bytes lies in what the region may address. -/
def Region.slabHas (r : Region) (lo hi : Nat) : Bool := decide (r.slabBase ≤ lo) && decide (hi ≤ min r.slabEnd slabSize)

def rangesMeet (a b c d : Nat) : Bool := decide (a ≤ d) && decide (c ≤ b)

/-- Two regions that are not disjoint. -/
def Region.meets (r q : Region) (n : Nat) : Bool :=
  (r.mask n &&& q.mask n != 0 && rangesMeet r.rowFirst r.rowLast q.rowFirst q.rowLast
      && rangesMeet r.colFirst r.colLast q.colFirst q.colLast)
    || rangesMeet r.qFirst r.qLast q.qFirst q.qLast
    || (!r.external && !q.external && r.ddrSize != 0 && q.ddrSize != 0 && decide (r.ddrBase < q.ddrBase + q.ddrSize) && decide (q.ddrBase < r.ddrBase + r.ddrSize))

def Trial.n (t : Trial) : Nat := t.m.stations
def Trial.region (t : Trial) (i : Nat) : Region := nth {} t.regions i
/-- The stations of the image: those of its regions. -/
def Trial.stations (t : Trial) : Nat := t.regions.foldl (fun a r => a ||| r.mask t.n) 0
/-- The region of a bay. -/
def Trial.regionOf (t : Trial) (st b : Nat) : Option Region :=
  t.regions.find? fun r => bit (r.mask t.n) st && r.hasBay b
def Trial.slabOk (t : Trial) (st b lo hi : Nat) : Bool :=
  match t.regionOf st b with
  | some r => r.slabHas lo hi
  | none => false
/-- A DDR range lies in a window of the image and outside the depot area. -/
def Trial.ddrOk (t : Trial) (off n : Nat) : Bool :=
  t.m.ddrReachable off n && t.regions.any fun r =>
    decide (t.base + r.ddrBase ≤ off) && decide (off + n ≤ t.base + r.ddrBase + r.ddrSize)

/-- Region declarations against R290 and R307, and one another. -/
def Trial.regionVerdicts (t : Trial) (raws : List Bytes) (overlapDetail : Nat) : List Verdict :=
  let bad := (raws.zipIdx.filter fun p => regionMalformed t.param p.2 p.1).map fun p => Verdict.mk vInterlock 9 p.2 (some p.2)
  let rs := t.regions.zipIdx
  let off := rs.filter fun p =>
    p.1.mask t.n ≥ 2 ^ t.n || decide (slabSize < p.1.slabEnd) || p.1.ddrBase % 65536 != 0 || p.1.ddrSize % 65536 != 0
      || decide (t.ddrSize < p.1.ddrBase + p.1.ddrSize)
      || (t.format3 && !(p.1.mask t.n == 2 ^ t.n - 1 && p.1.whole && p.1.ddrBase == 0 && p.1.ddrSize == t.ddrSize))
  let meet := rs.filter fun p => rs.any fun q => decide (q.2 < p.2) && p.1.meets q.1 t.n
  bad ++ (match meet with
    | p :: _ => [⟨vInterlock, 9, overlapDetail, some p.2⟩]
    | [] => []) ++ off.map fun p => ⟨vRegion, 9, p.2, some p.2⟩

/-! ### Frames within their regions -/

/-- Whether a word at a station-block offset belongs to a region: a bay's slab, switch node or MU, a vector unit's eight
bays, or station-level state. -/
def Region.hasOffset (r : Region) (o : Nat) : Bool :=
  if 0x20000 ≤ o ∧ o < 0x40000 then r.hasBay (o % 0x10000 / 0x100)
  else if 0x40000 ≤ o ∧ o < 0x80000 then
    (List.range 8).all fun i => r.hasBay (groupBay ((o - 0x40000) / 0x2000) i)
  else if 0x80000 ≤ o ∧ o < 0x100000 then r.hasBay ((o - 0x80000) / 0x800)
  else r.whole

def Trial.frameIn (t : Trial) (f : Frame) : Bool :=
  let r := t.region f.region
  let sts := stationMask f.all f.stations t.n
  decide (f.region < t.regions.length) && (sts &&& r.mask t.n == sts) &&
    match f.kind with
    | 0 => (f.strideLog2 != 0 || r.whole) && (f.words 0).all fun w => decide (w.at_ < 0x100000) && r.hasOffset w.at_
    | 1 => (f.words 0).all fun w => if w.at_ % 16 = 3 then r.whole else r.hasBay (bits w.at_ 11 4)
    | 2 => (maskBits sts 16).all fun st => (f.words st).all fun w =>
        decide (r.qFirst ≤ w.at_) && decide (w.at_ ≤ r.qLast) && (w.idx % 4 != 0 || r.hasBay (bits w.value 12 5))
    | 3 => decide (f.offset < 2 ^ 20) && f.units.all (fun b => r.hasBay b)
        && r.slabHas f.offset (f.offset + f.payload.length)
    | 4 => !r.external && decide (r.ddrBase ≤ f.offset) && decide (f.offset + f.payload.length ≤ r.ddrBase + r.ddrSize)
    | _ => true

/-! ### What the programs reach (R456) -/

/-- The frame that writes a plane word of a station: the last one. -/
def Trial.frameOf (t : Trial) (st kind idx : Nat) : Frame :=
  (t.frames.reverse.find? fun f => decide (f.kind ≤ 2) && bit (stationMask f.all f.stations t.n) st
    && (f.words st).any fun w => w.kind == kind && w.idx == idx).getD {}

/-- The signal-box instructions of a station, with their indices. -/
def Trial.program (t : Trial) (st : Nat) : List (Nat × Nat) :=
  ((List.range 4096).map fun i => (i, t.m.sbInstr st i)).filter fun p => p.2 != 0

/-- Starts of an OP: immediate and instruction index. -/
def Trial.starts (t : Trial) (st op : Nat) : List (Nat × Nat) :=
  ((t.program st).filter fun p => insOp p.2 == op).map fun p => (insImm p.2, p.1)

/-- Pass descriptors reached from one. -/
def Trial.passes (t : Trial) (st b : Nat) : Nat → Nat → List Nat → List Nat
  | 0, _, seen => seen
  | fuel + 1, i, seen =>
    if seen.contains i then seen
    else
      let d := t.m.passDesc st b i
      if d.last then i :: seen else Trial.passes t st b fuel d.next (i :: seen)

/-- Transfer descriptors reached from one. -/
def Trial.xfers (t : Trial) (st : Nat) : Nat → Nat → List Nat → List Nat
  | 0, _, seen => seen
  | fuel + 1, i, seen =>
    if seen.contains i then seen
    else
      let d := t.m.xferDesc st { desc := i }
      if d.last then i :: seen else Trial.xfers t st fuel d.next (i :: seen)

/-- Vector-unit instructions reached from one, and whether index 255 is passed with no END (R99). -/
def Trial.insts (t : Trial) (st v : Nat) : Nat → Nat → List Nat × Bool
  | 0, _ => ([], true)
  | fuel + 1, j =>
    if 256 ≤ j then ([], true)
    else if (t.m.vuInst st v j).last then ([j], false)
    else
      let r := Trial.insts t st v fuel (j + 1)
      (j :: r.1, r.2)

/-- A queue for which a bay has a valid route. -/
def Trial.hasRoute (t : Trial) (st b q : Nat) : Bool :=
  (List.range 64).any fun r => let w := t.m.route st b r; bit w 18 && bits w 11 0 == q

/-! ### Matrix Units (R39, R65) -/

/-- WPATH and FMT pairs of Table 2.2. -/
def pathAllowed (wpath fmt : Nat) : Bool :=
  match wpath with
  | 0 => decide (fmt ≤ 4)
  | 1 | 2 => fmt == 2
  | 3 | 4 | 7 => fmt == 2 || fmt == 4
  | 5 | 6 => fmt == 3
  | _ => false

/-- The least order of a Hilbert grid that covers n (R39). -/
def leastOrder (n : Nat) : Nat := ((List.range 13).find? fun k => decide (n ≤ 2 ^ k)).getD 13

/-- A pass descriptor that R39, or a reserved value of Table 2.17, refuses. -/
def PassDesc.refused (d : PassDesc) : Bool :=
  !pathAllowed d.wpath d.fmt || d.walk == 3 || d.drain == 3 || decide (12 < d.order)
    || (d.mx && !(d.fmt == 0 || d.fmt == 2)) || (d.mx && !(d.wpath == 0 || d.wpath == 7))
    || (d.walk == 2 && d.order != leastOrder (max d.mGroups d.nTiles))

/-- The slab ranges that a pass descriptor reaches (R56). -/
def PassDesc.spans (d : PassDesc) : List (Nat × Nat) :=
  let n := if d.walk = 0 then 1 else d.nTiles
  let g := if d.walk = 0 then 1 else d.mGroups
  (if d.wQueue.isNone then [(d.wAddr, d.wAddr + n * d.kBlocks * d.stored)] else [])
    ++ if d.aQueue.isNone then [(d.aAddr, d.aAddr + 16 * d.mTiles * g * d.kBlocks * d.record)] else []

def Trial.muVerdicts (t : Trial) (st : Nat) : List Verdict :=
  (t.starts st 0x18).flatMap fun s =>
    let b := s.1 % 256
    (t.passes st b 33 (bits s.1 12 8) []).flatMap fun i =>
      let d := t.m.passDesc st b i
      let f := t.frameOf st kReg (0x80000 + b * 0x800 + 0x400 + 32 * i)
      (if d.spans.all fun p => t.slabOk st b p.1 p.2 then [] else [f.refuse vRegion 9])
        ++ (if d.drain = 2 ∧ t.hasRoute st b d.drainQ = false then [f.refuse vInterlock 10] else [])
        ++ if d.refused then [f.refuse vInterlock 11] else []

/-! ### Vector units (R99, R115, R149) -/

/-- The operations of Table 4.3. -/
def vuOps : List Nat :=
  [0x00, 0x01, 0x02, 0x03, 0x04, 0x05, 0x06, 0x07, 0x08, 0x09, 0x0A, 0x0B, 0x10, 0x11, 0x12, 0x13, 0x14, 0x15, 0x16, 0x18,
   0x19, 0x1A, 0x20, 0x21]

/-- A stream descriptor that R92 or R99 refuses by itself. The strides are in units of 16 bytes (Table 4.10). -/
def StreamDesc.refused (d : StreamDesc) : Bool :=
  d.kind == 3 || decide (11 < d.ty) || d.width == 8 || (d.bcast && d.inner != 1)
    || d.bay % d.width != 0 || d.addr % 16 != 0
    || (d.kind == 1 && !(d.inner == 64 && (d.ty == 0 || d.ty == 7)))

def StreamDesc.shape (d : StreamDesc) : Nat × Nat × Nat := (d.inner, d.outer, d.outer2)

/-- The type that R94 requires of a destination of an operation. R94 excepts CVT and SCALESEL and states no type for them: CVT
writes its TARGET's, SCALESEL FP32 or E8M0 by its SCALE_MODE (DEDUCED, log 84). -/
def dstTypeOk (i : VuInst) (ty : Nat) : Bool :=
  if i.op = 0x20 then ty == targetType i.target
  else if i.op = 0x21 then ty == (if i.scaleMode = 1 then 10 else 0)
  else ty == b2n i.f64

/-- The descriptors that an instruction names, by operand: 0 DST, 1 RED, 2 to 5 the sources and the mask it uses. -/
def VuInst.named (i : VuInst) : List (Nat × Nat) :=
  ([(0, i.dst), (1, i.red), (5, i.mask)] ++ (if i.op != 0x21 then [(2, i.srcA)] else [])
    ++ (if usesB i.op || (i.op == 0x20 && i.fsrc == 3) then [(3, i.srcB)] else [])
    ++ (if usesC i.op then [(4, i.srcC)] else [])).filter fun p => p.2 != 0 && i.op != 0x00

/-- An instruction that R99, R115 or R149 refuses, with its stream descriptors and the network of a queue. -/
def VuInst.refused (i : VuInst) (ds : Nat → StreamDesc) (net : Nat → Nat) : Bool :=
  if i.op = 0x00 then decide (4 < i.rnd) || i.target == 7 || i.red != 0
  else
    let no64 := i.op == 0x13 || i.op == 0x14 || i.op == 0x15 || i.op == 0x16 || i.op == 0x20 || i.op == 0x21
    let redOk := (decide (1 ≤ i.op) && decide (i.op ≤ 0x0B)) || i.op == 0x10 || i.op == 0x11 || i.op == 0x12 || i.op == 0x15
    let body := i.op != 0x21
    let short := i.op == 0x20 || i.op == 0x21
    let srcs := (i.named.filter fun p => 2 ≤ p.1).map fun p => ds p.2
    let shape := match srcs.find? fun d => !d.bcast with
      | some d => some d.shape
      | none => if i.dst ≠ 0 ∧ isReduction i.op = false then some (ds i.dst).shape else (srcs.head?).map StreamDesc.shape
    let sh := if body then shape.getD (1, 1, 1) else (1, 1, 1)
    let dstShape := if isReduction i.op then (1, sh.2) else sh
    let outBad := fun (d : StreamDesc) (tyOk : Nat → Bool) =>
      d.kind == 1 || (if d.kind = 2 ∧ net d.queue = 2 then d.ty != 7 || i.f64 || short else !tyOk d.ty)
    !vuOps.contains i.op || decide (4 < i.rnd) || i.target == 7 || (i.f64 && no64)
      || (body && i.srcA == 0)
      || i.named.any (fun p => (ds p.2).refused)
      || (i.named.any (fun p => p.1 == 1) && !redOk)
      || srcs.any (fun d => !d.bcast && d.shape != sh)
      || (i.dst != 0 && (!(ds i.dst).bcast && (ds i.dst).shape != dstShape))
      || (i.named.any fun p => p.1 == 1 && (ds p.2).shape != (1, sh.2))
      || (i.dst != 0 && outBad (ds i.dst) (dstTypeOk i))
      || (i.named.any fun p => p.1 == 1 && outBad (ds p.2) fun ty => ty == b2n i.f64)
      || (i.op != 0x01 && !i.f64 && srcs.any fun d => d.ty == 1)
      || (((i.op == 0x20 && i.fsrc == 2) || (i.op == 0x21 && i.scaleMode == 1)) && decide (2 < i.target))
      || (i.mask != 0 && i.dst != 0 && (ds i.dst).kind == 0 && decide (elemBits (ds i.dst).ty < 32))

/-- The slab ranges of a stream whose rows take `bytes` bytes: group bay, first byte, end. -/
def StreamDesc.span (d : StreamDesc) (bytes : Nat) : List (Nat × Nat × Nat) :=
  if d.kind ≠ 0 then []
  else
    let top := d.addr + (d.outer - 1) * d.rowStride + (d.outer2 - 1) * d.planeStride
    let last := (bytes - 1) / 128
    (List.range (min d.width (last + 1))).map fun g =>
      let mine := last - (last - g) % d.width
      (d.bay + g, d.addr, top + mine / d.width * 128 + (if mine = last then (bytes - 1) % 128 else 127) + 1)

/-- Bytes of a row of an operand of an instruction: MX records take 32 bytes each (R97). -/
def VuInst.rowBytes (i : VuInst) (operand : Nat) (d : StreamDesc) : Nat :=
  if operand = 0 ∧ i.op = 0x20 ∧ i.fsrc = 2 then
    32 * ((d.inner + (if i.target = 0 then 31 else 15)) / (if i.target = 0 then 32 else 16))
  else (elemBits d.ty * d.inner + 7) / 8

def Trial.vuVerdicts (t : Trial) (st : Nat) : List Verdict :=
  (t.starts st 0x19).flatMap fun s =>
    let v := s.1 % 32
    let r := t.insts st v 257 (bits s.1 12 5)
    (if r.2 then [(t.frameOf st kTbl (tblInstr s.2)).refuse vInterlock 11] else []) ++
    r.1.flatMap fun j =>
      let i := t.m.vuInst st v j
      let ds := t.m.streamDesc st v
      let f := t.frameOf st kReg (0x40000 + v * 0x2000 + 0x1000 + 16 * j)
      (i.named.flatMap fun p =>
        let d := ds p.2
        let g := t.frameOf st kReg (0x40000 + v * 0x2000 + 0x400 + 16 * p.2)
        (if (d.span (i.rowBytes p.1 d)).all fun x => t.slabOk st (groupBay v x.1) x.2.1 x.2.2 then []
          else [g.refuse vRegion 9])
          ++ if p.1 < 2 ∧ d.kind = 2 ∧ t.hasRoute st (groupBay v 0) d.queue = false then [g.refuse vInterlock 10] else [])
        ++ if i.refused ds (fun q => if t.m.ctlRoute st (groupBay v 0) q then 2 else 0) then [f.refuse vInterlock 11] else []

/-! ### Transfer descriptors (R233) -/

/-- A multicast entry (Table 9.13). -/
def Trial.mcast (t : Trial) (st s i : Nat) : Nat := t.m.stWord st (0x2000 + 128 * s + 8 * i)

/-- The queue that an address names: in range, on an enabled station. -/
def queueAddrOk (n a : Nat) : Bool := decide (a < 2 ^ 16) && decide (a / 2 ^ 12 < n)

def XferDesc.refused (d : XferDesc) (n : Nat) (sets : Nat → Nat → Nat) : Bool :=
  d.srcKind == 3 || d.ovr == 3 || decide (8 < d.pace) || d.rowLen % 4 != 0
    || d.srcStride % 4 != 0 || d.dstStride % 4 != 0
    || (if d.srcKind = kQueue then decide (2 ^ 16 ≤ d.src) else d.src % 4 != 0)
    || (match d.dstKind with
        | 2 => !queueAddrOk n d.dst
        | 3 => decide (16 ≤ d.dst) || (List.range 16).any fun i =>
            let w := sets d.dst i
            bit w 0 && (if bit w 1 then bits w 45 26 % 4 != 0 else decide (n ≤ bits w 5 2))
        | _ => d.dst % 4 != 0)

/-- A row at a global address: on another device, or in the declared regions of this one. -/
def Trial.rowOk (t : Trial) (a n : Nat) : Bool :=
  if gaDevice a ≠ t.m.deviceId then true
  else if gaSpace a = 0 then t.ddrOk (gaOffset a) n
  else if gaSpace a = 1 then
    let o := gaOffset a
    decide (o < 2 ^ 32) && t.slabOk (spStn o) (spBay o) (spAddr o) (spAddr o + n)
  else false

def Trial.xferReach (t : Trial) (st : Nat) (d : XferDesc) : Bool :=
  let rows := List.range d.rows
  (d.srcKind != kErmus || rows.all fun j => t.rowOk (d.srcAt j 0) d.rowLen)
    && (d.dstKind != kErmus || rows.all fun j => t.rowOk (d.dstAt j 0) d.rowLen)
    && (d.dstKind != kMulti || (List.range 16).all fun i =>
      let w := t.mcast st d.dst i
      !(bit w 0 && bit w 1) || rows.all fun j =>
        let a := bits w 45 26 + j * d.dstStride
        t.slabOk st (bits w 25 18) a (a + d.rowLen))

/-- A token reference of a station that names a declared token (R209). -/
def Trial.tokenOk (t : Trial) (st ref : Nat) : Bool :=
  t.tokens.any fun d => d.st == refStation st ref && d.logical == ref % 64

def Trial.engVerdicts (t : Trial) (st : Nat) : List Verdict :=
  (t.starts st 0x28 ++ t.starts st 0x29).flatMap fun s =>
    (t.xfers st 513 (bits s.1 11 3) []).flatMap fun i =>
      let d := t.m.xferDesc st { desc := i }
      let f := t.frameOf st kReg (0x10000 + 64 * i)
      (if d.refused t.n (t.mcast st) then [f.refuse vInterlock 11] else if t.xferReach st d then [] else [f.refuse vRegion 9])
        ++ if d.signal ∧ t.tokenOk st d.token = false then [⟨vInterlock, 13, d.token, some f.region⟩] else []

/-! ### Wheels, routes and bookings (R143) -/

/-- Whether a port exists at a bay. -/
def portThere (b p : Nat) : Bool := if p < 4 then (neighbour b p).isSome else if p = 4 then gateways.contains b else p == 5

/-- A word that arrives at an input of a bay is taken, and every branch reaches its end: the L output of its queue at the
queue's home bay, or a G output where its route leaves the station. -/
def Trial.wordOk (t : Trial) (st net : Nat) (q : Option Nat) (leaves : Bool) : Nat → Nat → Nat → Nat → Bool
  | 0, _, _, _ => false
  | fuel + 1, b, inp, e =>
    let outs := (List.range 6).filter fun o => bits (t.m.wheel st b net o e) 2 0 == inp
    !outs.isEmpty && outs.all fun o =>
      let id := bits (t.m.wheel st b net o e) 15 4
      if o = 5 then (match q with
        | some q => !leaves && id == q && t.m.qBay st q == b
        | none => true)
      else if o = 4 then gateways.contains b && (leaves || q.isNone)
      else
        match neighbour b o with
        | some b' => Trial.wordOk t st net q leaves fuel b' (facing o) ((e + 2) % 64)
        | none => false

/-- A written wheel entry that R143 refuses. -/
def Trial.wheelBad (t : Trial) (st sel : Nat) : Bool :=
  let b := bits sel 11 4
  let net := bits sel 13 12
  let out := bits sel 16 14
  let e := bits sel 22 17
  let w := t.m.wheel st b net out e
  let inp := bits w 2 0
  let id := bits w 15 4
  if inp = 7 then false
  else
    net == 3 || !portThere b out || !(portThere b inp || inp == 6) || (out == 5 && (inp == 5 || inp == 6))
      || (if inp = 5 ∨ inp = 6 then
            let r := t.m.route st b id
            let leaves := bits r 15 12 != st
            !(decide (id < 64) && bit r 18 && bits r 17 16 == net)
              || (if out = 4 then !leaves
                  else match neighbour b out with
                    | some b' => !t.wordOk st net (some (bits r 11 0)) leaves 8192 b' (facing out) ((e + 2) % 64)
                    | none => true)
          else if inp = 4 then
            (if out < 4 then match neighbour b out with
              | some b' => !t.wordOk st net none false 8192 b' (facing out) ((e + 2) % 64)
              | none => true
            else false)
          else false)

/-- A booking that names no lane of a link (R143). -/
def bookingBad (b : Booking) : Bool :=
  !b.gateway && (decide (gridLinks.length ≤ b.link) || (b.lane == 1 && (nth (0, 0, false) gridLinks b.link).2.2))

def Trial.netVerdicts (t : Trial) : List Verdict :=
  let words := t.frames.flatMap fun f => if f.kind ≠ 1 then []
    else (maskBits (stationMask f.all f.stations t.n) 16).flatMap fun st => (f.words st).map fun w => (f, st, w)
  let wheels := (words.filter fun x => x.2.2.idx % 16 == 1 && t.wheelBad x.2.1 x.2.2.idx).map fun x => x.1.refuse vInterlock 10
  let routes := (words.filter fun x => x.2.2.idx % 16 == 0 && bit x.2.2.value 18
      && (bits x.2.2.value 17 16 == 3 || decide (t.n ≤ bits x.2.2.value 15 12))).map fun x => x.1.refuse vInterlock 10
  let sends := (maskBits t.stations 16).flatMap fun st =>
    ((t.starts st 0x11 ++ t.starts st 0x12).filter fun s => !t.hasRoute st sbBay (s.1 % 4096)).map fun s =>
      (t.frameOf st kTbl (tblInstr s.2)).refuse vInterlock 10
  let bs := (bookingDecls (declsOf t.frames)).zipIdx
  let books := (bs.filter fun x => bookingBad x.1.2 || bs.any fun y => decide (y.2 < x.2) && y.1.2.clashes x.1.2).map
    fun x => x.1.1.refuse vInterlock 10
  wheels ++ routes ++ sends ++ books

/-! ### Points entries and signal-box instructions (R151, R153) -/

/-- A written points entry that R151 refuses; one that is off names no queue and no route. -/
def Trial.pointsBad (t : Trial) (st b e : Nat) : Bool :=
  let w := t.m.pointsWord st b e
  let mode := bits (w 0) 1 0
  let noEpoch := bits (w 1) 23 12 != 0 && bits (w 2) 11 0 == 0
  if mode = 0 then noEpoch
  else
    let n := bits (w 0) 5 2 + 1
    let ctl := bits (w 0) 19 8
    let dq := bits (w 0) 31 20
    let outs := if mode = 2 then n else 1
    let ins := if mode = 1 then 2 else if mode = 3 then n else 1
    (List.range outs).any (fun r => decide (64 ≤ bits (w 1) 5 0 + r) || !bit (t.m.route st b (bits (w 1) 5 0 + r)) 18)
      || (mode == 1 && n != 1) || noEpoch || decide (4095 < dq + ins - 1)
      || t.m.qBay st ctl != b || (List.range ins).any (fun k => t.m.qBay st (dq + k) != b) || t.m.qNet st ctl != 2

/-- A signal-box instruction of Table 6.6, with the remote operations that link protocol version 1 lacks shut out of
format 3 images (R312). -/
def instrOk (format3 : Bool) (i : Nat) : Bool :=
  let op := insOp i
  let imm := insImm i
  if op = 0x08 then decide (imm % 16 ≤ 8)
  else if op = 0x09 then decide (imm % 32 ≤ 17)
  else if op = 0x33 ∨ op = 0x35 ∧ bits imm 12 12 = 1 then !format3
  else decide (op ≤ 0x06) || (decide (0x10 ≤ op) && decide (op ≤ 0x12)) || (decide (0x18 ≤ op) && decide (op ≤ 0x1A))
    || (decide (0x20 ≤ op) && decide (op ≤ 0x26)) || (decide (0x28 ≤ op) && decide (op ≤ 0x2B))
    || (decide (0x30 ≤ op) && decide (op ≤ 0x36)) || op == 0x38 || op == 0x39

/-- Taps of the mileposts that R372 refuses: on a control or unused queue, or more than 64 on a station in one. -/
def Trial.tapsBad (t : Trial) (ms : List MileDecl) : Bool :=
  ms.any fun m =>
    m.taps.any (fun p => t.m.qKind p.st p.queue == 0 || t.m.qNet p.st p.queue == 2)
      || (List.range 16).any fun st => decide (64 < (m.taps.filter fun p => p.st == st).length)

def Trial.unitVerdicts (t : Trial) : List Verdict :=
  t.frames.flatMap fun f =>
    let sts := maskBits (stationMask f.all f.stations t.n) 16
    let ws := sts.flatMap fun st => (f.words st).map fun w => (st, w)
    let bad :=
      (f.kind == 0 && !(f.strideLog2 == 0 || f.strideLog2 == 8 || f.strideLog2 == 11 || f.strideLog2 == 13))
        || (decide (f.kind ≤ 2) && ws.any fun x => !x.2.sound)
        || (f.kind == 0 && ws.any fun x => decide (0x20000 ≤ x.2.at_) && decide (x.2.at_ < 0x30000)
            && x.2.at_ % 0x100 == 0 && (x.2.value % 2 != b2n t.bankHash))
        || (f.kind == 1 && ws.any fun x => x.2.idx % 16 == 3 && !instrOk t.format3 x.2.value)
        || (f.kind == 1 && ws.any fun x => x.2.idx % 16 == 2 && t.pointsBad x.1 (bits x.2.idx 11 4) (bits x.2.idx 15 12))
        || (f.kind == 5 && (!f.decls.2 || f.decls.1.any fun d => !declSound d))
        || (f.kind == 5 && f.decls.1.any fun d => d.1 == 8 && (nth 0 d.2 1 % 32 != 0 || nth 0 d.2 3 % 32 != 0
            || t.tapsBad (mileGroups (bits (nth 0 d.2 0) 11 0) (d.2.drop 4))))
        || (t.format3 && !t.bankHash)
    if bad then [f.refuse vInterlock 11] else []

/-- Milepost logs against the DDR windows (R372). -/
def Trial.logVerdicts (t : Trial) : List Verdict :=
  t.frames.flatMap fun f =>
    if f.kind = 5 ∧ f.decls.1.any (fun d => d.1 == 8 && bits (nth 0 d.2 0) 11 0 != 0 &&
      let lo := nth 0 d.2 1 + nth 0 d.2 2 * 2 ^ 32
      !t.regions.any fun r => !r.external && decide (r.ddrBase ≤ lo) && decide (lo + nth 0 d.2 3 ≤ r.ddrBase + r.ddrSize))
    then [f.refuse vRegion 9] else []

/-! ### Queues (R128, R185, R190, R198) -/

/-- The queues that the image describes on a station. -/
def Trial.queues (t : Trial) (st : Nat) : List Nat :=
  (t.frames.filter fun f => f.kind == 2 && bit (stationMask f.all f.stations t.n) st).flatMap fun f =>
    ((f.words st).filter fun w => w.idx % 4 == 0).map (·.at_)

/-- The guaranteed capacity of a queue in messages of DECL_LEN bytes (R190). -/
def QDesc.guaranteed (d : QDesc) : Nat :=
  if d.isRing then
    let r := recordBytes d.declLen
    if d.cap % r = 0 then d.cap / r else d.cap / r - 2
  else d.depth / wordsOf d.net d.declLen

/-- Bytes of an element of a combining queue. -/
def QDesc.elem (d : QDesc) : Nat := if d.ctype = 1 then 8 else 4

def Trial.queueBad (t : Trial) (st q : Nat) : Bool :=
  let m := t.m
  let w := m.qWord st q
  let d := m.qdesc st q
  decide (4 < d.kind) || d.ctype == 3 || d.net == 3 || d.late == 3
    || (d.isRing && decide (12 ≤ bits (w 0) 21 18)) || (d.sEn && decide (19 ≤ bits (w 3) 46 42))
    || (d.net == 2 && d.kind != 0 && d.kind != 1)
    || (d.kind != 0 && decide (d.limit < d.declLen))
    || (d.combines && d.declLen % d.elem != 0)
    || (d.combines && (List.range d.senders).any fun i =>
        let x := m.qdesc st (d.srcQ + i)
        decide (4095 < d.srcQ + i) || !(x.kind == 1 || x.kind == 2) || x.net != d.net || x.bay != d.bay
          || (t.queues st).any fun p => p != q && (let e := m.qdesc st p
              e.combines && decide (e.srcQ ≤ d.srcQ + i) && decide (d.srcQ + i < e.srcQ + e.senders)))
    || (d.joinShort && decide (d.guaranteed < d.skew))
    || ((d.kind == 1 || d.kind == 3) && decide (64 < (((t.queues st).eraseDups.filter fun p =>
        let e := m.qdesc st p
        (e.kind == 1 || e.kind == 3) && e.bay == d.bay && e.net == d.net).map fun p => (m.qdesc st p).depth).sum))

/-- The sidings of the image: station, queue, space, base and end. -/
def Trial.sidings (t : Trial) : List (Nat × Nat × Bool × Nat × Nat) :=
  (maskBits t.stations 16).flatMap fun st => (t.queues st).eraseDups.filterMap fun q =>
    let d := t.m.qdesc st q
    if d.kind ≠ 0 ∧ d.sEn then some (st, q, d.sDdr, d.sBase, d.sBase + d.sSize) else none

def Trial.queueVerdicts (t : Trial) : List Verdict :=
  let sts := maskBits t.stations 16
  let det := fun st q => q + st * 4096
  let reg := fun st q => some (t.frameOf st kQd (4 * q)).region
  let bad := sts.flatMap fun st => ((t.queues st).filter (t.queueBad st)).map fun q => Verdict.mk vInterlock 12 (det st q) (reg st q)
  let sd := t.sidings
  let rings := sts.flatMap fun st => (t.queues st).filterMap fun q =>
    let d := t.m.qdesc st q
    if d.isRing then some (slabOff st d.bay d.base, slabOff st d.bay d.base + d.cap) else none
  let lap := sd.filter fun x =>
    sd.any (fun y => (decide (y.1 < x.1) || (y.1 == x.1 && decide (y.2.1 < x.2.1))) && x.2.2.1 == y.2.2.1
        && decide (x.2.2.2.1 < y.2.2.2.2) && decide (y.2.2.2.1 < x.2.2.2.2))
      || (!x.2.2.1 && rings.any fun r => decide (x.2.2.2.1 < r.2) && decide (r.1 < x.2.2.2.2))
  let out := sd.filter fun x =>
    let n := x.2.2.2.2 - x.2.2.2.1
    if x.2.2.1 then !t.ddrOk x.2.2.2.1 n
    else !(decide (x.2.2.2.1 < 2 ^ 32) && decide (spAddr x.2.2.2.1 + n ≤ slabSize)
      && t.slabOk (spStn x.2.2.2.1) (spBay x.2.2.2.1) (spAddr x.2.2.2.1) (spAddr x.2.2.2.1 + n))
  bad ++ lap.map (fun x => ⟨vInterlock, 12, det x.1 x.2.1, reg x.1 x.2.1⟩)
    ++ out.map fun x => ⟨vRegion, 12, det x.1 x.2.1, reg x.1 x.2.1⟩

/-- Ring regions outside the slab or their region (R128). -/
def Trial.ringVerdicts (t : Trial) : List Verdict :=
  (maskBits t.stations 16).flatMap fun st => ((t.queues st).filter fun q =>
    let d := t.m.qdesc st q
    d.isRing && decide (bits (t.m.qWord st q 0) 21 18 < 12) && !t.slabOk st d.bay d.base (d.base + d.cap)).map fun q =>
      (t.frameOf st kQd (4 * q)).refuse vRegion 9

/-! ### Tokens, counters and channels -/

/-- Logical numbers that are not 0 upward without a gap or a repeat. -/
def gapped (l : List Nat) : Bool := !((List.range l.length).all fun k => l.contains k)

def Trial.tokenVerdicts (t : Trial) : List Verdict :=
  let decl := (List.range 16).flatMap fun st =>
    let l := (t.tokens.filter fun d => d.st == st).map (·.logical)
    if gapped l ∨ 48 < l.length ∨ (l ≠ [] ∧ bit t.stations st = false) then
      [Verdict.mk vInterlock 13 (2 ^ 10 + st * 2 ^ 6 + ((lowest 64 fun k => !l.contains k).getD 63)) none] else []
  let cl := t.counters.map (·.logical)
  let cnt := if gapped cl then [Verdict.mk vInterlock 13 ((lowest 64 fun k => !cl.contains k).getD 63) none] else []
  let refs := (maskBits t.stations 16).flatMap fun st => (t.program st).filterMap fun p =>
    let op := insOp p.2
    let imm := insImm p.2
    let reg := some (t.frameOf st kTbl (tblInstr p.1)).region
    let cursors := ((t.tokens.find? fun d => d.st == refStation st (imm % 2 ^ 11) && d.logical == imm % 64).map (·.cursors)).getD 0
    if (op = 0x20 ∨ op = 0x21 ∨ op = 0x23) ∧ bit imm 11 = false then
      if t.tokenOk st (imm % 2 ^ 11) = false then some ⟨vInterlock, 13, imm % 2 ^ 11, reg⟩
      else if (op = 0x21 ∨ (op = 0x23 ∧ bit imm 14)) ∧ cursors ≤ bits imm 13 12 then some ⟨vInterlock, 13, imm % 2 ^ 11, reg⟩
      else none
    else if (op = 0x24 ∨ op = 0x25 ∨ op = 0x26) ∧ t.counters.any (fun c => c.logical == imm % 64) = false then
      some ⟨vInterlock, 13, imm % 64, reg⟩
    else none
  decl ++ cnt ++ refs

/-- Timetabled channel records (R247): channel mask, period and phase. -/
def channelDecls (ds : List (Frame × Nat × List Nat)) : List (Frame × Nat × Nat × Nat) :=
  ds.filterMap fun d =>
    if d.2.1 = 4 then some (d.1, bits (nth 0 d.2.2 0) 15 0, bits (nth 0 d.2.2 1) 11 0, bits (nth 0 d.2.2 1) 23 12) else none

def Trial.channelVerdicts (t : Trial) (refgap : Nat) : List Verdict :=
  ((channelDecls (declsOf t.frames)).filter fun c => !(decide (refgap ≤ c.2.2.1) && decide (c.2.2.1 ≤ 3705)
    && decide (c.2.2.2 < c.2.2.1))).map fun c => ⟨vInterlock, 14, c.2.1, some c.1.region⟩

/-! ### Checks 9 to 14 in order -/

/-- The first refusal of checks 9 to 14. `more9` and `more11` are what a partial load refuses besides (R302). -/
def Trial.check (t : Trial) (raws : List Bytes) (overlapDetail refgap : Nat) (more9 more11 : List Verdict := []) :
    Option Verdict :=
  let units := (maskBits t.stations 16).flatMap fun st => t.muVerdicts st ++ t.vuVerdicts st ++ t.engVerdicts st
  let of := fun n => units.filter fun v => v.check == n
  (t.regionVerdicts raws overlapDetail ++ more9).head?
  <|> (firstVerdict ((t.frames.filter fun f => !t.frameIn f).map fun f => f.refuse vRegion 9))
  <|> (firstVerdict (of 9 ++ t.ringVerdicts ++ t.logVerdicts))
  <|> (firstVerdict (of 10 ++ t.netVerdicts))
  <|> (firstVerdict (of 11 ++ t.unitVerdicts ++ more11))
  <|> (firstVerdict t.queueVerdicts)
  <|> (firstVerdict (of 13 ++ t.tokenVerdicts))
  <|> (firstVerdict (t.channelVerdicts refgap))

/-! ### Latencies (R308 to R310) -/

/-- Check 7: the declared latency of each ID, or the ID refused with its status. -/
def latencyRecords : List Nat → List (Option Nat) → Except Nat (List (Option Nat))
  | [], d => .ok d
  | w :: ws, d =>
    let id := bits w 7 0
    if 38 < id ∨ (nth none d id).isSome then .error id
    else latencyRecords ws (d.set id (some (bits w 23 8)))

/-- The result of check 7: decl, pad and late of each ID, or the refusal. -/
def latencyCheck (ds : List (Frame × Nat × List Nat)) (act : List Nat) (format3 elastic : Bool) :
    Except Verdict (List Nat × List Nat × List Nat) :=
  let ws := ds.flatMap fun d => if d.2.1 = 1 then d.2.2 else []
  match latencyRecords ws (List.replicate 39 none) with
  | .error id => .error ⟨vInterlock, 7, id, none⟩
  | .ok d =>
    match (if format3 then none else findIndex (fun x => x.isNone) d) with
    | some id => .error ⟨vInterlock, 7, id, none⟩
    | none =>
      let decl := (d.zip act).map fun x => x.1.getD x.2
      let bad := ((decl.zip act).zipIdx).findSome? fun x =>
        if x.1.2 ≤ x.1.1 then (if 255 < x.1.1 - x.1.2 then some (Verdict.mk vInterlock 7 x.2 none) else none)
        else if elastic then none else some ⟨vLatency, 7, x.2, none⟩
      match bad with
      | some v => .error v
      | none => .ok (decl, (decl.zip act).map (fun x => x.1 - x.2), (decl.zip act).map fun x => x.2 - x.1)

end Sys2Proof.Machine
end

