-- ==== Sys2Proof/Machine/Records.lean ====
section
/-! DEFINITION. Waybills, completion records and result windows (R357 to R360, R369 to R371, R459). -/

namespace Sys2Proof.Machine
open Sys2Proof

/-! ### Identity (R413, R414) -/

/-- The identity public key: of the seed in PROVISIONED and DEPLOYED, none in the other states. -/
def Mach.idKey (m : Mach) : Option Bytes :=
  if m.lifeCycle = 1 ∨ m.lifeCycle = 2 then m.dev.chip.seed.map Config.mldsaKey else none

/-- A signature under the identity key. -/
def Mach.idSign (m : Mach) (msg : Bytes) : Bytes := padTo 4627 (Config.mldsaSign (m.dev.chip.seed.getD []) msg)

/-! ### The waybill (Table 14.3) -/

/-- A count that saturates at the largest value of n bytes. -/
def satLe (n x : Nat) : Bytes := toLe n (min x (2 ^ (8 * n) - 1))

/-- The 16-byte digests of milepost records, in log order. -/
def logDigests (d : FMap Bytes) : Bytes := d.flatMap fun e => e.2

/-- DIGEST of a waybill (R370). -/
def waybillDigest (c : Consist) (j : Job) : Bytes :=
  sha3 (c.digest ++ sha3 (logDigests j.wDigests) ++ sha3 (padTo 64 j.argBytes ++ logDigests j.iDigests))

/-- FLAGS of a waybill (Table 14.4): a job that never reached consist time 0 has none of bits 0 to 10 and 14. -/
def waybillFlags (c : Consist) (j : Job) (status : Nat) : Nat :=
  let run := if j.started then j.flags &&& 0x47FE else 0
  pack [(0, 1, b2n (j.started && run &&& 0x7FE == 0 && j.slip == 0)), (1, 10, run / 2), (11, 1, b2n (c.pad.any (· != 0))),
    (12, 1, b2n c.signed), (13, 1, b2n (!c.miles.any fun x => x.role == 2)), (14, 1, run / 2 ^ 14), (15, 1, b2n (status != 0))]

/-- The 112 bytes of a waybill. -/
def waybill (c : Consist) (j : Job) (status : Nat) : Bytes :=
  let k := fun x => if j.started then x else 0
  waybillDigest c j ++ toLe 8 j.seq ++ satLe 8 (k j.endCyc) ++ satLe 8 (k j.frozenCyc) ++ satLe 4 (k j.waves)
    ++ satLe 4 (k j.quorums) ++ satLe 4 (k j.spilled) ++ satLe 4 (k j.slip) ++ satLe 4 (k j.records)
    ++ toLe 4 (waybillFlags c j status)

/-! ### The completion record (R357, R358, Table 13.13) -/

/-- Bytes 112 to 127 of a completion record. -/
def recordTail (h : Nat) (j : Job) (status : Nat) (signed v2 phase : Bool) : Bytes × Bytes :=
  (toLe 8 j.seq, toLe 8 (pack [(0, 12, h), (16, 16, status), (32, 1, b2n signed), (33, 1, b2n v2), (63, 1, b2n phase)]))

/-- A result window (Table 13.14). -/
def Mach.window (m : Mach) (w : Nat) : Window := fget {} m.dev.host.windows w
def Mach.setWindow (m : Mach) (w : Nat) (x : Window) : Mach :=
  { m with dev := { m.dev with host := { m.dev.host with windows := fput m.dev.host.windows w x } } }

/-- The record of a job can be written now: one that goes to host memory needs Bus Master Enable (R379). -/
def Mach.recordCan (m : Mach) (j : Job) : Bool := j.window.isSome || m.busMaster

/-- Writes the completion record of an ended job, after its countersignature, and raises its vector. A DEADLINE_MISS is
counted (R324). -/
def Mach.deliver (m : Mach) (h : Nat) (j : Job) : Mach :=
  let c := m.consistOf j
  let v2 := decide (m.version < 0x300)
  let wb := waybill c j j.status
  let shown := if v2 then zeros 112 else wb
  let m := if j.status = scMiss then
      let m := m.stat Reg.ttMisses 1
      if bit (m.raw Reg.ttCtrl) 1 then m.event { addr := Reg.ttCtrl, bit := 1, info := m.raw Reg.ttMisses % 2 ^ 32 } else m
    else m
  let m := match j.window with
    | some w =>
      let t := recordTail h j j.status false v2 true
      m.setWindow w { m.window w with status := j.status, record := shown ++ t.1 ++ t.2 }
    | none =>
      let t := recordTail h j j.status j.countersign v2 j.recPhase
      let m := if j.countersign then m.hostWrite (j.result + 128) (m.idSign wb) else m
      ((m.hostWrite j.result shown).hostWrite (j.result + 112) t.1).hostWrite (j.result + 120) t.2
  let m := m.setJob h { j with phase := .ended }
  match j.vector with
  | some v => m.msix v
  | none => m

/-- Completes a job that is not running with a status, and writes its record at once where it can be written; where it
cannot, the record is owed (R379). -/
def Mach.finish (m : Mach) (h : Nat) (j : Job) (status : Nat) : Mach :=
  let j := { j with status := status, phase := .finishing, install := none }
  if m.recordCan j then m.deliver h j else m.setJob h j

/-- COMPLETION_RECORD: every write of an ended job has taken effect: its engines have none outstanding, no remote write
of it waits for its acknowledgement, and no log write of it stands in a channel. -/
def Mach.jobWrites (m : Mach) (h : Nat) : Bool :=
  m.dev.rem.any (fun e => e.2.job == h && isWriteOp e.2.op)
    || m.dev.host.heldOut.any (fun x => x.job == h)
    || m.dev.ddr.any (fun c => (c.2.port ++ c.2.served ++ c.2.held).any fun r => r.write && r.job == some h)

/-! ### RELEASE_RESULT (R359, R360) -/

/-- RELEASE_RESULT. -/
def effReleaseResult (r : Nat) (m : Mach) : Mach :=
  m.command r 0x42 fun c m =>
    let h := c.p 0 % 4096
    match m.job h with
    | none => m.refuse r scStale 0
    | some j =>
      if j.seq ≠ c.p 1 then m.refuse r scStale j.seq
      else if j.phase ≠ .ended then m.refuse r scNotReady 0
      else
        let m := { m with dev := { m.dev with jobs := fdel m.dev.jobs h } }
        let m := match j.window with
          | some w => m.setWindow w { m.window w with status := scStale, busy := false }
          | none => m
        m.accept r 0

def execReleaseResult (r : Nat) (s : State) := act .run (.releaseResult r) s (effReleaseResult r)

end Sys2Proof.Machine
end

