-- ==== Sys2Proof/Machine/Loading.lean ====
section
/-! DEFINITION. LOAD_CONSIST, LOAD_PARTIAL, UNLOAD_CONSIST and RELEASE (R296 to R312, R457). -/

namespace Sys2Proof.Machine
open Sys2Proof

/-! ### The depot area (R457) -/

/-- 64 KiB units that consists share. -/
def depotUnits : Nat := 61440

/-- The extents that resident consists and a load in progress hold: first unit and length. -/
def Mach.extents (m : Mach) : List (Nat × Nat) :=
  (m.dev.consists.flatMap fun c => [c.2.golden, c.2.stabling]) ++ (m.dev.load.bind (·.extent)).toList

/-- Whether n units from s are free. -/
def extentFree (taken : List (Nat × Nat)) (n s : Nat) : Bool :=
  decide (s + n ≤ depotUnits) && taken.all fun t => decide (s + n ≤ t.1) || decide (t.1 + t.2 ≤ s)

/-- Places where a free extent can begin. -/
def extentStarts (taken : List (Nat × Nat)) : List Nat := 0 :: taken.map fun t => t.1 + t.2

/-- The lowest-addressed free extent of n units. -/
def freeExtent (taken : List (Nat × Nat)) (n : Nat) : Option Nat :=
  leastBy id ((extentStarts taken).filter (extentFree taken n))

/-- Units of the largest free extent. -/
def largestExtent (taken : List (Nat × Nat)) : Nat :=
  ((extentStarts taken).map fun s =>
    if extentFree taken 1 s then ((taken.map (·.1)).filter (s ≤ ·)).foldl min depotUnits - s else 0).foldl max 0

/-- IL_DEPOT_FREE. -/
def Mach.depotFree (m : Mach) : Nat :=
  pack [(0, 32, depotUnits - (m.extents.map (·.2)).sum), (32, 32, largestExtent m.extents)]

/-- Units of a golden copy of n frames. -/
def goldenUnits (n : Nat) : Nat := (1064 * n + 65535) / 65536

/-- A frame that is staged: KIND 0 to 3, 5 and 6. -/
def Frame.staged (f : Frame) : Bool := f.kind != 4

/-! ### Checks 1 to 6 -/

/-- The signature rule (R293, R411). -/
def Mach.signatureOk (m : Mach) (x : Image) : Bool :=
  if x.signed then
    let s := x.keyId % 4
    decide (m.lifeCycle ≠ 0) && decide (x.keyId < 4) && bit m.dev.chip.burnt s && !bit m.dev.chip.revoked s
      && Config.mldsaVerify (fget [] m.dev.chip.okey s) x.digest x.sig
  else m.lifeCycle != 2

/-- Checks 1 to 5, with the golden-copy extent taken after check 1: the image, or the refusal. Bytes that a failed read
did not bring are missing at the end. -/
def Mach.readImage (m : Mach) (b : Bytes) (len : Nat) (room : Nat → Bool) : Except Verdict Image :=
  if b.length < min 256 len then .error ⟨vFrame, 2, b.length, none⟩
  else
    match headerWrong b len with
    | some (st, off) => .error ⟨st, 1, off, none⟩
    | none =>
      if room (leNat b 20 4) = false then .error ⟨vInterlock, 15, 1, none⟩
      else if b.length < len then .error ⟨vFrame, 2, b.length, none⟩
      else
        let x := parseImage b
        match (List.range x.nFrames).find? fun i => !frameSound i (x.frameBytes i) with
        | some i => .error ⟨vFrame, 3, i, some (parseFrame (x.frameBytes i)).region⟩
        | none =>
          if x.recomputed ≠ x.digest then .error ⟨vFrame, 4, 0, none⟩
          else if m.signatureOk x = false then .error ⟨vSignature, 5, x.keyId, none⟩
          else .ok x

/-- The grade rule of check 6 (R307, R312). -/
def Image.gradeOk (x : Image) (grade : Nat) : Bool :=
  bit x.grades grade && (x.param || (x.grades == 2 ^ grade && !x.frames.any (·.all))) && !(x.format == 3 && x.param)

/-! ### Check 8: assignment and patches (R205, R216, R304) -/

/-- The slot of each declared token of each station, keyed by 64 × station + logical number: the lowest free slots in
ascending order, 63 where none is free. -/
def Mach.assignTokens (m : Mach) (ds : List TokDecl) : FMap Nat :=
  let keys : FMap Unit := ds.foldl (fun a d => fput a (d.st * 64 + d.logical) ()) []
  keys.foldl
    (fun (a : FMap Nat) k =>
      let st := k.1 / 64
      let free := lowest 48 fun t =>
        (m.token st t).state == .unassigned && !(a.any fun e => e.1 / 64 == st && e.2 == t)
      fput a k.1 (free.getD 63)) []

/-- The physical counter of each declared counter. -/
def Mach.assignCounters (m : Mach) (ds : List CntDecl) : FMap Nat :=
  let keys : FMap Unit := ds.foldl (fun a d => fput a d.logical ()) []
  keys.foldl
    (fun (a : FMap Nat) k =>
      let free := lowest 64 fun t => !bit (m.raw (Reg.tkoOwner t)) 12 && !(a.any fun e => e.2 == t)
      fput a k.1 (free.getD 64)) []

/-- What patch records draw on. -/
structure PatchEnv where
  base : Nat
  vals : List Nat
  tokens : List TokDecl
  counters : List CntDecl
  deriving DecidableEq, Repr

/-- The value of a patch source (Table 11.7), none where the record fails; STN_INDEX is 0 here. -/
def Mach.patchSource (m : Mach) (e : PatchEnv) (src arg : Nat) : Option Nat :=
  match src with
  | 0 => e.vals[arg]?
  | 1 => some e.base
  | 2 => some (m.deviceId * 2 ^ 46 + e.base)
  | 3 => some m.deviceId
  | 4 => (e.tokens.find? fun d => d.st == bits arg 9 6 && d.logical == bits arg 5 0).map (·.slot)
  | 5 => (e.counters.find? fun d => d.logical == bits arg 5 0).map fun d => min d.phys 63
  | 6 => some m.stations
  | 7 => some 0
  | _ => none

/-- A patch record, none where it fails check 8. -/
def Mach.patchRecord (m : Mach) (e : PatchEnv) (fs : List Frame) (b : Bytes) : Option Patch :=
  let w1 := leNat b 4 4
  let off := bits w1 9 0
  let width := if bit w1 10 then 8 else 4
  let src := bits w1 15 12
  match fs.find? fun f => f.index == leNat b 0 4, m.patchSource e src (bits w1 31 16) with
  | some f, some v =>
    if 4 < f.kind ∨ off % 4 ≠ 0 ∨ f.payload.length < off + width ∨ (src = 7 ∧ f.all = false) then none
    else some { target := f.index, off := off, width := width, stn := src == 7, value := v + leNat b 8 8 }
  | _, _ => none

/-- The patch records of a PATCH frame, none where one fails. -/
def Mach.patchFrame (m : Mach) (e : PatchEnv) (fs : List Frame) (f : Frame) : Option (List Patch) :=
  if f.payload.length % 16 ≠ 0 then none
  else (List.range (f.payload.length / 16)).mapM fun i => m.patchRecord e fs (slice f.payload (16 * i) 16)

/-- Applies patches in order. -/
def patchAll (fs : List Frame) (ps : List Patch) : List Frame :=
  ps.foldl (fun fs p => fs.map fun f => if f.index = p.target then f.patch p else f) fs

/-- All patch records of the frames that apply on a grade, or the frame of the first that fails. -/
def Mach.patches (m : Mach) (e : PatchEnv) (fs : List Frame) (grade : Nat) : Except Verdict (List Patch) :=
  ((fs.filter fun f => f.kind == 6 && f.on grade).foldl
    (fun (a : Except Verdict (List Patch)) f =>
      match a with
      | .error v => .error v
      | .ok l => match m.patchFrame e fs f with
        | some ps => .ok (l ++ ps)
        | none => .error (f.refuse vInterlock 8)) (.ok []))

/-! ### Checks 9 to 14 -/

/-- The machine with nothing but an image's frames in its planes. -/
def Mach.trial (m : Mach) (fs : List Frame) (hash : Bool) : Mach :=
  let m := { m with
    dev := { m.dev with stn := [] }
    log := { m.log with plane := .clear 0 (2 ^ 40) :: m.log.plane } }
  let ws := fs.filter fun f => f.kind ≤ 2
  let m := ws.foldl (fun m f => m.plantFrame f fun _ => false) m
  (List.range 16).foldl (fun m st => m.plantBankMode ws hash st false) m

/-! ### Check 15 -/

/-- Bytes of every ring region and slab siding of a consist's queues (R335). -/
def Trial.queueBytes (t : Trial) : Nat :=
  ((maskBits t.stations 16).map fun st =>
    (((t.queues st).eraseDups.map fun q =>
      let d := t.m.qdesc st q
      (if d.isRing then d.cap else 0) + (if d.kind ≠ 0 ∧ d.sEn ∧ d.sDdr = false then d.sSize else 0))).sum).sum

/-- Bytes of the ranges at a stopping point. -/
def StopDecl.bytes (s : StopDecl) : Nat := (s.ranges.map fun r => (r.bayLast + 1 - r.bayFirst) * r.lines * 128).sum

/-- V_k of R335: `fixed` is the bytes of rings and sidings. -/
def stableBytes (stations fixed : Nat) (s : StopDecl) : Nat := 22020096 * popCount stations 16 + s.bytes + fixed

/-- A window that is not external against the windows of resident consists (R306); a region with a window of size 0 has
none. -/
def Mach.windowClash (m : Mach) (base : Nat) (rs : List Region) : Bool :=
  rs.any fun r => !r.external && r.ddrSize != 0 && m.dev.consists.any fun c => c.2.regions.any fun q =>
    q.ddrSize != 0 && decide (base + r.ddrBase < c.2.base + q.ddrBase + q.ddrSize) && decide (c.2.base + q.ddrBase < base + r.ddrBase + r.ddrSize)

/-- Free tap registers of a station: 256 less those of resident consists, a register for each tap (R372). -/
def Mach.tapsFree (m : Mach) (st : Nat) : Nat :=
  256 - (m.dev.consists.map fun c => ((c.2.miles.map fun k => (k.taps.filter fun t => t.st == st).length).sum)).sum

/-- The resident index, golden extent and stabling extent that a load takes, or the refusal of check 15. -/
def Mach.resources (m : Mach) (t : Trial) (stops : List StopDecl) (miles : List MileDecl) (golden : Nat × Nat) :
    Except Verdict (Nat × (Nat × Nat)) :=
  let no := Verdict.mk vInterlock 15 0 none
  match lowest 64 fun c => (m.consist c).isNone with
  | none => .error no
  | some i =>
    if t.tokens.any (fun d => d.slot == 63) ∨ t.counters.any (fun d => d.phys == 64)
        ∨ (List.range 16).any (fun st =>
          decide (m.tapsFree st < (miles.map fun k => (k.taps.filter fun p => p.st == st).length).sum)) then .error no
    else
      let fixed := t.queueBytes
      let v := (stops.map (stableBytes t.stations fixed)).foldl max (stableBytes t.stations fixed {})
      let n := (v + 65535) / 65536
      match freeExtent (golden :: m.extents) n with
      | none => .error ⟨vInterlock, 15, 2, none⟩
      | some s =>
        if t.base % 65536 ≠ 0 ∨ m.depotBase < t.base + t.ddrSize ∨ m.windowClash t.base t.regions then .error no
        else .ok (i, (s, n))

/-! ### A full load -/

/-- The consist that an image declares, with what the load gave it. -/
def Trial.consist (t : Trial) (x : Image) (staged : List Frame) (lat : List Nat × List Nat × List Nat) (act : List Nat)
    (golden stabling : Nat × Nat) : Consist :=
  let ds := declsOf t.frames
  let chans := channelDecls ds
  let stop := (ds.find? fun d => d.2.1 == 7).map (·.2.2)
  let mile := (ds.find? fun d => d.2.1 == 8).map (·.2.2)
  { digest := x.digest, stations := t.stations, param := x.param, format3 := x.format == 3, signed := x.signed
    elastic := x.elastic || x.format == 3, bankHash := x.bankHash, nRegions := x.nRegions, regions := t.regions
    frames := staged, base := t.base, size := x.ddrSize
    decl := lat.1, act := act, pad := lat.2.1, late := lat.2.2
    tokens := t.tokens, counters := t.counters
    ttMask := chans.foldl (fun a c => a ||| c.2.1) 0
    ttP := (chans.head?.map (·.2.2.1)).getD 0, ttPhi := (chans.head?.map (·.2.2.2)).getD 0
    ports := ds.foldl (fun a d => if d.2.1 = 5 then a ||| bits (nth 0 d.2.2 0) 5 0 else a) 0
    bookings := (bookingDecls ds).map (·.2)
    runMax := (stop.map fun w => nth 0 w 1).getD 4294967295
    stops := (stop.map fun w => stopGroups (bits (nth 0 w 0) 11 0) (w.drop 2)).getD []
    miles := (mile.map fun w => mileGroups (bits (nth 0 w 0) 11 0) (w.drop 4)).getD []
    logBase := (mile.map fun w => nth 0 w 1 + nth 0 w 2 * 2 ^ 32).getD 0, logSize := (mile.map fun w => nth 0 w 3).getD 0
    qBytes := t.queueBytes, golden := golden, stabling := stabling }

/-- What a full load that passes checks 1 to 15 has: the consist's index, the consist, its DDR frames' patches. -/
structure Plan where
  index : Nat
  consist : Consist
  image : Image
  patches : List Patch
  deriving DecidableEq, Repr

/-- The golden-copy extent that a full load takes once check 1 has passed: the lowest free one that holds all its frames
(R457). -/
def Mach.goldenExtent (m : Mach) (b : Bytes) (len : Nat) : Option (Nat × Nat) :=
  if b.length < min 256 len ∨ (headerWrong b len).isSome then none
  else
    let n := goldenUnits (leNat b 20 4)
    (freeExtent m.extents n).map fun s => (s, n)

/-- Checks 1 to 15 of a full load that has taken an extent. `overlap` is the detail that the refusal of overlapping regions
gives, which R297 leaves open. -/
def Mach.planLoad (m : Mach) (extent : Option (Nat × Nat)) (b : Bytes) (len base : Nat) (vals : List Nat) (overlap : Nat) :
    Except Verdict Plan := do
  let x ← m.readImage b len fun _ => extent.isSome
  let start := (extent.map (·.1)).getD 0
  if x.partialLoad then .error ⟨scBadParam, 6, 0, none⟩
  if x.gradeOk m.dev.chip.grade = false then .error ⟨vInterlock, 6, 0, none⟩
  let live := x.frames.filter fun f => f.on m.dev.chip.grade
  let act := Config.latencies m.dev.chip.stepping
  let lat ← latencyCheck (declsOf live) act (x.format == 3) (x.elastic || x.format == 3)
  let ds := declsOf live
  let slots := m.assignTokens (tokenDecls ds)
  let phys := m.assignCounters (counterDecls ds)
  let tokens := (tokenDecls ds).map fun d => { d with slot := fget 63 slots (d.st * 64 + d.logical) }
  let counters := (counterDecls ds).map fun d => { d with phys := fget 64 phys d.logical }
  let ps ← m.patches { base := base, vals := vals, tokens := tokens, counters := counters } x.frames m.dev.chip.grade
  let frames := patchAll x.frames ps
  let live := frames.filter fun f => f.on m.dev.chip.grade
  let t : Trial :=
    { m := m.trial live x.bankHash, param := x.param, bankHash := x.bankHash, format3 := x.format == 3
      ddrSize := x.ddrSize, base := base, regions := x.regions, frames := live, tokens := tokens, counters := counters }
  match t.check (x.regions.map (·.raw)) overlap (nth 0 lat.1 Config.dmTtRefgap) with
  | some v => .error v
  | none => pure ()
  let staged := frames.filter Frame.staged
  let golden := (start, goldenUnits staged.length)
  let c := t.consist x staged lat act golden (0, 0)
  -- the extent is trimmed only when the load has passed (R457)
  let r ← m.resources t c.stops c.miles (start, goldenUnits x.nFrames)
  .ok { index := r.1, consist := { c with stabling := r.2 }, image := x, patches := ps }

/-- The second pass: the first DDR frame, in order, whose bytes did not come or whose CRC fails. -/
def Plan.secondBad (p : Plan) (b : Bytes) : Option Verdict :=
  (p.image.frames.filter fun f => f.kind == 4).findSome? fun f =>
    let off := 256 + 64 * p.image.nRegions + 1064 * f.index
    if b.length < off + 1064 then some ⟨vFrame, 2, b.length, none⟩
    else
      let r := slice b off 1064
      if crc32c (r.take 1056) = leNat r 1056 4 then none else some (f.refuse vFrame 3)

/-- Writes the DDR frames of the second pass that apply on the grade. -/
def Mach.ddrFrames (m : Mach) (p : Plan) (b : Bytes) : Mach :=
  (patchAll ((p.image.frames.filter fun f => f.kind == 4 && f.on m.dev.chip.grade).map fun f =>
      parseFrame (slice b (256 + 64 * p.image.nRegions + 1064 * f.index) 1064)) p.patches).foldl
    (fun m f => m.ddrWrite (p.consist.base + f.offset) (f.payloadFor 0)) m

/-- The DDR windows of an image hold undefined contents (R296). -/
def Mach.windowsUndef (m : Mach) (c : Consist) : Mach :=
  c.regions.foldl
    (fun m r =>
      if r.ddrSize = 0 then m
      else
        let lo := c.base + r.ddrBase
        let tag := m.dev.free
        { m with dev := { m.dev with
            free := tag + 1, ddrUndef := (lo, lo + r.ddrSize, tag) :: cutRanges m.dev.ddrUndef lo (lo + r.ddrSize) } }) m

/-! ### Refusal and release (R297 to R299, R315) -/

/-- Records a refusal: IL_ERR with the region of the failing frame, or else the target region of a partial load,
IL_ERR_DETAIL, IL_REFUSALS, and the event that IL_CTRL enables. -/
def Mach.ilRefuse (m : Mach) (v : Verdict) (partialLoad : Bool) (target : Nat := 0) : Mach :=
  let m := (m.setRaw Reg.ilErr (pack [(0, 16, v.status), (16, 4, v.check), (20, 1, b2n partialLoad), (24, 8, v.region.getD target),
    (63, 1, 1)])).setRaw Reg.ilErrDetail v.detail
  let m := m.stat Reg.ilRefusals 1
  if bit (m.raw Reg.ilCtrl) 0 then m.event { addr := Reg.ilCtrl, bit := 0, info := m.raw Reg.ilRefusals % 2 ^ 32 } else m

/-- The reply to a refused load: DETAIL is IL_ERR_DETAIL, the byte offset of P0 for BAD_PARAM, and 0 for a version
(Table 13.9). -/
def Mach.loadRefused (m : Mach) (r : Nat) (v : Verdict) : Mach :=
  m.refuse r v.status (if v.status = scBadParam then 16 else if v.status = scVersion then 0 else v.detail)

/-- A marshalling write that was held goes out. -/
def Mach.sendHeld (m : Mach) (x : HeldOut) : Mach := (m.hostWrite x.addr x.data).engStored x.st x.eng x.piece

/-- Outputs that were held go out in order, once nothing holds them. Held packets and requests go on by themselves. -/
def Mach.flushHeld (m : Mach) : Mach :=
  if bit (m.raw Reg.ilStatus) 0 && m.busMaster then
    let held := m.dev.host.heldOut
    held.foldl Mach.sendHeld { m with dev := { m.dev with host := { m.dev.host with heldOut := [] } } }
  else m

/-- CFG_ERR_N is deasserted, OUT_EN set, and held outputs released. -/
def Mach.outputsOn (m : Mach) : Mach := (m.setField Reg.ilStatus 1 0 1).flushHeld

/-- CFG_ERR_N is asserted and OUT_EN cleared. -/
def Mach.outputsOff (m : Mach) : Mach := m.setField Reg.ilStatus 1 0 2

/-- RELEASE: a write of 1 to IL_CMD.RELEASE (R299). The boot ROM ignores the register (R404). -/
def effRelease (m : Mach) : Mach :=
  if m.bar0Open Reg.ilCmd && bit (m.raw Reg.ilStatus) 1 then m.outputsOn else m

/-! ### LOAD_CONSIST -/

/-- Slots and counters of a consist that becomes resident (R205, R216). -/
def Mach.claim (m : Mach) (i : Nat) (c : Consist) : Mach :=
  let m := c.tokens.foldl
    (fun m d => m.setToken d.st d.slot
      { state := .idle, logical := d.logical, consist := i, cursors := d.cursors, rebase := d.rebase }) m
  c.counters.foldl (fun m d => m.setRaw (Reg.tkoOwner d.phys) (pack [(0, 6, i), (6, 6, d.logical), (12, 1, 1)])) m

/-- The load report (R352). -/
def loadReport (c : Consist) : Bytes :=
  let toks : FMap Nat := c.tokens.foldl (fun a d => fput a (d.st * 64 + d.logical) d.slot) []
  let cnts : FMap Nat := c.counters.foldl (fun a d => fput a d.logical d.phys) []
  toLe 4 toks.length ++ toLe 4 cnts.length
    ++ (toks.flatMap fun e => toLe 4 (pack [(0, 4, e.1 / 64), (4, 6, e.1 % 64), (10, 6, e.2)]))
    ++ cnts.flatMap fun e => toLe 4 (pack [(0, 6, e.1), (8, 6, e.2)])

/-- A command that reads or writes host memory: without Bus Master Enable it waits (R379). -/
def Mach.hostCommand (m : Mach) (r op : Nat) (f : Cmd → Mach → Mach) : Mach :=
  if m.busMaster = false then m else m.command r op f

/-- The DETAIL that names a load in progress: LOAD_PARTIAL's target is a region (Table 13.9, R393). -/
def LoadRun.detail (x : LoadRun) : Nat :=
  if x.partialLoad then busyDetail 0x21 0 x.target else busyDetail 0x20 0 0

/-- A load begins: IL_STATUS shows it, and its command's reply comes when it ends (R300, R315). A load that meets one in
progress is refused. -/
def Mach.loadBegin (m : Mach) (x : LoadRun) : Mach :=
  match m.dev.load with
  | some y => m.refuse x.ring scBusy y.detail
  | none =>
    ({ m with dev := { m.dev with load := some x } } : Mach).setField Reg.ilStatus 3 2 (1 + 2 * b2n x.partialLoad) |>.begin
      x.ring

/-- LOAD_CONSIST begins a full load. `pass2` is the image as the second pass reads it. -/
def effLoadConsist (r : Nat) (image pass2 patch : HostData) (m : Mach) : Mach :=
  m.hostCommand r 0x20 fun c m =>
    let n := bits (c.p 4) 8 0
    if 256 < n then m.badParam r 4
    else if n ≠ 0 ∧ (patch.getD []).length < 8 * n then m.badParam r 3
    else
      let extent := m.goldenExtent ((image.getD []).take (c.p 1)) (c.p 1)
      m.loadBegin { ring := r, cmd := c, extent := extent, image := image, pass2 := pass2, patch := patch }

/-- A full load ends: the checks, the second pass, and the consist resident, or the refusal. -/
def Mach.loadFull (m : Mach) (x : LoadRun) : Mach :=
  let r := x.ring
  let c := x.cmd
  let vals := (List.range (bits (c.p 4) 8 0)).map fun i => leNat (x.patch.getD []) (8 * i) 8
  let (overlap, m) := m.freeVal
  let refused := fun (m : Mach) (v : Verdict) => ((m.ilRefuse v false).outputsOff).loadRefused r v
  match m.planLoad x.extent ((x.image.getD []).take (c.p 1)) (c.p 1) (c.p 2) vals overlap.toNat with
  | .error v => refused m v
  | .ok p =>
    match p.secondBad ((x.pass2.getD []).take (c.p 1)) with
    | some v => refused (m.windowsUndef p.consist) v
    | none =>
      let m := m.ddrFrames p (x.pass2.getD [])
      let m := (m.setConsist p.index p.consist).claim p.index p.consist
      let m := (m.count Reg.ilLoads 1).outputsOn
      (m.hostWrite (c.p 5) (loadReport p.consist)).accept r p.index

/-! ### LOAD_PARTIAL (R302, R303) -/

/-- The ganger's value of a triplet: that on which two copies agree (R391). -/
def voted (l : List Nat) : Nat := if nth 0 l 0 = nth 0 l 1 then nth 0 l 0 else nth 0 l 2

/-- The region of the frame that the ganger checks next, where configuration scrub runs: consist and region (R393). -/
def Mach.gangRegion (m : Mach) : Option (Nat × Nat) :=
  if bit (m.raw Reg.gangStatus) 0 then
    let cur := voted m.dev.gang.cursor
    let c := cur / 2 ^ 33
    ((m.consist c).bind fun x => x.frames[cur % 2 ^ 32]?).map fun f => (c, f.region)
  else none

/-- Checks 1 to 15 of a partial load: the consist as it stands after it, and the image. -/
def Mach.planPartial (m : Mach) (b : Bytes) (len i : Nat) (c : Consist) (overlap : Nat) :
    Except Verdict (Consist × Image × List Frame) := do
  let x ← m.readImage b len fun _ => true
  if x.partialLoad = false then .error ⟨scBadParam, 6, 0, none⟩
  if x.gradeOk m.dev.chip.grade = false ∨ x.format = 3 then .error ⟨vInterlock, 6, 0, none⟩
  if x.baseDigest ≠ c.digest ∨ c.nRegions ≤ x.target ∨ c.format3 then .error ⟨vInterlock, 6, i, none⟩
  let grade := m.dev.chip.grade
  let live := x.frames.filter fun f => f.on grade
  let lat ← latencyCheck (declsOf live) c.act (x.format == 3) (c.elastic || c.late.any (· != 0))
  match findIndex (fun p => p.1 != p.2) (lat.1.zip c.decl) with
  | some id => .error ⟨vInterlock, 7, id, none⟩
  | none => pure ()
  let ps ← m.patches { base := c.base, vals := [], tokens := c.tokens, counters := c.counters } x.frames grade
  let mine := patchAll x.frames ps
  let merged := (c.frames.filter fun f => f.region != x.target) ++ mine.filter Frame.staged
  let all := merged.filter fun f => f.on grade
  let t : Trial :=
    { m := m.trial all c.bankHash, param := c.param, bankHash := c.bankHash, format3 := false
      ddrSize := c.size, base := c.base, regions := c.regions, frames := all, tokens := c.tokens, counters := c.counters }
  let decl := (nth {} c.regions x.target).raw
  let more9 := (if (nth {} x.regions x.target).raw = decl then [] else [Verdict.mk vInterlock 9 x.target (some x.target)])
    ++ (mine.filter fun f => f.on grade && f.region != x.target).map fun f => f.refuse vRegion 9
  let more11 := (mine.filter fun f => f.on grade && (f.kind == 4 || (f.kind == 5 && f.decls.1.any fun d => d.1 != 1))).map
    fun f => f.refuse vInterlock 11
  match t.check (x.regions.map (·.raw)) overlap (nth 0 c.decl Config.dmTtRefgap) more9 more11 with
  | some v => .error v
  | none => pure ()
  if c.golden.2 < goldenUnits merged.length then .error ⟨vInterlock, 15, 1, none⟩
  .ok ({ c with frames := merged, qBytes := t.queueBytes, regInv := c.regInv - (c.regInv &&& 2 ^ x.target), partialD := x.digest }, x,
    merged.filter fun f => f.region == x.target)

/-- The plane of a station that holds, or is to hold, a job's configuration. -/
def Mach.jobPlane (m : Mach) (st h : Nat) : Bool :=
  let s := m.stn st
  if s.job = some h then s.plane else !s.plane

/-- Brings an installation of a consist that has not started up to a new golden copy: frames not yet written that are no
frame of the region stay owed; everything else is written (R303). -/
def Mach.reinstall (m : Mach) (old new : Consist) (region : Nat) (h : Nat) (j : Job) : Mach :=
  match j.install with
  | none => m
  | some y =>
    let keep := fun (l : List Nat) => (l.filterMap fun i => old.frames[i]?).filter fun f => f.region != region
    let place := fun (f : Frame) => findIndex (· == f) new.frames
    let owed := (keep y.frames).filterMap place
    let slab := ((List.range new.frames.length).filter fun i =>
      let f := nth {} new.frames i
      f.kind == 3 && f.on m.dev.chip.grade && (f.region == region || ((keep y.slab).any (· == f))))
    let fs := new.frames.filter fun f => decide (f.kind ≤ 2) && f.on m.dev.chip.grade
    let done := (new.frames.zipIdx.filter fun p => decide (p.1.kind ≤ 2) && p.1.on m.dev.chip.grade && !owed.contains p.2).map (·.1)
    let sts := maskBits new.stations 16
    let plane := fun st => m.jobPlane st h
    let m := sts.foldl (fun m st => (m.clearPlane st (plane st)).plantBankMode fs new.bankHash st (plane st)) m
    let m := done.foldl (fun m f => m.plantFrame f plane) m
    m.setJob h { j with install := some { y with frames := owed, slab := slab } }

/-- LOAD_PARTIAL begins a partial load. -/
def effLoadPartial (r : Nat) (image : HostData) (m : Mach) : Mach :=
  m.hostCommand r 0x21 fun c m =>
    let i := c.p 2 % 64
    if (m.consist i).isNone then m.badParam r 2
    else
      let target := leNat ((image.getD []).take (c.p 1)) 13 1
      if m.gangRegion = some (i, target) then m.refuse r scBusy (busyDetail 0x60 1 0)
      else m.loadBegin { ring := r, cmd := c, partialLoad := true, consist := i, target := target, image := image }

/-- A partial load ends: the checks, and the region's frames replaced, or the refusal. A consist that has been unloaded
meanwhile is resident no more (check 6). -/
def Mach.loadRegion (m : Mach) (x : LoadRun) : Mach :=
  let r := x.ring
  let i := x.consist
  let refused := fun (m : Mach) (v : Verdict) => (m.ilRefuse v true x.target).loadRefused r v
  match m.consist i with
  | none => refused m ⟨vInterlock, 6, i, none⟩
  | some old =>
    let (overlap, m) := m.freeVal
    match m.planPartial ((x.image.getD []).take (x.cmd.p 1)) (x.cmd.p 1) i old overlap.toNat with
    | .error v =>
      refused (if x.target < old.nRegions then m.setConsist i { old with regInv := old.regInv ||| 2 ^ x.target } else m) v
    | .ok (new, y, _) =>
      let m := (m.setConsist i new).count Reg.ilLoads 1
      let m := m.dev.jobs.foldl
        (fun m e => if e.2.consist = i ∧ (e.2.phase = .installing ∨ e.2.phase = .restoring) then
            m.reinstall old new y.target e.1 e.2 else m) m
      m.accept r 0

/-- The load in progress ends, in the ARCLK cycle after the one in which it began (DESIGN CHOICE, log 65). -/
def Mach.loadEnd (m : Mach) : Mach :=
  match m.dev.load with
  | none => m
  | some x =>
    let m := ({ m with dev := { m.dev with load := none } } : Mach).setField Reg.ilStatus 2 2 0
    if x.partialLoad then m.loadRegion x else m.loadFull x

/-! ### UNLOAD_CONSIST (R300) -/

/-- A job that runs or is stabled, or on its way between (R300, R381). -/
def Job.runs (j : Job) : Bool :=
  j.phase == .running || j.phase == .stabling || j.phase == .stabled || j.phase == .restoring || j.phase == .stopping
    || j.phase == .finishing && j.started

/-- A job that waits to start. -/
def Job.waits (j : Job) : Bool := j.phase == .queued || j.phase == .installing

/-- A station without a job: its own installation gone, and the job with it. Where the job before still ends there, the
station is that job's again. Bays and vector units that had taken the job's plane up go back (log 24). -/
def Station.leave (s : Station) (h : Nat) : Station :=
  let back := fun (s : Station) => { s with
    standby := none, armed := false, bayWait := 0, vuWait := 0
    bayPlane := if s.armed then (List.range 256).map fun b => (b, s.plane) else s.bayPlane
    vuPlane := if s.armed then (List.range 32).map fun v => (v, s.plane) else s.vuPlane }
  if s.prev.any fun p => p.job == h then { s with prev := none }
  else if s.job = some h then
    match s.prev with
    | some p => back { s with
        armed := true, job := some p.job, plane := p.plane, sb := p.sb, late := p.late, milesRun := p.milesRun
        ptSeen := p.ptSeen, work := p.work, moved := p.moved, prev := none }
    | none => if s.standby = some h then back { s with job := none } else { s with job := none }
  else if s.standby = some h then back s
  else s

/-- The stations hold no installation of a job any more. -/
def Mach.dropInstall (m : Mach) (h : Nat) : Mach :=
  { m with dev := { m.dev with stn := m.dev.stn.map fun (e : Nat × Station) => (e.1, e.2.leave h) } }

/-- Ends a job that waits to start, as CANCEL_JOB does (R387). -/
def Mach.cancelWaiting (m : Mach) (h : Nat) (j : Job) : Mach := (m.dropInstall h).finish h j scFault

/-- The least handle of a job of a consist that runs or is stabled. -/
def Mach.runningOf (m : Mach) (i : Nat) : Option Nat :=
  (m.dev.jobs.find? fun (e : Nat × Job) => e.2.consist == i && e.2.runs).map (·.1)

/-- UNLOAD_CONSIST. -/
def effUnloadConsist (r : Nat) (m : Mach) : Mach :=
  m.hostCommand r 0x22 fun c m =>
    let i := c.p 0 % 64
    match m.consist i with
    | none => m.badParam r 0
    | some x =>
      match m.runningOf i with
      | some h => m.refuse r scBusy (busyDetail 0x40 0 h)
      | none =>
        let m := m.dev.jobs.foldl
          (fun m (e : Nat × Job) =>
            if e.2.consist ≠ i then m
            else if e.2.waits then m.cancelWaiting e.1 e.2
            else if e.2.phase = .finishing then m.finish e.1 e.2 e.2.status
            else m) m
        let m := m.tokensFree x
        let m := m.setField Reg.goldenBad i i 0
        let m := { m with dev := { m.dev with consists := fdel m.dev.consists i } }
        m.accept r 0

/-! ### The commands -/

def execLoadConsist (r : Nat) (image pass2 patch : HostData) (s : State) :=
  act .run (.loadConsist r image pass2 patch) s (effLoadConsist r image pass2 patch)
def execLoadPartial (r : Nat) (image : HostData) (s : State) := act .run (.loadPartial r image) s (effLoadPartial r image)
def execUnloadConsist (r : Nat) (s : State) := act .run (.unloadConsist r) s (effUnloadConsist r)
def execRelease (s : State) := act .run .release s effRelease

end Sys2Proof.Machine
end

