-- ==== Sys2Proof/Machine/Slots.lean ====
section
/-! DEFINITION. The timetable as it lies ahead (R316 to R318, R321), and the power states of the stations (R426 to R434). -/

namespace Sys2Proof.Machine
open Sys2Proof

/-! ### Entries and slots (R316 to R318) -/

/-- ARCLK cycles in a microsecond. -/
def usCycles : Nat := 1900

/-- The code of a station in an entry. -/
def TtEntry.code (e : TtEntry) (st : Nat) : Nat := nth 0x81 e.codes st

/-- A code that runs jobs: fixed or open (Table 12.2). -/
def codeRuns (c : Nat) : Bool := c < 0x50
def codeFixed (c : Nat) : Bool := c < 0x40
def codeOpen (c : Nat) : Bool := 0x40 ≤ c && c < 0x50

/-- A slot that lies ahead or is in force: its first cycle, the cycle after its last, its entry with the pools of its
table, and whether it is the first slot of a cycle of a table all of whose entries follow each other. -/
structure TtSlot where
  first : Nat
  stop : Nat
  index : Nat
  entry : TtEntry
  pools : List Nat
  deriving DecidableEq, Repr

/-- The slots of entries that begin in a cycle. -/
def slotsFrom (pools : List Nat) : Nat → Nat → List TtEntry → List TtSlot
  | _, _, [] => []
  | b, i, e :: es =>
    { first := b, stop := b + usCycles * e.len, index := i, entry := e, pools := pools }
      :: slotsFrom pools (b + usCycles * e.len) (i + 1) es

/-- The cycle after the last slot of a list, or a given cycle. -/
def slotsEnd (b : Nat) (l : List TtSlot) : Nat := (l.getLast?.map (·.stop)).getD b

/-- The slots from the one in force, or the first to come, to the end of the second cycle of the next table. Decisions
about a slot use the table that will be in force at it (R321). -/
def Mach.slots (m : Mach) : List TtSlot :=
  let t := m.dev.tt
  let now_ := match t.inForce with
    | some x =>
      let len := (x.entries[t.entry]?.map (·.len)).getD 0
      slotsFrom x.pools (t.next - usCycles * len) t.entry (x.entries.drop t.entry)
    | none => []
  match t.pending.orElse fun _ => t.inForce with
  | none => now_
  | some x =>
    let a := slotsFrom x.pools (slotsEnd t.next now_) 0 x.entries
    now_ ++ a ++ slotsFrom x.pools (slotsEnd t.next a) 0 x.entries

/-- The table of the next slot, its entry, and whether a table begins with it: a pending table takes the place of the one
in force before its entry 0 (R321). -/
def Timetable.nextSlot (t : Timetable) : Option (Table × Nat × Bool) :=
  let ended := decide (((t.inForce.map (·.entries.length)).getD 0) ≤ t.entry + 1)
  (if ended then t.pending.orElse fun _ => t.inForce else t.inForce).map fun x => (x, if ended then 0 else t.entry + 1, ended)

/-- The slot in force. -/
def Mach.slotNow (m : Mach) : Option TtSlot :=
  if m.dev.tt.inForce.isSome then m.slots.head? else none

/-- The code of a station as it acts: a fixed code of a consist that has been unloaded acts as 0x80 (R321). -/
def Mach.codeOf (m : Mach) (s : TtSlot) (st : Nat) : Nat :=
  let c := s.entry.code st
  if codeFixed c && (m.consist c).isNone then 0x80 else c

/-- Whether an open code's pool holds a consist. -/
def TtSlot.openTo (s : TtSlot) (code c : Nat) : Bool := codeOpen code && bit (nth 0 s.pools (code - 0x40)) c

/-! ### Runs (R318) -/

/-- Whether a slot gives every station of a consist its fixed code. -/
def TtSlot.fixedTo (s : TtSlot) (mask c : Nat) : Bool := (maskBits mask 16).all fun st => s.entry.code st == c

/-- Joins slots of one consist that follow each other into runs. A cycle that is one run from end to end begins a new
run at its entry 0 (log 20). -/
def runsGo (whole : Bool) : List (Nat × Nat) → List TtSlot → List (Nat × Nat)
  | acc, [] => acc.reverse
  | [], s :: l => runsGo whole [(s.first, s.stop)] l
  | r :: acc, s :: l =>
    if r.2 = s.first ∧ !(whole && s.index == 0) then runsGo whole ((r.1, s.stop) :: acc) l
    else runsGo whole ((s.first, s.stop) :: r :: acc) l

/-- The runs of a resident consist, first cycle and the cycle after the last; one that has begun has the first cycle that
was noted then. -/
def Mach.runsOf (m : Mach) (c : Nat) : List (Nat × Nat) :=
  match m.consist c with
  | none => []
  | some x =>
    if x.stations = 0 then []
    else
      let ss := m.slots
      let rs := runsGo (ss.all fun s => s.fixedTo x.stations c) [] (ss.filter fun s => s.fixedTo x.stations c)
      match rs, ffind m.dev.tt.runs c with
      | r :: l, some b => if r.1 ≤ m.now ∨ (m.slotNow.any fun s => s.first == r.1) then (b, r.2) :: l else r :: l
      | l, _ => l

/-! ### Power figures (R426, R431, R432) -/

/-- The power figure of a state (Table 17.2). -/
def pwrFigure (state : Nat) : Nat := nth 0 [0, 6, 38, 135] state

/-- The length in µs of the run of code 0x81 around an entry, taken cyclically. -/
def parkedRun (t : Table) (e st : Nat) : Nat :=
  let n := t.entries.length
  let at_ := fun k => nth {} t.entries (k % n)
  let count := fun (f : Nat → Nat) =>
    (((List.range n).map fun k => at_ (f k)).takeWhile fun x => x.code st == 0x81).map (·.len)
  if (at_ e).code st ≠ 0x81 then 0
  else min ((t.entries.map (·.len)).sum) ((count fun k => e + k).sum + (count fun k => e + n - k).sum - (at_ e).len)

/-- Whether a station parks in the run of 0x81 around an entry: a run shorter than 22 µs is passed through WARM. -/
def Table.parks (t : Table) (e st : Nat) : Bool :=
  (nth {} t.entries e).code st == 0x81 &&
    (decide (22 ≤ parkedRun t e st) || t.entries.all fun x => x.code st == 0x81)

/-- The µs from the end of an entry to the next entry whose code for a station is not 0x81. -/
def Table.untilWake (t : Table) (e st : Nat) : Nat :=
  let n := t.entries.length
  (((List.range n).map fun k => nth {} t.entries ((e + 1 + k) % n)).takeWhile fun x => x.code st == 0x81).map (·.len) |>.sum

/-- The figure at which a station counts in P(e) (R432). -/
def Table.figure (t : Table) (e st : Nat) : Nat :=
  let n := t.entries.length
  let c := (nth {} t.entries e).code st
  let next := (nth {} t.entries ((e + 1) % n)).code st
  if codeRuns c then 135
  else if t.parks e st then
    let all := t.entries.all fun x => x.code st == 0x81
    if all = false ∧ t.untilWake e st < 20 then 135
    else if (nth {} t.entries ((e + n - 1) % n)).code st ≠ 0x81 then 38 else 6
  else if codeRuns next then 135
  else 38

/-- P(e) of R432. -/
def Mach.entryPower (m : Mach) (t : Table) (e : Nat) : Nat :=
  240 + ((List.range m.stations).map fun st => t.figure e st).sum

/-! ### Power states (R427, R428, R433) -/

def pwrParked : Nat := 1
def pwrWarm : Nat := 2
def pwrRunning : Nat := 3

/-- The state of a station, and the state that it enters. -/
def Mach.pwr (m : Mach) (st : Nat) : Nat := bits (m.raw (Reg.stPwrStatus st)) 1 0
def Mach.pwrTarget (m : Mach) (st : Nat) : Nat := bits (m.raw (Reg.stPwrStatus st)) 3 2
def Mach.setPwr (m : Mach) (st state target : Nat) : Mach :=
  m.setField (Reg.stPwrStatus st) 3 0 (state + 4 * target)

/-- Whether a station holds a job that installs, runs, stables or restores, or tests itself: then it is RUNNING
(R428). -/
def Mach.pwrBusy (m : Mach) (st : Nat) : Bool :=
  let s := m.stn st
  s.job.isSome || s.prev.isSome || s.standby.isSome || s.testDue.isSome

/-- Whether a slot that begins within n cycles from now wants a state of a station. -/
def Mach.pwrNear (m : Mach) (st n : Nat) (wants : Nat → Bool) : Bool :=
  m.slots.any fun s => decide (m.now < s.first) && decide (s.first ≤ m.now + n) && wants (m.codeOf s st)

/-- The state that a station is to have now (R428). While no table is in force every station without a job is parked
(log 21). -/
def Mach.pwrGoal (m : Mach) (st : Nat) : Nat :=
  if m.pwrBusy st then pwrRunning
  else if m.pwrNear st (20 * usCycles) codeRuns && (m.pwr st == pwrParked || m.pwrNear st usCycles codeRuns) then pwrRunning
  else
    let warm := match m.slotNow, m.dev.tt.inForce with
      | some s, some t => m.codeOf s st != 0x81 || !t.parks m.dev.tt.entry st
      | _, _ => false
    if warm || m.pwrNear st (20 * usCycles) (· != 0x81) then pwrWarm else pwrParked

/-- Admitted power of the present states; a station on its way up counts as RUNNING, and so does `wake` (R431, R433). -/
def Mach.pwrAdmitted (m : Mach) (wake : Option Nat) : Nat :=
  240 + ((List.range m.stations).map fun st =>
    if wake = some st ∨ m.pwr st < m.pwrTarget st then 135 else pwrFigure (m.pwr st)).sum

/-- Microseconds of a transition (Table 17.3). -/
def pwrTime (from_ target : Nat) : Nat := if from_ = pwrParked ∧ target = pwrWarm then 19 else 1

/-- A transition to the neighbouring state begins. -/
def Mach.pwrStep (m : Mach) (st target : Nat) : Mach :=
  (m.setPwr st (m.pwr st) target).modStn st fun s => { s with
    pwrDue := some (m.now + usCycles * pwrTime (m.pwr st) target), pwrWait := false }

/-- A station that is to be in a lower state begins to go there (R428, R430). -/
def Mach.pwrPark (m : Mach) (st : Nat) : Mach :=
  if (m.stn st).pwrDue.isSome ∨ m.pwr st ≤ pwrParked ∨ m.pwr st ≤ m.pwrGoal st then m
  else m.pwrStep st (m.pwr st - 1)

/-- Every station that need not run any more begins to park. -/
def Mach.parkAll (m : Mach) : Mach := (List.range m.stations).foldl Mach.pwrPark m

/-- Shows or clears ADMIT_WAIT of a station. -/
def Mach.setWait (m : Mach) (st : Nat) (w : Bool) : Mach :=
  (m.setField (Reg.stPwrStatus st) 4 4 (b2n w)).modStn st fun s => { s with pwrWait := w }

/-- STATION_WAKE: a station that needs a higher state begins to wake, if the power limit admits it and no lower station
waits; otherwise it waits (R428, R433). -/
def effStationWake (st : Nat) (m : Mach) : Mach :=
  if (m.stn st).pwrDue.isSome ∨ m.pwr st = 0 ∨ m.pwrGoal st ≤ m.pwr st then
    (if (m.stn st).pwrWait && (m.stn st).drainDue.isNone then m.setWait st false else m)
  else if bits (m.raw Reg.pwrCap) 11 0 < m.pwrAdmitted (some st) ∨ (List.range st).any (fun k => (m.stn k).pwrWait) then
    m.setWait st true
  else (m.setWait st false).pwrStep st (m.pwr st + 1)

/-- POWER_TRANSITION_DONE: a station reaches the state that it was entering, and goes on towards the one that it needs
(R427). On leaving PARKED its remote line store is invalidated (R428), and a suspended patrol scrub goes on. -/
def effPowerTransitionDone (st : Nat) (m : Mach) : Mach :=
  match (m.stn st).pwrDue with
  | none => m
  | some t =>
    if m.now < t then m
    else
      let from_ := m.pwr st
      let to_ := m.pwrTarget st
      let m := (m.setPwr st to_ to_).modStn st fun s => { s with pwrDue := none }
      let m := if from_ = pwrParked then
          { m with dev := { m.dev with
              rls := fkeep m.dev.rls fun k => k / 256 != st
              fills := m.dev.fills.map fun f => if f.1 / 65536 = st then (f.1, { f.2 with install := false }) else f } }
        else m
      let m := m.setField (Reg.stPwrStatus st) 5 5 (b2n ((m.stn st).scrubOn && to_ == pwrParked))
      if from_ < to_ ∧ to_ < m.pwrGoal st then m.pwrStep st (to_ + 1) else m.pwrPark st

def execStationWake (st : Nat) (s : State) := act .run (.stationWake st) s (effStationWake st)
def execPowerTransitionDone (st : Nat) (s : State) :=
  act .run (.powerTransitionDone st) s (effPowerTransitionDone st)

end Sys2Proof.Machine
end

