-- ==== Sys2Proof/Machine/Timetable.lean ====
section
/-! DEFINITION. The timetable at work: SET_TIMETABLE (R320, R321), the runs of real-time jobs (R323), leave points and
the pre-emption decision (R331 to R333), the fill (R325), and the slot boundary (R319). -/

namespace Sys2Proof.Machine
open Sys2Proof

/-! ### Distances and stabling times (R329, R335) -/

/-- DIST_k; N + 1 is the end of the job. -/
def Consist.dist (c : Consist) (k : Nat) : Nat :=
  if k = 0 then 0
  else if k ≤ c.stops.length then (nth {} c.stops (k - 1)).dist
  else if k = c.stops.length + 1 then c.runMax - (c.stops.map (·.dist)).sum
  else 0

/-- V_k in cycles of stabling: ceil(V_k / 640). -/
def Consist.moveTime (c : Consist) (k : Nat) : Nat :=
  (stableBytes c.stations c.qBytes (if k = 0 then {} else nth {} c.stops (k - 1)) + 639) / 640

/-- T_k; 0 at the end. -/
def Consist.stableTime (c : Consist) (k : Nat) : Nat :=
  if k = 0 ∨ c.stops.length < k then 0 else 22800 + c.moveTime k

/-- Frames that one installation writes (R301). -/
def Mach.installFrames (m : Mach) (c : Consist) : Nat :=
  (c.frames.filter fun f => decide (f.kind ≤ 3) && f.on m.dev.chip.grade).length

/-- The bound of a restore from stopping point k (R335). -/
def Mach.restoreTime (m : Mach) (c : Consist) (k : Nat) : Nat := 22800 + 16 * m.installFrames c + c.moveTime k

/-! ### Attachment (R323) -/

/-- A real-time job that has still to start. -/
def Job.rtWaits (j : Job) : Bool := j.rt && j.waits

/-- The runs that started jobs hold. -/
def Mach.runsHeld (m : Mach) : List (Nat × Nat) :=
  m.dev.jobs.filterMap fun e =>
    if e.2.rt && e.2.started && e.2.phase != .ended then e.2.runBegin.map fun b => (e.2.consist, b) else none

/-- Attaches the real-time jobs that have not started to the earliest runs of their consists that have not ended and hold
no other job, in order of submission. A job whose run has begun keeps it. -/
def Mach.attach (m : Mach) : Mach :=
  let js := sortBy (fun (e : Nat × Job) => e.2.seq) (m.dev.jobs.filter fun e => e.2.rtWaits)
  let kept := js.filter fun e => e.2.runBegin.any fun b => decide (b ≤ m.now)
  let taken := m.runsHeld ++ kept.map fun e => (e.2.consist, e.2.runBegin.getD 0)
  (js.foldl
    (fun (a : List (Nat × Nat) × Mach) e =>
      let (h, j) := e
      let m := a.2
      let rs := m.runsOf j.consist
      if j.runBegin.any fun b => decide (b ≤ m.now) then
        let stop := (rs.find? fun r => some r.1 == j.runBegin).map (·.2)
        (a.1, m.setJob h { j with runEnd := stop.orElse fun _ => j.runEnd })
      else
        match rs.find? fun r => decide (m.now < r.2) && !a.1.contains (j.consist, r.1) with
        | some r => ((j.consist, r.1) :: a.1, m.setJob h { j with runBegin := some r.1, runEnd := some r.2 })
        | none => (a.1, m.setJob h { j with runBegin := none, runEnd := none })) (taken, m)).2

/-! ### Leave points (R331) -/

/-- Whether two consists share a station. -/
def Mach.shares (m : Mach) (a b : Nat) : Bool :=
  ((m.consist a).map (·.stations)).getD 0 &&& ((m.consist b).map (·.stations)).getD 0 != 0

/-- The least limit of the leave points on the stations of a deadline job of a consist, and the real-time job that it
comes from: a slot whose code gives the station to nobody or to a pool without the consist, with σ = 0; and the begin of
a run to which a real-time job is attached, with σ = its length less RUN_MAX. A running job keeps a limit that has
passed. -/
def Mach.leaveLimit (m : Mach) (c : Nat) : Option (Nat × Option Nat) :=
  let sts := maskBits (((m.consist c).map (·.stations)).getD 0) 16
  let slots := (m.slots.filter fun s => decide (m.now < s.stop) && sts.any fun st =>
      let k := m.codeOf s st
      k == 0x80 || k == 0x81 || (codeOpen k && !s.openTo k c)).map fun s => (s.first, (none : Option Nat))
  let runs := m.dev.jobs.filterMap fun e =>
    if e.2.rtWaits && m.shares c e.2.consist then
      e.2.runEnd.map fun n => (n - (m.consistOf e.2).runMax, some e.1)
    else none
  let kept := m.dev.jobs.filterMap fun e =>
    if e.2.consist == c && e.2.phase == .running then
      (e.2.limit.filter fun l => decide (l ≤ m.now)).map fun l => (l, (none : Option Nat))
    else none
  leastBy (fun x => x.1) (slots ++ runs ++ kept)

/-! ### The decision (R332, R333) -/

/-- Records a decision in TT_LAST_DECISION; an abort and a stabling that is requested send an event. -/
def Mach.decision (m : Mach) (low : Nat) (high : Option Nat) (stop outcome : Nat) : Mach :=
  let v := pack [(0, 12, low), (12, 12, high.getD 0), (24, 1, b2n high.isSome), (25, 12, stop), (37, 2, outcome), (63, 1, 1)]
  let m := m.setRaw Reg.ttLastDecision v
  if bit (m.raw Reg.ttCtrl) 0 && outcome != 3 then m.event { addr := Reg.ttCtrl, bit := 0, info := v % 2 ^ 32 } else m

/-- The lowest station of a mask. -/
def lowStation (mask : Nat) : Nat := ((maskBits mask 16).head?).getD 0

/-- Aborts a job before stopping point k (R333): the fault decides it, and its units stop in the next cycle. -/
def Mach.abortJob (m : Mach) (h : Nat) (j : Job) (k : Nat) : Mach :=
  (m.fault 14 { cls := 4, st := lowStation (m.consistOf j).stations } (some h) k).stat Reg.ttAborts 1

/-- The stopping point at which every station of a job waits. -/
def Mach.atStop (m : Mach) (j : Job) : Option Nat :=
  j.request.bind fun k => if (m.jobStations j).all fun st => (m.sb st).wait == .stop k then some k else none

/-- A job that has passed stopping point k at its present consist time. -/
def Mach.passStop (m : Mach) (h k : Nat) : Mach :=
  m.modJob h fun j => { j with passed := k, passedAt := j.cyc, passing := fdel j.passing k }

/-- The signal boxes that wait at a stopping point run on. -/
def Mach.releaseStop (m : Mach) (h : Nat) (j : Job) (k : Nat) : Mach :=
  let m := (m.jobStations j).foldl
    (fun m st => (m.modSb st fun s => { s with wait := .none }).sbNext st (j.cyc + 1)) m
  (m.modJob h fun j => { j with request := none }).passStop h k

/-- The decision for a job that runs towards its next stopping point: stabling there, an abort, or stabling with the
arriving job late. A stopping point that a station has already passed cannot be asked for; the next one is (log 23). -/
def Mach.decideNext (m : Mach) (h limit : Nat) (high : Option Nat) : Mach :=
  match m.job h with
  | none => m
  | some j =>
    let c := m.consistOf j
    let k := j.passed + 1
    let d := c.dist k - (j.cyc - j.passedAt)
    let at_ := ((List.range (c.stops.length + 1 - j.passed)).map (k + ·)).find? fun i => (ffind j.passing i).isNone
    let ask := fun (m : Mach) (outcome : Nat) =>
      let p := at_.getD k
      (m.modJob h fun j => { j with request := some p }).decision h high p outcome
    if m.now + d + c.stableTime k ≤ limit then ask m 0
    else if j.abortOk then (m.abortJob h j k).decision h high k 1
    else
      let m := match high with
        | some g => m.modJob g fun x => { x with late := true }
        | none => m
      ask m 2

/-- The decision for a deadline job under its limit (R332): one that waits at a stopping point is released where it can
reach the next and be stabled there in time, and is stabled there otherwise. -/
def Mach.preempt (m : Mach) (h : Nat) : Mach :=
  match m.job h with
  | none => m
  | some j =>
    if j.rt ∨ j.phase ≠ .running ∨ j.fault.isSome ∨ j.cancel then m
    else
      let c := m.consistOf j
      match m.leaveLimit j.consist, m.atStop j with
      | none, some k => m.releaseStop h j k
      | none, none => m.modJob h fun j => { j with request := none }
      | some (lim, _), some k =>
        if m.now + c.dist (k + 1) + c.stableTime (k + 1) ≤ lim then
          let m := m.releaseStop h j k
          match m.leaveLimit j.consist with
          | some (lim, high) => m.decideNext h lim high
          | none => m
        else m
      | some (lim, high), none => m.decideNext h lim high

/-- Decides for every running deadline job whose limit has changed: a leave point has arisen, or gone (R331). -/
def Mach.revisit (m : Mach) : Mach :=
  (m.dev.jobs.map (·.1)).foldl
    (fun m h =>
      match m.job h with
      | none => m
      | some j =>
        if j.rt ∨ j.phase ≠ .running then m
        else
          let lim := (m.leaveLimit j.consist).map (·.1)
          if lim = j.limit then m else (m.modJob h fun j => { j with limit := lim }).preempt h) m

/-! ### The fill (R325) -/

/-- Whether a station is free for a job (R323, R325, R327, R386): it is not held, resets or tests itself, and holds no
other job but one that has not begun, or one whose program has ended there. -/
def Mach.freeFor (m : Mach) (st h : Nat) : Bool :=
  let s := m.stn st
  !bit (m.raw (Reg.stFaultStatus st)) 0 && s.testDue.isNone && s.drainDue.isNone
    && (match s.job with
      | none => true
      | some k => k == h || (match m.job k with
        | none => true
        | some j => j.waits || (j.phase == .running && bit j.progEnd st)))

/-- The order of the fill: deadline, stabled jobs first, handle. -/
def fillKey (e : Nat × Job) : Nat := (e.2.deadline * 2 + b2n (e.2.phase != .stabled)) * 4096 + e.1

/-- Whether the fill may start or resume a deadline job now. -/
def Mach.fillCan (m : Mach) (h : Nat) (j : Job) : Bool :=
  match m.consist j.consist, m.slotNow with
  | some c, some s =>
    let sts := maskBits c.stations 16
    let k := if j.phase = .stabled then ((c.saved.map (·.k)).getD 0) else 0
    let lead := if j.phase = .stabled then m.restoreTime c k
      else match j.install with
        | some y => 16 * (y.frames.length + y.slab.length)
        | none => 16 * m.installFrames c
    let claimed := m.dev.jobs.any fun e => e.1 != h && m.shares j.consist e.2.consist &&
      ((e.2.waits && e.2.filled) || (e.2.rtWaits && e.2.runBegin.any fun b => decide (b ≤ m.now)))
    sts.all (fun st => s.openTo (m.codeOf s st) j.consist && m.freeFor st h)
      && !claimed
      && !(m.dev.jobs.any fun e => e.1 != h && e.2.consist == j.consist && e.2.runs)
      && (match m.leaveLimit j.consist with
        | none => true
        | some (lim, _) => decide (m.now + lead + c.dist (k + 1) + c.stableTime (k + 1) ≤ lim))
  | _, _ => false

/-- The fill: each deadline job that may start is started, each stabled one that may resume is restored. -/
def Mach.fill (m : Mach) : Mach :=
  let js := sortBy fillKey (m.dev.jobs.filter fun e => !e.2.rt && ((e.2.waits && !e.2.filled) || e.2.phase == .stabled))
  js.foldl
    (fun m e =>
      match m.job e.1 with
      | none => m
      | some j =>
        if m.fillCan e.1 j = false then m
        else if j.phase = .stabled then m.setJob e.1 { j with phase := .restoring, filled := true, install := none }
        else m.setJob e.1 { j with filled := true }) m

/-! ### SET_TIMETABLE (R320) -/

/-- The TT_ERR record of a refusal. -/
def ttRecord (status e a b check : Nat) (header : Bool) : Nat :=
  pack [(0, 16, status), (16, 12, e), (28, 6, a), (34, 6, b), (40, 3, check), (43, 1, b2n header), (63, 1, 1)]

/-- An entry of a timetable image. -/
def parseEntry (b : Bytes) : TtEntry :=
  { len := leNat b 0 2, rebase := bit (leNat b 0 4) 16, codes := (List.range 16).map fun s => leNat b (4 + s) 1 }

/-- Check 1 of an entry. -/
def Mach.entrySound (m : Mach) (b : Bytes) : Bool :=
  let e := parseEntry b
  e.len != 0 && leNat b 0 4 / 2 ^ 17 == 0 && leNat b 20 12 == 0
    && e.codes.all (fun c => c < 0x50 || c == 0x80 || c == 0x81)
    && (List.range 16).all fun s => decide (s < m.stations) || e.code s == 0x81

/-- The consists that an entry names, directly or through its pools (C(e) of R320). -/
def Table.named (t : Table) (e : TtEntry) : List Nat :=
  (List.range 64).filter fun c => e.codes.any fun k => k == c || (codeOpen k && bit (nth 0 t.pools (k - 0x40)) c)

/-- Check 2 of an entry: the consist that fails it. -/
def Mach.entryConsist (m : Mach) (t : Table) (e : TtEntry) : Option Nat :=
  (List.range 64).find? fun c =>
    let fixed := (List.range 16).filter fun s => e.code s == c
    let pooled := e.codes.any fun k => codeOpen k && bit (nth 0 t.pools (k - 0x40)) c
    match m.consist c with
    | none => !fixed.isEmpty || pooled
    | some x => !fixed.isEmpty && fixed != maskBits x.stations 16

/-- Two consists that may not stand in neighbouring entries: they share a booked lane or a timetabled channel. -/
def Mach.clash (m : Mach) (a b : Nat) : Bool :=
  match m.consist a, m.consist b with
  | some x, some y => x.ttMask &&& y.ttMask != 0 || x.bookings.any fun p => y.bookings.any p.clashes
  | _, _ => false

/-- The first pair of a rising list that clashes. -/
def Mach.clashIn (m : Mach) : List Nat → Option (Nat × Nat)
  | [] => none
  | a :: l =>
    match l.find? fun b => m.clash a b with
    | some b => some (a, b)
    | none => Mach.clashIn m l

/-- The checks of R320 in order: the table, or the TT_ERR record of the first failure. -/
def Mach.checkTable (m : Mach) (b : Bytes) (len : Nat) : Except Nat Table :=
  let n := leNat b 0 4
  if n = 0 ∨ 4096 < n ∨ leNat b 4 4 ≠ 0 ∨ len ≠ 136 + 32 * n then .error (ttRecord scBadParam 0 0 0 1 true)
  else
    let entry := fun e => slice b (136 + 32 * e) 32
    let t : Table := { pools := (List.range 16).map fun p => leNat b (8 + 8 * p) 8
                       entries := (List.range n).map fun e => parseEntry (entry e), raw := b }
    match (List.range n).find? fun e => !m.entrySound (entry e) with
    | some e => .error (ttRecord scBadParam e 0 0 1 false)
    | none =>
      match (List.range n).findSome? fun e => (m.entryConsist t (nth {} t.entries e)).map fun c => (e, c) with
      | some (e, c) => .error (ttRecord scInterlock e c 0 2 false)
      | none =>
        match (List.range n).findSome? fun e =>
          (m.clashIn ((List.range 64).filter fun c =>
            (t.named (nth {} t.entries e)).contains c || (t.named (nth {} t.entries ((e + 1) % n))).contains c)).map
            fun p => (e, p) with
        | some (e, p) => .error (ttRecord scInterlock e p.1 p.2 3 false)
        | none =>
          match (List.range n).find? fun e => decide (bits (m.raw Reg.pwrCap) 11 0 < m.entryPower t e) with
          | some e => .error (ttRecord scInterlock e 0 0 4 false)
          | none => .ok { t with power := ((List.range n).map (m.entryPower t)).foldl max 0 }

/-- SET_TIMETABLE. -/
def effSetTimetable (r : Nat) (image : HostData) (m : Mach) : Mach :=
  m.hostCommand r 0x30 fun c m =>
    match image with
    | none => m.badParam r 0
    | some b =>
      match m.checkTable (b.take (c.p 1)) (c.p 1) with
      | .error rec => (m.setRaw Reg.ttErr rec).refuse r (rec % 2 ^ 16) rec
      | .ok t =>
        let x := m.dev.tt
        let m := { m with dev := { m.dev with tt := { x with
            pending := some t
            next := if x.inForce.isSome ∨ x.pending.isSome then x.next else (m.now / usCycles + 1) * usCycles } } }
        m.attach.revisit.accept r 0

/-! ### The slot boundary (R319, R321) -/

/-- The consists that an entry names and that are resident: an unloaded one is dropped from every pool. -/
def Mach.namedNow (m : Mach) (s : TtSlot) : List Nat :=
  (List.range 64).filter fun c => (m.consist c).isSome &&
    s.entry.codes.any fun k => k == c || s.openTo k c

/-- The runs that go on, begin or end at the boundary of a slot. -/
def Mach.runsNow (m : Mach) (s : TtSlot) : FMap Nat :=
  let all := match m.dev.tt.inForce with
    | some t => t.entries
    | none => []
  (List.range 64).filterMap fun c =>
    match m.consist c with
    | none => none
    | some x =>
      let named := fun (e : TtEntry) => (maskBits x.stations 16).all fun st => e.code st == c
      if x.stations = 0 ∨ named s.entry = false then none
      else if s.index = 0 ∧ all.all named then some (c, s.first)
      else some (c, fget s.first m.dev.tt.runs c)

/-- SLOT_BOUNDARY: the next slot begins. A pending table takes the place of the one in force before its entry 0. In the
order of R319: the remote line stores, the re-timing barriers, leave points, the fill. -/
def effSlotBoundary (m : Mach) : Mach :=
  let t := m.dev.tt
  if m.now < t.next then m
  else
    match t.nextSlot with
    | none => m
    | some (x, entry, ended) =>
      let passed := (t.inForce.bind fun y => y.entries[t.entry]?.map (·.len)).getD 0
      let e := nth {} x.entries entry
      let m := { m with dev := { m.dev with tt := { t with
          inForce := some x, pending := if ended then none else t.pending, entry := entry
          next := t.next + usCycles * e.len } } }
      let m := (m.count Reg.ttTime passed).setRaw Reg.pwrAdmit x.power
      let s : TtSlot := { first := t.next, stop := t.next + usCycles * e.len, index := entry, entry := e, pools := x.pools }
      let m := { m with dev := { m.dev with tt := { m.dev.tt with runs := m.runsNow s } } }
      let m := (List.range 16).foldl Mach.rlsFlush m
      let m := if e.rebase then
          ((m.namedNow s).filter fun c => (m.runningOf c).isSome).foldl
            (fun m c => match m.consist c with
              | some y => m.barrier y
              | none => m) m
        else m
      m.attach.revisit.fill.parkAll

/-- RUN_END: the run of a real-time job that has not started ends: it completes with DEADLINE_MISS and no results
(R324). -/
def effRunEnd (h : Nat) (m : Mach) : Mach :=
  match m.job h with
  | none => m
  | some j =>
    if j.rtWaits && j.runBegin.isSome && j.runEnd.any (fun e => decide (e ≤ m.now)) then
      ((m.dropInstall h).finish h j scMiss).attach.revisit
    else m

def execSetTimetable (r : Nat) (image : HostData) (s : State) :=
  act .run (.setTimetable r image) s (effSetTimetable r image)
def execSlotBoundary (s : State) := act .run .slotBoundary s effSlotBoundary
def execRunEnd (j : Nat) (s : State) := act .run (.runEnd j) s (effRunEnd j)

end Sys2Proof.Machine
end

