-- ==== Sys2Proof/Machine/Install.lean ====
section
/-! DEFINITION. Installation and handover (R301, R326 to R328, R389): writing a job's frames into the standby planes, and
how bays, vector units and the signal box take the armed planes up (R54, R106). -/

namespace Sys2Proof.Machine
open Sys2Proof

/-! ### Starts that fail -/

/-- The golden copy of a consist cannot be used (CO_GOLDEN_BAD). -/
def Mach.goldenIsBad (m : Mach) (c : Nat) : Bool := bit (m.raw Reg.goldenBad) c

/-- The CANCEL_JOBs that wait for a job complete. -/
def Mach.cancelReplies (m : Mach) (j : Job) : Mach := j.rings.foldl (fun m r => m.accept r 0) m

/-- A job being installed does not start: it completes with CONTEXT_FAULT (R389). A restored job's tokens and saved state
go the way of a job that ends. -/
def Mach.failStart (m : Mach) (h : Nat) : Mach :=
  match m.job h with
  | none => m
  | some j =>
    let m := m.dropInstall h
    let m := if j.phase = .restoring then
        match m.consist j.consist with
        | some c => (m.tokensEnd c h).setConsist j.consist { c with saved := none }
        | none => m
      else m
    let m := { m with dev := { m.dev with
        stn := m.dev.stn.map fun (e : Nat × Station) => (e.1, { e.2 with taps := e.2.taps.filter fun t => t.job != h }) } }
    (m.finish h { j with rings := [], arms := [] } scFault).cancelReplies j

/-- CONFIG_UPSET (R389): a frame of a golden copy fails. The fault names the job that runs, or else one that is being
installed; the running one ends, those being installed do not start. -/
def Mach.configUpset (m : Mach) (u : UnitRef) (c index : Nat) : Mach :=
  let m := m.setBit Reg.goldenBad c
  let mine := m.dev.jobs.filter fun (e : Nat × Job) => e.2.consist == c
  let run := mine.find? fun e => e.2.phase == .running || e.2.phase == .stopping
  let inst := mine.filter fun e => e.2.install.isSome && (e.2.phase == .installing || e.2.phase == .restoring)
  let m := m.fault 12 u ((run.orElse fun _ => inst.head?).map (·.1)) (index + c * 2 ^ 32)
  inst.foldl (fun m e => m.failStart e.1) m

/-- INSTALLATION_START: the standby planes of the job's stations are put back to Reset, and the installation begins. A
job whose golden copy is bad completes with CONTEXT_FAULT instead (R326, R389). A plane that the job before still uses is
no standby plane. -/
def effInstallationStart (h : Nat) (m : Mach) : Mach :=
  match m.job h with
  | none => m
  | some j =>
    if j.phase ≠ .queued ∧ !(j.phase = .restoring ∧ j.install.isNone) then m
    else
      match m.consist j.consist with
      | none => m
      | some c =>
        let sts := maskBits c.stations 16
        if sts.any fun st =>
            let s := m.stn st
            s.standby.isSome || s.prev.isSome || s.job == some h || s.testDue.isSome || s.drainDue.isSome then m
        else if m.goldenIsBad j.consist then m.failStart h
        else
          let grade := m.dev.chip.grade
          let ws := c.frames.filter fun f => decide (f.kind ≤ 2) && f.on grade
          let place := fun (p : Frame → Bool) =>
            (List.range c.frames.length).filter fun i => let f := nth {} c.frames i; p f && f.on grade
          let m := sts.foldl
            (fun m st =>
              let plane := !(m.stn st).plane
              ((m.clearPlane st plane).plantBankMode ws c.bankHash st plane).modStn st fun s => { s with
                standby := some h, armed := false, bayWait := 0, vuWait := 0 }) m
          let m := m.setConsist j.consist { c with regInv := 0 }
          m.setJob h { j with
            phase := if j.phase = .queued then .installing else j.phase
            install := some { frames := place fun f => decide (f.kind ≤ 2), slab := place fun f => f.kind == 3
                              next := m.now + 16 } }

/-! ### Writing frames -/

/-- The standby planes of a job's stations are armed (R326). -/
def Mach.arm (m : Mach) (h : Nat) (j : Job) (y : Install) : Mach :=
  let m := if y.armed then m else (m.jobStations j).foldl
      (fun m st => m.modStn st fun s => { s with armed := true, bayWait := 2 ^ 256 - 1, vuWait := 2 ^ 32 - 1 }) m
  m.setJob h { j with install := some { y with armed := true } }

/-- Whether a bay holds the plane of a job that is installed. -/
def Mach.bayTaken (m : Mach) (st b h : Nat) : Bool :=
  ((m.stn st).job == some h || (m.stn st).armed && (m.stn st).standby == some h) && m.bayPlane st b == m.jobPlane st h

/-- The stations of a frame. -/
def Mach.frameStations (m : Mach) (f : Frame) : List Nat := maskBits (stationMask f.all f.stations m.stations) 16

/-- Whether the target bays of a SLAB frame have switched to the consist's plane (R301). -/
def Mach.slabReady (m : Mach) (h : Nat) (f : Frame) : Bool :=
  (m.frameStations f).all fun st => f.units.all fun b => m.bayTaken st b h

/-- Whether the head SLAB frame of a job's installation can be written. -/
def Mach.slabHead (m : Mach) (h : Nat) : Bool :=
  match m.job h with
  | none => false
  | some j => match j.install with
    | some { frames := [], slab := i :: _, .. } => m.slabReady h (nth {} (m.consistOf j).frames i)
    | _ => false

/-- A job is due to start or resume (R328). -/
def Mach.dueToStart (m : Mach) (j : Job) : Bool :=
  j.phase == .restoring || (if j.rt then j.runBegin.any fun b => decide (b ≤ m.now) else j.filled)

/-- Stations that an installation needs are RUNNING (R428). -/
def Mach.stationsRun (m : Mach) (j : Job) : Bool :=
  (m.jobStations j).all fun st => m.pwr st == pwrRunning && (m.stn st).pwrDue.isNone

/-- INSTALL_FRAME_WRITE: one frame is read, its CRC checked, and it is written to all its targets. The frames of regions
whose standby planes are marked invalid are owed again when the job is due to start (R328). -/
def effInstallFrameWrite (h : Nat) (m : Mach) : Mach :=
  match m.job h with
  | none => m
  | some j =>
    match j.install with
    | none => m
    | some y =>
      let c := m.consistOf j
      if m.stationsRun j = false then m
      else if m.dueToStart j ∧ c.regInv ≠ 0 then
        let again := (List.range c.frames.length).filter fun i =>
          let f := nth {} c.frames i
          f.on m.dev.chip.grade && bit c.regInv f.region && decide (f.kind ≤ 3)
        let planes := again.filter fun i => (nth {} c.frames i).kind != 3 && !y.frames.contains i
        let slabs := again.filter fun i => (nth {} c.frames i).kind == 3 && !y.slab.contains i
        let m := m.setConsist j.consist { c with regInv := 0 }
        m.setJob h { j with install := some { y with
          frames := planes ++ y.frames, slab := slabs ++ y.slab, next := m.now + 16 } }
      else if y.frames.isEmpty ∧ y.armed = false then m.arm h j y
      else if m.now < y.next then m
      else
        match y.frames, y.slab with
        | i :: rest, _ =>
          let f := nth {} c.frames i
          let bad := m.goldenFails c i
          let m := m.depotRead (m.goldenAt c i) 1064
          if bad then m.configUpset { cls := 8 } j.consist f.index
          else
            let m := m.plantFrame f fun st => m.jobPlane st h
            let y := { y with frames := rest, next := m.now + 16 }
            if rest.isEmpty then m.arm h j y else m.setJob h { j with install := some y }
        | [], i :: rest =>
          let f := nth {} c.frames i
          if m.slabReady h f = false then m
          else
            let bad := m.goldenFails c i
            let m := m.depotRead (m.goldenAt c i) 1064
            if bad then m.configUpset { cls := 8 } j.consist f.index
            else
              let m := (m.frameStations f).foldl
                (fun m st => f.units.foldl (fun m b => m.slabStore st b f.offset (f.payloadFor st)) m) m
              m.setJob h { j with install := some { y with slab := rest, next := m.now + 16 } }
        | [], [] => m

/-! ### Points and queues at a handover (R150, R199) -/

/-- The items that a points entry holds unpaired: control items and data items. -/
def Mach.ptHeld (m : Mach) (st b e : Nat) : Nat × Nat :=
  let d := m.ptDesc st b e
  let held := fun q => (m.queue st q).msgs.length + (m.queue st q).siding.length
  let inputs := if d.mode = 1 then 2 else if d.mode = 3 then d.routes else 1
  if d.mode = 0 then (0, 0) else (held d.ctlQ, ((List.range inputs).map fun r => held (d.dataQ + r)).sum)

/-- Checks the points entries of a bay as its job leaves it, and puts them back to rest. -/
def Mach.ptCheck (m : Mach) (h st b : Nat) : Mach :=
  (List.range 16).foldl
    (fun m e =>
      let (ctl, data) := m.ptHeld st b e
      let m := if ctl = 0 ∧ data = 0 then m
        else
          (m.setRaw (Reg.ptUnpaired st b) (pack [(0, 4, e), (4, 12, ctl), (16, 12, data), (31, 1, 1)])).fault 5
            (ptUnit st b e) (some h) (ctl % 2 ^ 12 + data % 2 ^ 12 * 2 ^ 12)
      let m := { m with dev := { m.dev with points := fdel m.dev.points (ptKey st b e) } }
      m.unwait (ptUnit st b e)) m

/-- The queues of a station that are stored at a bay. -/
def Mach.queuesAt (m : Mach) (st b : Nat) : List Nat :=
  (m.dev.queues.map (·.1)).filterMap fun k => if k / 4096 = st ∧ m.qBay st (k % 4096) = b then some (k % 4096) else none

/-! ### Taking the planes up -/

/-- Whether an installation has no plane frame left to write. -/
def Mach.planesWritten (m : Mach) (h : Nat) : Bool :=
  ((m.job h).bind (·.install)).all fun y => y.frames.isEmpty

/-- Whether a bay lies in a region whose standby plane is marked invalid (R303). -/
def Mach.bayInvalid (m : Mach) (h st b : Nat) : Bool :=
  match m.job h with
  | none => false
  | some j =>
    let c := m.consistOf j
    c.regions.zipIdx.any fun r => bit c.regInv r.2 && (r.1.all || bit r.1.stations st)
      && decide (r.1.rowFirst ≤ b / 16) && decide (b / 16 ≤ r.1.rowLast)
      && decide (r.1.colFirst ≤ b % 16) && decide (b % 16 ≤ r.1.colLast)

/-- The signal box that may still start a unit on the plane that it is to leave. -/
def Mach.oldBox (m : Mach) (st h : Nat) : SigBox :=
  let s := m.stn st
  if s.job = some h then (s.prev.map (·.sb)).getD {} else s.sb

/-- A signal box has no start to a unit pending or on its way. -/
def SigBox.quiet (s : SigBox) (kind unit : Nat) : Bool :=
  !s.starting kind unit && (ffind s.pend (startKey kind unit)).isNone

/-- Once every bay and vector unit has taken the plane up and the signal box too, the standby planes are free again. -/
def Mach.takenUp (m : Mach) (st h : Nat) : Mach :=
  m.modStn st fun s =>
    if s.job = some h ∧ s.bayWait = 0 ∧ s.vuWait = 0 then { s with standby := none, armed := false } else s

/-- A unit switches: `f` makes the switch, and the job's head SLAB frame begins to be written if it waited for it. -/
def Mach.unblock (m : Mach) (h : Nat) (f : Mach → Mach) : Mach :=
  let before := m.slabHead h
  let m := f m
  if !before && m.slabHead h then
    m.modJob h fun j => { j with install := j.install.map fun y => { y with next := max y.next (m.now + 16) } }
  else m

/-- BAY_PLANE_SWITCH: a bay takes the armed standby plane up, once its MU is idle and all its slots are FREE (R54). Points
entries are checked as the job before leaves the bay, and messages of its queues are discarded (R150, R199). -/
def effBayPlaneSwitch (st b : Nat) (m : Mach) : Mach :=
  let s := m.stn st
  match s.standby with
  | none => m
  | some h =>
    let u := m.muOf st b
    let idle := u.run.isNone && u.pipe.isEmpty && u.drains.isEmpty && !m.senderBusy st b (muUnit st b)
      && u.slots.all (fun e => e.2.state == .free) && (m.oldBox st h).quiet 0 b
    if (s.armed && bit s.bayWait b && m.planesWritten h && !m.bayInvalid h st b && idle) = false then m
    else
      let target := m.jobPlane st h
      m.unblock h fun m =>
        let m := m.inBay st b fun m =>
          let m := match (m.stn st).job with
            | some k => if k = h then m else m.ptCheck k st b
            | none => m
          (m.queuesAt st b).foldl (fun m q => m.emptyQueue st q) m
        let m := m.modStn st fun s => { s with
          bayWait := s.bayWait - (s.bayWait &&& 2 ^ b), bayPlane := fput s.bayPlane b target }
        let m := if (m.stn st).job = some h then m.releasePend st 0 b else m
        m.takenUp st h

/-- VU_PLANE_SWITCH: a vector unit takes the armed standby plane up, once it is idle with no start of its job pending and
all eight compartments are empty (R106). -/
def effVuPlaneSwitch (st v : Nat) (m : Mach) : Mach :=
  let s := m.stn st
  match s.standby with
  | none => m
  | some h =>
    let u := m.vuOf st v
    let idle := u.run.isNone && u.writes.isEmpty && u.comps.all (fun e => e.2.isEmpty) && (m.oldBox st h).quiet 1 v
    if (s.armed && bit s.vuWait v && m.planesWritten h && idle) = false then m
    else
      let target := m.jobPlane st h
      let m := m.modStn st fun s => { s with
        vuWait := s.vuWait - (s.vuWait &&& 2 ^ v), vuPlane := fput s.vuPlane v target }
      let m := if (m.stn st).job = some h then m.releasePend st 1 v else m
      m.takenUp st h

/-- A job that has taken a station up without starting goes back to the queue. -/
def Mach.displace (m : Mach) (k : Nat) : Mach :=
  (m.dropInstall k).modJob k fun j => { j with
    phase := if j.phase = .installing then .queued else j.phase, install := none }

/-- SB_PLANE_TAKEUP (R326, R327): the signal box takes an armed plane up when its program has ended, and the station is
then shared by two jobs; on a station where no job runs the whole station takes it up. -/
def effSbPlaneTakeup (st : Nat) (m : Mach) : Mach :=
  let s := m.stn st
  match s.standby with
  | none => m
  | some h =>
    if s.armed = false ∨ m.planesWritten h = false ∨ s.prev.isSome ∨ s.job = some h then m
    else
      let running := (s.job.bind m.job).filter fun j => j.started
      match s.job, running with
      | some k, some j =>
        if j.phase = .running ∧ bit j.progEnd st then
          let m := m.modStn st fun s => { s with
            prev := some { job := k, plane := s.plane, sb := s.sb, late := s.late, milesRun := s.milesRun
                           ptSeen := s.ptSeen, work := s.work, moved := s.moved }
            job := some h, plane := !s.plane, sb := {}, late := [], milesRun := 0, ptSeen := false }
          m.takenUp st h
        else m
      | _, _ =>
        if (List.range 256).any (fun b => m.bayInvalid h st b) ∨ bit (m.raw (Reg.stFaultStatus st)) 0 ∨ s.testDue.isSome
            ∨ s.drainDue.isSome then m
        else
          m.unblock h fun m =>
            let m := match s.job with
              | some k => m.displace k
              | none => m
            let m := m.modStn st fun s =>
              let p := !s.plane
              { s with
                job := some h, plane := p, standby := none, armed := false, bayWait := 0, vuWait := 0
                bayPlane := (List.range 256).map fun b => (b, p), vuPlane := (List.range 32).map fun v => (v, p)
                sb := {}, late := [], milesRun := 0, ptSeen := false }
            m

/-! ### The commands -/

def execInstallationStart (j : Nat) (s : State) := act .run (.installationStart j) s (effInstallationStart j)
def execInstallFrameWrite (j : Nat) (s : State) := act .run (.installFrameWrite j) s (effInstallFrameWrite j)
def execBayPlaneSwitch (st b : Nat) (s : State) := act .run (.bayPlaneSwitch st b) s (effBayPlaneSwitch st b)
def execVuPlaneSwitch (st v : Nat) (s : State) := act .run (.vuPlaneSwitch st v) s (effVuPlaneSwitch st v)
def execSbPlaneTakeup (st : Nat) (s : State) := act .run (.sbPlaneTakeup st) s (effSbPlaneTakeup st)

end Sys2Proof.Machine
end

