-- ==== Sys2Proof/Machine/Clock.lean ====
section
/-! DEFINITION. One ARCLK cycle of the clocks (R139, R162, R191, R398, R424): what a step does when no command waits
(log 18). -/

namespace Sys2Proof.Machine
open Sys2Proof

/-- What the units of a station that act for the job looked at wait on, as the detector sees it: a message that is held
behind four outstanding requests waits on its queue (R174, R191). -/
def Mach.quorumWaits (m : Mach) (st : Nat) : List (Nat × WaitRec) :=
  ((m.dev.waits ++ m.sendWaits st true ++ m.portWaits st).filter fun e => m.waitMine st e.1)

/-- A unit that acts for the job of a station is at work and does not wait: between issues, or with a result on its
way. -/
def Mach.unitBusy (m : Mach) (st : Nat) (ws : List (Nat × WaitRec)) : Bool :=
  let waits := fun (cls n : Nat) =>
    let k := (st * 16 + cls) * 256 + n
    ws.any (fun e => waitUnit e.1 == k) || !m.waitMine st k
  m.dev.mu.any (fun e => e.1 / 256 == st && e.2.run.isSome && !waits 0 (e.1 % 256))
    || m.dev.vu.any (fun e => e.1 / 32 == st && e.2.run.isSome && !waits 1 (e.1 % 32))
    || m.dev.eng.any (fun e => e.1 / 8 == st && e.2.busy && !waits 5 (e.1 % 8))
    || ((m.stn st).sb.running && !waits 4 0)

/-- A combination of a queue runs: progress in each of its cycles (R186, R191). -/
def Mach.combines (m : Mach) (st : Nat) : Bool :=
  m.dev.queues.any fun e => e.1 / 4096 == st && e.2.comb.any fun c => m.cyc st < c

/-- Whether the present cycle is a quorum cycle of a job (R191): nothing issued, no queue moved, no spill runs, every
unit is idle or waits under "operand", "queue empty", "queue full" or "points wait", and one waits on a queue. -/
def Mach.quorumCycle (m : Mach) (h : Nat) (j : Job) : Bool :=
  let sts := m.jobStations j
  let ws := sts.flatMap fun st => (m.seenBy st h).quorumWaits st
  j.spills.isEmpty
    && sts.all (fun st =>
      let m := m.seenBy st h
      !(m.stn st).work && !(m.stn st).moved && !m.combines st && !m.unitBusy st (m.quorumWaits st))
    && ws.all (fun e => decide (e.2.cause < 4))
    && ws.any (fun e => e.2.empty.isSome || e.2.full.isSome)

/-- One cycle of a job. A frozen consist's time stands still. -/
def Mach.jobTick (m : Mach) (h : Nat) : Mach :=
  match m.job h with
  | none => m
  | some j =>
    if j.started = false ∨ (j.phase ≠ .running ∧ j.phase ≠ .stopping) then m
    else
      let sts := m.jobStations j
      let m := if j.phase = .running then sts.foldl (fun m st => m.inJob st h fun m => m.countStalls st) m else m
      if j.frozen then m
      else
        let stn := fun st => (m.seenBy st h).stn st
        let worked := sts.any fun st => (stn st).work
        let spilling := fun st => j.spills.head?.any fun k => k.queue / 4096 == st
        let q := if m.quorumCycle h j then min 4096 (j.quorum + 1) else 0
        let m := sts.foldl
          (fun m st => if worked || (stn st).moved || spilling st || (m.seenBy st h).combines st then m.count (Reg.stProgress st) 1 else m) m
        m.modJob h fun j => { j with cyc := j.cyc + 1, quorum := q }

/-- The clocks advance by one ARCLK cycle: 76 of them are one AONCLK cycle. Without ARCLK, AONCLK alone advances. AONCLK
stops with SYSCLK (Table 17.1). -/
def Clk.tick (c : Clk) : Clk :=
  if c.powered = false then c
  else if c.sysclk = false then (if c.arclkOn ∧ c.tripped = false then { c with arclk := c.arclk + 1 } else c)
  else if c.arclkOn = false ∨ c.tripped then { c with aon := c.aon + 1, aonSub := 0 }
  else if c.aonSub = 75 then { c with arclk := c.arclk + 1, aon := c.aon + 1, aonSub := 0 }
  else { c with arclk := c.arclk + 1, aonSub := c.aonSub + 1 }

/-- One ARCLK cycle of the device: the jobs and the clocks advance, the DDR writes that are due take effect, and the load in
progress ends. -/
def Mach.tick (m : Mach) : Mach :=
  let runs := m.dev.clk.powered && m.dev.clk.arclkOn && !m.dev.clk.tripped
  let m := if runs then ((m.dev.jobs.map (·.1)).foldl Mach.jobTick m).settleClears else m
  let m : Mach := { m with dev := { m.dev with
      clk := m.dev.clk.tick
      stn := m.dev.stn.map fun e => (e.1, { e.2 with
        work := false, moved := false, prev := e.2.prev.map fun p => { p with work := false, moved := false } }) } }
  if runs then m.ddrSettle.loadEnd else m

/-- What a step does when no command waits: a device with a defined state and power lets one cycle pass. -/
def State.idle (s : State) : State :=
  if s.dev.clk.undef then s
  else
    let m := Mach.tick { mem := s.mem, dev := s.dev }
    { mem := s.mem.commit m.log, dev := m.dev, pending := s.pending }

end Sys2Proof.Machine
end

