-- ==== Sys2Proof/Machine/SlabPort.lean ====
section
/-! DEFINITION. The slab port (R113, R116 to R119, R122, R127, R455): the choice among waiting requests in a cycle, the
access, and what it brings to whoever asked; scratchpad sampling's reads (R399); and the slab patrol scrub (R125). -/

namespace Sys2Proof.Machine
open Sys2Proof

/-! ### The choice of a cycle -/

/-- The place of a request: by order, then the older first, then the sub-order of R455. Order-4 requests of one ARCLK cycle,
whose order Felmas does not fix, are served in the order in which the model posted them (DESIGN CHOICE, log 81). -/
def Mach.portKey (m : Mach) (r : PortReq) : Nat :=
  ((r.order * 2 ^ 64 + m.reqNow r) * 2 ^ 20 + r.sub) * 2 ^ 40 + r.age

/-! ### Sampling -/

/-- The next line of a sample of a bay is asked for. -/
def Mach.samplePost (m : Mach) (ring st b addr : Nat) : Mach :=
  m.slabPost st b { order := 4, user := .sample ring, addr := addr, due := m.now, arc := true }

/-- A line of a sample goes to its place in DDR (R399), and the bay's next line is asked for. -/
def Mach.sampleLine (m : Mach) (ring st b addr : Nat) (data : Bytes) : Mach :=
  match ffind m.dev.samples ring with
  | none => m
  | some s =>
    let j := popCount s.mask st
    let m := m.ddrPostWrite (.sampling ring) none (s.dest + (256 * j + b) * s.bytes + (addr - s.first)) data
    if addr + 128 < s.first + s.bytes then m.samplePost ring st b (addr + 128) else m

/-! ### Remote accesses -/

/-- A line of a remote load or store has been accessed: the packet is answered after its last (R280). -/
def Mach.pktLine (m : Mach) (id off : Nat) (data : Option Bytes) (bad : Bool) : Mach :=
  match ffind m.dev.pkts id with
  | none => m
  | some k =>
    let k := { k with
      data := match data with
        | some d => splice k.data (off - gaOffset k.addr) d
        | none => k.data
      bad := k.bad || bad, left := k.left - 1 }
    if k.left ≠ 0 then m.setPacket id k
    else if k.bad then (m.setPacket id k).answer id ocUncorr 0 []
    else (m.setPacket id k).answer id ocOk 0 (if k.op = opLoad then k.data else [])

/-! ### The access -/

/-- A line of the record at a queue's head has been read: an uncorrectable word is kept for the receiver, the lowest
first. -/
def Mach.headRead (m : Mach) (key : Nat) (bad : Option Nat) : Mach :=
  m.modQueue (key / 4096) (key % 4096) fun x => { x with
    unread := x.unread - 1
    bad := match x.bad, bad with
      | some a, some b => some (min a b)
      | some a, none => some a
      | none, y => y }

/-- A word of a ring message has been written: when no piece of it is left at the port it may be read, and a request that
waits for it clears (R158, R178). -/
def Mach.ringWritten (m : Mach) (st b key seq idx : Nat) : Mach :=
  if (m.portOf st b).reqs.any fun r => r.user == .ringWord key seq idx then m
  else
    let frozen := (m.stnJob st).any fun x => x.2.frozen
    (m.wordHere (key / 4096) (key % 4096) seq idx (m.cyc st + if frozen then 0 else ringLead)).itemHere
      (key / 4096) (key % 4096)

/-- A line of a ring that spills has been read: after the last, the records are written to the siding (R192). -/
def Mach.copyRead (m : Mach) (st b key : Nat) (bad : Option Nat) : Mach :=
  match bad with
  | some a => if m.switchStopped st b then m else m.switchFault st (key % 4096) a
  | none =>
    if (m.portOf st b).reqs.any fun r => r.user == .ringCopy key then m
    else
      match m.stnJob st with
      | some (h, j) => match j.spills.find? fun x => x.queue == key with
        | some x => m.spillWrites h x
        | none => m
      | none => m

/-- Makes an access and gives it to whoever asked. A read passes through the code (R122); its data is returned in the
next cycle (R455). -/
def Mach.portServe (m : Mach) (st b : Nat) (r : PortReq) : Mach :=
  let line := r.addr / 128 * 128
  let h := m.jobOf st
  let read := fun (source : Nat) =>
    let (bad, m) := m.slabCheck st b r.addr r.len source
    (bad, m.slabBytes st b r.addr r.len, m)
  match r.user with
  | .muWeight | .muAct =>
    let (bad, d, m) := read srcMu
    m.muLine h st b r.user line d bad
  | .vuRead v operand =>
    let (bad, d, m) := read srcVu
    m.vuLine h st b v operand line d bad
  | .vuWrite v =>
    let m := m.slabWords st b line r.words
    match m.stnJob st with
    | some (_, j) => m.vuWritten j st v
    | none => m
  | .engine est e p =>
    if r.write then ((m.slabWords st b line r.words).engStored est e p).engPump est e
    else
      let (bad, d, m) := read srcEngine
      match bad, ffind (m.engine est e).pieces p, (m.seenBy est (m.engine est e).job).stnJob est with
      | some w, _, some (h, _) => m.engPieceFail h est e p causeSlab (some (slabOff st b w))
      | none, some y, some (_, j) =>
        let t := (if r.arc then m.now else j.cyc) + 1
        let (due, m) := (m.ride (engUnit est e) r.arc t (m.wayBack j est y.src)).getD (t + m.legOut j b + m.stnLatency st est, m)
        (m.engData est e p (y.src / 128 * 128) d due r.arc).engPump est e
      | _, _, _ => m
  | .remote id =>
    if r.write then (m.slabWords st b line r.words).pktLine id (slabOff st b r.addr) none false
    else
      let (bad, d, m) := read srcRemote
      m.pktLine id (slabOff st b r.addr) (some d) bad.isSome
  | .sample ring =>
    let (_, d, m) := read srcSample
    m.sampleLine ring st b line d
  | .scrub => m
  | .ringHead _ _ | .sideWrite _ => m.slabWords st b line r.words
  | .ringWord key seq idx => (m.slabWords st b line r.words).ringWritten st b key seq idx
  | .ringRead key eng =>
    let (bad, _, m) := read (if eng then srcEngine else srcSwitch)
    m.headRead key bad
  | .sideRead key =>
    let (bad, _, m) := read srcSwitch
    m.headRead key bad
  | .ringCopy key =>
    let (bad, _, m) := read srcSwitch
    m.copyRead st b key bad

/-- Whether the bank of a slab address began an access in the last ARCLK cycle, for the port or for the scrub (R117, R125). -/
def Mach.bankBusy (m : Mach) (st b a : Nat) : Bool :=
  let p := m.portOf st b
  let hashed := bit (m.slabCtrl st b) 0
  (p.cyc.any (fun c => c + 1 == m.now) && bankOf hashed a == p.bank) ||
    (m.stn st).scrubRead.any fun r => r.1 + 1 == m.now && bankOf hashed (128 * r.2) == bankOf hashed a

/-- SLAB_ACCESS: the port of a bay serves the highest request whose bank is free in this cycle; each request whose bank is
busy waits and counts as a conflict of that bank (R117, R118). An unscheduled access is counted, and a running consist
loses exact timing by it (R119). -/
def effSlabAccess (st b : Nat) (m : Mach) : Mach :=
  let p := m.portOf st b
  if p.seen = some m.now ∨ (m.stn st).scrubRead.any (fun r => r.1 == m.now) then m
  else
    let hashed := bit (m.slabCtrl st b) 0
    let stand := p.reqs.filter m.reqStands
    let busy := fun (r : PortReq) => m.bankBusy st b r.addr
    let m := stand.foldl (fun m r => if busy r then m.stat (Reg.slabConf st b (bankOf hashed r.addr)) 1 else m) m
    match leastBy m.portKey (stand.filter fun r => !busy r) with
    | none => if stand.isEmpty then m else m.setPort st b { p with seen := some m.now }
    | some r =>
      let m := m.setPort st b
        { reqs := p.reqs.filter fun q => q.age != r.age, bank := bankOf hashed r.addr, cyc := some m.now, seen := some m.now }
      let m :=
        if r.order = 4 then
          let m := m.stat (Reg.slabUnsched st b) 1
          match m.stnJob st with
          | some (h, _) => m.flagJob h fgUnschedSlab
          | none => m
        else m
      match r.job with
      | some h => m.inJob st h fun m => m.portServe st b r
      | none => m.portServe st b r

/-! ### Patrol scrub -/

/-- Lines of a slab. -/
def slabLines : Nat := 6144

/-- The scrub may access a line of every slab of a station in this cycle: it stands last at each port (Table 5.3), and no
bank that it needs is busy. -/
def Mach.scrubMay (m : Mach) (st line : Nat) : Bool :=
  m.dev.slabPort.all fun p => p.1 / 256 != st ||
    (p.2.seen != some m.now && !(p.2.reqs.any m.reqStands) && !(m.bankBusy st (p.1 % 256) (128 * line)))

/-- SLAB_SCRUB_READ: every slab of a station that runs no consist reads the line at the cursor, one in a cycle; the words
that it corrected are written back in the next, unless another write has reached the line; uncorrectable words are left,
counted and logged (R125). -/
def effSlabScrubRead (st : Nat) (m : Mach) : Mach :=
  let s := m.stn st
  let cursor := bits (m.raw (Reg.scrubStatus st)) 14 2
  let line := if s.scrubFix = [] then cursor else (s.scrubRead.map (·.2)).getD cursor
  if s.scrubOn = false ∨ m.consistRuns st ∨ m.now < s.scrubNext ∨ m.raw (Reg.stPwrStatus st) % 4 < 2 ∨
      m.scrubMay st line = false then m
  else if s.scrubFix ≠ [] then
    let m : Mach := { m with dev := { m.dev with slabErr := fkeep m.dev.slabErr fun k => !(s.scrubFix.contains k) } }
    m.modStn st fun s => { s with scrubFix := [], scrubRead := some (m.now, line), scrubNext := m.now + 1 }
  else
    let faulty := m.dev.slabErr.filter fun e =>
      let off := m.cell (4 * e.1)
      off / 2 ^ 28 == st && off % 2 ^ 20 / 128 == cursor
    let m := faulty.foldl
      (fun m e =>
        let off := m.cell (4 * e.1)
        m.slabLog st (spBay off) (spAddr off) srcScrub (e.2 != 1)) m
    let wrap := cursor + 1 == slabLines
    let m := m.setField (Reg.scrubStatus st) 14 2 (if wrap then 0 else cursor + 1)
    let m := if wrap then m.stat (Reg.scrubPasses st) 1 else m
    m.modStn st fun s => { s with
      scrubRead := some (m.now, cursor), scrubFix := (faulty.filter fun e => e.2 == 1).map (·.1), scrubNext := m.now + 1 }

/-! ### The commands -/

def execSlabAccess (st b : Nat) (s : State) := act .run (.slabAccess st b) s (effSlabAccess st b)
def execSlabScrubRead (st : Nat) (s : State) := act .run (.slabScrubRead st) s (effSlabScrubRead st)

end Sys2Proof.Machine
end

