-- ==== Sys2Proof/Machine/Delivery.lean ====
section
/-! DEFINITION. Admission at a home bay and reading at a queue's head (R171, R173 to R184, R194): the commands that
concern engines and remote packets as well as units. -/

namespace Sys2Proof.Machine
open Sys2Proof

/-! ### Requests that come through the station router -/

/-- Whether the station router refuses a message for a queue (R179): it is longer than the queue's limit, or the queue
is unused. -/
def Mach.routerRefuses (m : Mach) (st q len : Nat) : Bool :=
  let d := m.qdesc st q
  d.kind == 0 || decide (d.limit < len)

/-- The station router discards a message: counted, and the requester gets its error outcome. -/
def Mach.routerRefuse (m : Mach) (st q : Nat) (a : AdmReq) : Mach :=
  let m := m.stat (Reg.qRefused st) 1
  match a.eng, a.pkt with
  | some (est, e, i), _ =>
    match (m.seenBy est (m.engine est e).job).stnJob est, ffind (m.engine est e).grants i with
    | some (h, _), some g =>
      match (m.engine est e).pieces.find? fun z => z.2.run == g.run && z.2.row == g.row with
      | some (p, _) => m.engFail h est e p causeRefused g.run g.row (st * 4096 + q)
      | none => m
    | _, _ => m
  | none, some id => m.answer id ocRefused 0 []
  | none, none => m

/-- The order of arrival at a home bay (R176), each clock carried to the consist's. -/
def Mach.arrivalKey (m : Mach) (st : Nat) (a : AdmReq) : Nat :=
  reqKey { a with due := m.reclock st a.due a.arc false }

/-- ADMISSION_REQUEST: the next request that has travelled to a home bay arrives there (R173, R176). A message that comes
through the station router may be refused (R179). -/
def effAdmissionRequest (st q : Nat) (m : Mach) : Mach :=
  match m.stnJob st with
  | none => m
  | some (_, j) =>
    let x := m.queue st q
    match leastBy (m.arrivalKey st) (x.reqs.filter fun a => !a.arrived && decide (a.due ≤ m.clock st a.arc)) with
    | none => m
    | some a =>
      let m := m.setQueue st q (x.dropReq a)
      if a.router && m.routerRefuses st q a.len then m.routerRefuse st q a
      else
        let m := m.noteResult (queueUnit st (m.qdesc st q)) (m.lateOf j Config.qAdmit) (a.due + m.lat j Config.qAdmit)
        let b := { a with arrived := true, due := m.reclock st a.due a.arc false, adm := a.due + m.lat j Config.qAdmit }
        m.modQueue st q fun y => { y with reqs := y.reqs ++ [b] }

/-! ### Admission -/

/-- Words of a message that came whole are put in their places at once; the acknowledgement follows (R226, R278). -/
def Mach.putWhole (m : Mach) (st q seq : Nat) (bytes : Bytes) : Mach :=
  let net := m.qNet st q
  let w := wordBytes net
  ((List.range (wordsOf net bytes.length)).foldl
    (fun m k => m.putWord st q seq k (slice bytes (k * w) w) (m.cyc st) true) m).itemHere st q

/-- A request of the station router is admitted, or waits for room. -/
def Mach.admitRouter (m : Mach) (j : Job) (st q : Nat) (a : AdmReq) : Mach :=
  match m.admitMsg st q a.len a.valid 255 a.st with
  | (some seq, m) =>
    let m := m.modQueue st q fun x => x.dropReq a
    match a.eng, a.pkt with
    | some (est, e, i), _ =>
      let m := m.modEngine est e fun x => { x with
        grants := x.grants.map fun g =>
          if g.1 = i then (i, { g.2 with seq := some seq, held := false, arc := a.arc
                                         next := (m.seenBy est (m.engine est e).job).clock est a.arc + m.engQueueLat j est st q + 1 }) else g }
      (m.unwait (engUnit est e)).engPump est e
    | none, some id => (m.putWhole st q seq a.bytes).answer id ocOk 0 []
    | none, none => m
  | (none, m) =>
    match a.eng with
    | some (est, e, i) =>
      let m := m.modEngine est e fun x => { x with
        grants := x.grants.map fun g => if g.1 = i then (i, { g.2 with held := true }) else g }
      m.waitFullAt (waitKey (engUnit est e)) 2 st q
    | none => m

/-- ADMISSION: the first request for a queue is admitted Q_ADMIT cycles after it arrived, if the queue can take its
message whole; otherwise it waits, and every request behind it (R173, R176, R177, R182). Requests of the consist's own
units stand still in a freeze (R159). -/
def effAdmission (st q : Nat) (m : Mach) : Mach :=
  match m.stnJob st with
  | none => m
  | some (_, j) =>
    match (m.queue st q).firstReq with
    | none => m
    | some a =>
      -- while the spills of a firing run, the requests that it found waiting stay so (R192)
      if m.clock st a.arc < a.adm ∨ (j.spills ≠ [] ∧ a.adm ≤ m.clock st a.arc - (j.cyc - j.firedAt)) then m
      else if j.phase = .stopping then (if a.router then (m.modQueue st q fun y => y.dropReq a).routerRefuse st q a else m)
      else if a.router then m.admitRouter j st q a
      else if j.frozen then m
      else m.admitOnChip j st q a

/-! ### Reading -/

/-- The engine of a station whose transfer reads from a queue takes the message at its head: ascending engine number. -/
def Mach.engReads (m : Mach) (h : Nat) (j : Job) (st q : Nat) : Mach :=
  match (List.range 8).find? fun e =>
      let x := m.engine st e
      x.busy && !x.halted && (match x.descs.getLast? with
        | some ds =>
          let d := m.xferDesc st ds
          !ds.issued && d.srcKind == kQueue && d.src % 4096 == q && decide (x.next ≤ m.cyc st)
        | none => false) with
  | some e => (m.engIssue h j st e (some q)).engPump st e
  | none => m

/-- QUEUE_READ: the queue's receiver reads at its head. A record that is no message is passed over (R184); a record of the
siding is asked for (R194); a message is read by the unit that wants it, in the order of R171. Points units, combiners and
the signal box take theirs by their own commands. -/
def effQueueRead (st q : Nat) (m : Mach) : Mach :=
  match m.liveJob st with
  | none => m
  | some (h, j) =>
    let x := m.queue st q
    match m.head st q with
    | .empty => m
    | .pass next => if m.cyc st < x.busy then m else m.passOver j st q next
    | .spilled s => if x.ask.isNone then m.sidingAsk st q s else unit h j m
    | .message _ _ _ _ => if m.cyc st < x.busy then m else unit h j m
where
  unit (h : Nat) (j : Job) (m : Mach) : Mach :=
    match m.muReads h j st q with
    | some m => m
    | none => match m.vuReads h st q with
      | some m => m
      | none => m.engReads h j st q

/-- A Matrix Unit or a vector unit takes the message at a queue's head in this cycle. -/
def Mach.arrayWants (m : Mach) (st q : Nat) : Bool :=
  match m.liveJob st with
  | some (h, j) => (m.muReads h j st q).isSome || (m.vuReads h st q).isSome
  | none => false

/-- A receiver takes its turn at the heads of some queues after those that R171 puts before it. -/
def Mach.afterUnits (m : Mach) (st : Nat) (qs : List Nat) (before : Mach → Nat → Bool) (f : Mach → Mach) : Mach :=
  if qs.any fun q => m.arrayWants st q || before m q then m else f m

/-! ### The commands -/

def execAdmissionRequest (st q : Nat) (s : State) := act .run (.admissionRequest st q) s fun m =>
  m.inQueue st q (effAdmissionRequest st q)
def execAdmission (st q : Nat) (s : State) := act .run (.admission st q) s fun m =>
  m.inQueue st q (effAdmission st q)
def execQueueRead (st q : Nat) (s : State) := act .run (.queueRead st q) s fun m =>
  m.inQueue st q (effQueueRead st q)

def execPointsDecision (st b e : Nat) (s : State) := act .run (.pointsDecision st b e) s fun m =>
  m.inBay st b fun m => let d := m.ptDesc st b e
    m.afterUnits st (d.ctlQ :: d.dataQueues) (fun _ _ => false) (effPointsDecision st b e)
def execEpochEnd (st b e : Nat) (s : State) := act .run (.epochEnd st b e) s fun m =>
  m.inBay st b fun m => m.afterUnits st (m.ptDesc st b e).dataQueues (fun _ _ => false) (effEpochEnd st b e)
def execCombination (st q : Nat) (s : State) := act .run (.combination st q) s fun m =>
  m.inQueue st q fun m => m.afterUnits st (m.qdesc st q).inputs (fun m i => m.ptWants st i) (effCombination st q)
def execSbRecv (st : Nat) (s : State) := act .run (.sbRecv st) s fun m =>
  m.afterUnits st [insImm (m.sbInstr st (m.sb st).pc) % 4096] (fun m q => m.ptWants st q || m.combWants st q) (effSbRecv st)

end Sys2Proof.Machine
end

