-- ==== Sys2Proof/Machine/Ermus.lean ====
section
/-! DEFINITION. Ermus ports and the torus (R255 to R271, R284, R285): flits, credits, replay, retraining, training and
IDENT, dimension-order routing, opening and closing ports. -/

namespace Sys2Proof.Machine
open Sys2Proof

/-! ### Flits (R257, Table 10.2) -/

/-- One bit, then one byte, of the CRC-64 with the ECMA-182 polynomial. -/
def crcBits : Nat → Nat → Nat
  | 0, c => c
  | n + 1, c => crcBits n (if 2 ^ 63 ≤ c then (2 * c % 2 ^ 64) ^^^ 0x42F0E1EBA9EA3693 else 2 * c)
def crcByte (c : Nat) (b : Byte) : Nat := crcBits 8 (c ^^^ b.toNat * 2 ^ 56)
/-- The CRC-64 of a byte string: register 0 at the start, highest bit of each byte first, no inversion (log 17). -/
def crc64 (bs : Bytes) : Nat := bs.foldl crcByte 0

/-- The fields of a flit header that the link uses. -/
structure FlitHdr where
  ftype : Nat := 0
  seq   : Nat := 0
  ack   : Option Nat := none
  vc    : Nat := 0
  cls   : Nat := 0
  dest  : Nat := 0
  plen  : Nat := 0
  /-- Credit returns: pool (2 × class + virtual channel) and count. -/
  cred  : Nat × Nat := (0, 0)
  cred2 : Nat × Nat := (0, 0)
  deriving DecidableEq, Repr, Inhabited

/-- The 16 bytes of a flit header. -/
def FlitHdr.encode (h : FlitHdr) : Bytes :=
  toLe 16 (pack
    [(0, 4, h.ftype), (4, 12, h.seq), (16, 12, h.ack.getD 0), (28, 1, b2n h.ack.isSome), (29, 1, h.vc), (30, 1, h.cls),
     (32, 18, h.dest), (64, 9, h.plen), (80, 9, h.cred.2), (89, 1, h.cred.1 % 2), (90, 1, h.cred.1 / 2), (96, 9, h.cred2.2),
     (105, 1, h.cred2.1 % 2), (106, 1, h.cred2.1 / 2)])

/-- Reads a flit header. -/
def FlitHdr.decode (b : Bytes) : FlitHdr :=
  let x := leNat b 0 16
  { ftype := bits x 3 0, seq := bits x 15 4, ack := if bit x 28 then some (bits x 27 16) else none, vc := bits x 29 29
    cls := bits x 30 30, dest := bits x 49 32, plen := bits x 72 64
    cred := (2 * bits x 90 90 + bits x 89 89, bits x 88 80), cred2 := (2 * bits x 106 106 + bits x 105 105, bits x 104 96) }

/-- A whole flit: header, payload filled with zeros, CRC. -/
def flitOf (h : FlitHdr) (payload : Bytes) : Bytes :=
  let body := h.encode ++ padTo 488 payload
  body ++ toLe 8 (crc64 body)

/-- Whether a received flit's CRC holds. -/
def flitOk (b : Bytes) : Bool := leNat b 504 8 == crc64 (b.take 504)

/-! ### Packets as bytes (R258, Table 10.8) -/

/-- The 32 bytes of a packet header. -/
def Packet.header (p : Packet) : Bytes :=
  toLe 8 (pack [(0, 4, p.op), (4, 3, p.status), (8, 18, p.src), (32, 32, p.ctx)]) ++ toLe 8 p.addr
    ++ toLe 8 (pack [(0, 16, p.tag), (16, 14, p.len - 1)]) ++ toLe 8 p.arg.toNat

/-- A packet from its bytes and the destination that its first flit names. -/
def Packet.parse (dest : Nat) (b : Bytes) : Packet :=
  let w0 := leNat b 0 8
  let w2 := leNat b 16 8
  { op := bits w0 3 0, status := bits w0 6 4, src := bits w0 25 8, dest := dest, ctx := bits w0 63 32, addr := leNat b 8 8
    tag := bits w2 15 0, len := bits w2 29 16 + 1, arg := BitVec.ofNat 64 (leNat b 24 8), data := b.drop 32 }

/-- Responses and acknowledgements travel in the response class. -/
def Packet.cls (p : Packet) : Nat := if p.op = opResponse ∨ p.op = opAck then 1 else 0
/-- The flits of a packet. -/
def Packet.nflits (p : Packet) : Nat := (32 + p.data.length + 487) / 488

/-! ### Port state (Table 10.18) -/

def psClosed : Nat := 0
def psTraining : Nat := 1
def psIdent : Nat := 2
def psUp : Nat := 3
def psRetrain : Nat := 4
def psDraining : Nat := 5
def psFailed : Nat := 6

def Mach.portState (m : Mach) (p : Nat) : Nat := bits (m.raw (Reg.portStatus p)) 2 0
def Mach.portVersion (m : Mach) (p : Nat) : Nat := bits (m.raw (Reg.portStatus p)) 7 6

/-- Changes a port's state and cause, with the event that EP_CTRL enables (R361). FBCLK runs from TRAINING on, but when the
port is CLOSED or FAILED and for the length of a retrain (Table 17.1). -/
def Mach.setPortState (m : Mach) (p state cause : Nat) : Mach :=
  let lock := b2n (state == psTraining || state == psIdent || state == psUp || state == psDraining)
  let m := { m with dev := { m.dev with clk := { m.dev.clk with fbclk := setBits m.dev.clk.fbclk p p lock } } }
  let m := (m.setField (Reg.portStatus p) 2 0 state).setField (Reg.portStatus p) 5 3 cause
  let m := if state = psUp ∨ state = psRetrain ∨ state = psDraining then m
    else m.setField (Reg.portStatus p) 7 6 0
  if bit (m.raw Reg.epCtrl) 0 then
    m.farEvent 2 p { addr := Reg.epCtrl, bit := 0, info := p + state * 2 ^ 4 + cause * 2 ^ 7 }
  else m

/-- Flits that a port holds: kept for replay, of packets not yet whole, and of packets in its input pools. -/
def Mach.portHolds (m : Mach) (p : Nat) : Nat :=
  let e := m.ep p
  e.replay.length + (e.rxPools.map fun x => x.2.length).sum
    + (m.dev.pkts.map fun (k : Nat × Packet) => if k.2.port = some p then k.2.flits else 0).sum

/-- Everything a port holds is discarded and counted in EP_DISCARD (R261, R285, R379). Requests that a target has already
taken go on. -/
def Mach.portDiscard (m : Mach) (p : Nat) : Mach :=
  let n := m.portHolds p
  let m := m.stat (Reg.portDiscard p) n
  let m := { m with dev := { m.dev with
      pkts := (m.dev.pkts.filter fun (k : Nat × Packet) => k.2.port != some p || k.2.flits == 0 || k.2.taken).map
        fun (k : Nat × Packet) => if k.2.port = some p then (k.1, { k.2 with flits := 0, port := none }) else k } }
  let e := m.ep p
  m.setEp p { ring := e.ring }

/-- A port leaves service. EP_PEER.VALID clears when it closes. -/
def Mach.portEnd (m : Mach) (p state cause : Nat) : Mach :=
  let m := m.portDiscard p
  let m := if state = psClosed then m.setField (Reg.portPeer p) 63 63 0 else m
  m.setPortState p state cause

/-- EP_PORT_STATUS as it reads: SPARE and LPORT follow the current map. -/
def Mach.portStatusValue (m : Mach) (p : Nat) : Nat :=
  let r := m.raw (Reg.portStatus p)
  let l := m.logPort p
  setBits (setBits r 8 8 (b2n l.isNone)) 11 9 (l.getD 7)

/-- The command that waits for a port gets its reply. -/
def Mach.portReply (m : Mach) (p status detail value : Nat) : Mach :=
  match (m.ep p).ring with
  | none => m
  | some r => (m.modEp p fun e => { e with ring := none, drainEnd := none }).reply r status detail value

/-- PORT_CLOSE is in progress at a port: it takes no new packets (R285). -/
def Mach.portClosing (m : Mach) (p : Nat) : Bool := (m.ep p).drainEnd.isSome

/-- A port fails. A PORT_OPEN that waits for it completes (R262), and so does a PORT_CLOSE: nothing is left to drain
(DESIGN CHOICE, log 86). -/
def Mach.portFails (m : Mach) (p cause : Nat) : Mach :=
  let closing := m.portClosing p
  let m := m.portEnd p psFailed cause
  m.portReply p scOk 0 (if closing then 0 else m.portStatusValue p)

/-! ### Sending -/

/-- The ACK fields of a flit that a port sends. -/
def EpPort.ackOf (e : EpPort) : Option Nat := if e.rxSome then some ((e.rxNext + 4095) % 4096) else none

/-- The credits that a flit can return: two pools, up to 256 each. -/
def EpPort.takeOwed (e : EpPort) : (Nat × Nat) × (Nat × Nat) × EpPort :=
  let owed := (List.range 4).filter fun k => nth 0 e.owe k != 0
  let a := nth 0 owed 0
  let b := nth 0 owed 1
  let na := if owed.isEmpty then 0 else min 256 (nth 0 e.owe a)
  let nb := if owed.length < 2 then 0 else min 256 (nth 0 e.owe b)
  let e := { e with owe := setNth e.owe a (nth 0 e.owe a - na) }
  ((a, na), (b, nb), { e with owe := setNth e.owe b (nth 0 e.owe b - nb) })

/-- A port sends a flit; one that carries SEQ is kept for replay (R260). -/
def Mach.sendFlit (m : Mach) (p : Nat) (h : FlitHdr) (payload : Bytes) (keep : Bool) : Mach :=
  let e := m.ep p
  let (c, c2, e) := e.takeOwed
  let flit := flitOf { h with seq := if keep then e.txNext else h.seq, ack := e.ackOf, cred := c, cred2 := c2 } payload
  let e := { e with unacked := 0, ackFrom := m.now }
  let e := if keep then
      { e with
        replay := e.replay ++ [(e.txNext, flit, 1)], txNext := (e.txNext + 1) % 4096
        lastAck := if e.replay.isEmpty then m.now else e.lastAck }
    else e
  ((m.setEp p e).count (Reg.portTx p) 1).emit (.flit p flit)

/-- Sends flit number i of a packet: the SINGLE, or the HEAD, a BODY or the TAIL. It takes a credit of its pool (R259). -/
def Mach.sendPart (m : Mach) (p : Nat) (k : Packet) (vc i : Nat) : Mach :=
  let n := k.nflits
  let pool := 2 * k.cls + vc
  let m := m.modEp p fun e => { e with credits := setNth e.credits pool (nth 0 e.credits pool - 1) }
  let part := ((k.header ++ k.data).drop (488 * i)).take 488
  let ftype := if n = 1 then 4 else if i = 0 then 1 else if i + 1 = n then 3 else 2
  m.sendFlit p { ftype := ftype, vc := vc, cls := k.cls, dest := if i = 0 then k.dest else 0, plen := part.length } part true

/-! ### Routing (R268) -/

/-- The next link of a packet: its direction (0 X+, 1 X−, … 5 Z−), virtual channel and dimension; none at its
destination. -/
def Mach.nextLink (m : Mach) (k : Packet) : Option (Nat × Nat × Nat) :=
  (List.range 3).findSome? fun i =>
    let s := m.ringSize i
    let c := coordOf m.deviceId i
    let delta := (coordOf k.dest i + s - c % (s + b2n (s == 0))) % (s + b2n (s == 0))
    if delta = 0 then none
    else
      let plus := decide (delta ≤ s - delta)
      let crossed := k.dim == i && k.vc == 1
      let dateline := if plus then c + 1 == s else c == 0
      some (2 * i + b2n (!plus), b2n (crossed || dateline), i)

/-- The physical port of a direction, if a logical port has it (R267). -/
def Mach.dirPort (m : Mach) (dir : Nat) : Option Nat :=
  (lowest 6 fun l => bits (m.raw Reg.epDimMap) (3 * l + 2) (3 * l) == dir).map m.physPort

/-- A packet stands at the head of its input pool; packets of this device are always at their head (R259, R269). -/
def Mach.pktHead (m : Mach) (id : Nat) (k : Packet) : Bool :=
  k.flits == 0 || !(m.dev.pkts.any fun x => x.1 < id && x.2.port == k.port && x.2.pool == k.pool && x.2.flits != 0)

/-- While OUT_EN is 0, requests that consists of this device issue to a port, and requests for this device that came in
on one, are held (R298). -/
def Mach.pktHeld (m : Mach) (k : Packet) : Bool :=
  k.cls == 0 && !bit (m.raw Reg.ilStatus) 0 && (if k.arrived then k.port.isSome else k.port.isNone)

/-- The physical port and the virtual channel that a packet leaves by. -/
def Mach.outPort (m : Mach) (k : Packet) : Option (Nat × Nat) :=
  (m.nextLink k).bind fun l => (m.dirPort l.1).map fun p => (p, l.2.1)

/-- The input of the port switch that a packet comes in on: its port, or 8 for this device's own packets. -/
def Packet.input (k : Packet) : Nat := k.port.getD 8

/-- A packet stands ready for the port switches: it heads its pool, is not held, its transit has taken its 10 ns (R270),
and no earlier packet of its unit for the same device and class still waits (R279). -/
def Mach.pktReady (m : Mach) (id : Nat) (k : Packet) : Bool :=
  !k.arrived && !m.pktHeld k && m.pktHead id k && decide (k.due ≤ m.now)
    && !(k.port.isNone && m.dev.pkts.any fun (e : Nat × Packet) =>
      e.1 < id && e.2.port.isNone && !e.2.arrived && e.2.ctx == k.ctx && e.2.dest == k.dest && e.2.cls == k.cls)

/-- A packet can send its next flit on a port and virtual channel: a credit of its pool and room for replay are there, and
no other packet of the pool is partly sent (R258 to R260). -/
def Mach.flitGoes (m : Mach) (id : Nat) (k : Packet) (p vc : Nat) : Bool :=
  m.pktReady id k && nth 0 (m.ep p).credits (2 * k.cls + vc) != 0 && decide ((m.ep p).replay.length < 512)
    && !(m.dev.pkts.any fun (e : Nat × Packet) =>
      e.1 != id && e.2.sent != 0 && e.2.cls == k.cls && m.outPort e.2 == some (p, vc))

/-- The input that a port serves next: round-robin, at the grain of a flit, among those with a flit that can go (R270). -/
def Mach.inputTurn (m : Mach) (p : Nat) : Option Nat :=
  let ready := m.dev.pkts.filter fun (e : Nat × Packet) =>
    match m.outPort e.2 with
    | some (q, vc) => q == p && m.flitGoes e.1 e.2 p vc
    | none => false
  leastBy (fun i => (i + 8 - (m.ep p).served) % 9) (ready.map fun (e : Nat × Packet) => e.2.input)

/-- The next flit of a packet leaves on a port; its own flit in the input pool has been passed on (R259). With the last one
the packet has gone. -/
def Mach.passFlit (m : Mach) (id : Nat) (k : Packet) (p vc : Nat) : Mach :=
  let m := (m.sendPart p k vc k.sent).modEp p fun e => { e with served := k.input }
  if k.nflits ≤ k.sent + 1 then m.dropPacket id
  else
    let m := m.setPacket id { k with sent := k.sent + 1, flits := if 1 < k.flits then k.flits - 1 else k.flits }
    match k.port with
    | some q => if 1 < k.flits then m.modEp q fun e => { e with owe := setNth e.owe k.pool (nth 0 e.owe k.pool + 1) } else m
    | none => m

/-- PACKET_TRANSIT: a packet that is not at its destination sends its next flit on by its next port, when its input's turn
has come. A port that is not UP or RETRAIN discards it, and one that closes takes no new packets (R268, R270, R284, R285).
A token wait or remote combine does not leave on a version-1 link: this device answers NOSUPPORT (R265). -/
def effPacketTransit (id : Nat) (m : Mach) : Mach :=
  match ffind m.dev.pkts id with
  | none => m
  | some k =>
    if m.pktReady id k = false then m
    else
      match m.nextLink k with
      | none => m.setPacket id { k with arrived := true }
      | some _ =>
        match m.outPort k with
        | none => m.dropPacket id
        | some (p, vc) =>
          let s := m.portState p
          if s = psRetrain ∧ (m.portClosing p = false ∨ k.sent ≠ 0) then m
          else if s ≠ psUp ∧ (s ≠ psDraining ∨ k.sent = 0) then
            (m.dropPacket id).stat (Reg.portDiscard p) (k.nflits - k.sent)
          else if (k.op == opWait || k.op == opCombine) && m.portVersion p == 1 then
            ((m.dropPacket id).targetErr k.addr).addPacket
              { op := if isWriteOp k.op then opAck else opResponse, status := ocNosupport, src := m.deviceId
                dest := k.src, ctx := k.ctx, addr := k.addr, tag := k.tag, len := 1 }
          else if m.flitGoes id k p vc && m.inputTurn p == some k.input then m.passFlit id k p vc
          else m

/-! ### Receiving (R259, R260) -/

/-- A port begins to retrain (R261). One that closes goes on closing. -/
def Mach.startRetrain (m : Mach) (p : Nat) : Mach :=
  let m := m.stat (Reg.portRetrains p) 1
  (m.modEp p fun e => { e with attempts := 0 }).setPortState p psRetrain 0

/-- Sends the flits kept for replay again. A flit that has been sent 8 times without acknowledgement starts a retrain
(R261). The count begins again with each retrain. -/
def Mach.replayAll (m : Mach) (p : Nat) : Mach :=
  let e := m.ep p
  let m := m.stat (Reg.portReplays p) 1
  let m := m.setEp p { e with replay := e.replay.map fun f => (f.1, f.2.1, f.2.2 + 1), lastAck := m.now }
  let m := e.replay.foldl (fun m f => (m.count (Reg.portTx p) 1).emit (.flit p f.2.1)) m
  if (m.ep p).replay.any fun f => 8 ≤ f.2.2 then m.startRetrain p else m

/-- The flits up to an acknowledged SEQ are kept no longer. -/
def EpPort.acked (e : EpPort) (seq now : Nat) : EpPort :=
  let old := e.replay.length
  match findIndex (fun f => f.1 == seq) e.replay with
  | none => e
  | some i => { e with replay := e.replay.drop (i + 1), lastAck := if old = 0 then e.lastAck else now }

/-- Adds returned credits to a pool. -/
def EpPort.credit (e : EpPort) (c : Nat × Nat) : EpPort :=
  { e with credits := setNth e.credits c.1 (min 256 (nth 0 e.credits c.1 + c.2)) }

/-- A NAK names the SEQ that the receiver expects: everything before it has arrived, and the rest is sent again. -/
def Mach.nakFrom (m : Mach) (p seq : Nat) : Mach :=
  let e := m.ep p
  let e := e.acked ((seq + 4095) % 4096) m.now
  (m.setEp p e).replayAll p

/-- Whether a port's link carries flits. -/
def Mach.linkUp (m : Mach) (p : Nat) : Bool := m.portState p == psUp || m.portState p == psDraining

/-- The dimension of the direction that a physical port serves. -/
def Mach.portDim (m : Mach) (p : Nat) : Nat :=
  match m.logPort p with
  | some l => bits (m.raw Reg.epDimMap) (3 * l + 2) (3 * l) / 2
  | none => 3

/-- A flit of a packet is taken into its pool; with the last the packet is whole. -/
def Mach.takeFlit (m : Mach) (p : Nat) (h : FlitHdr) (flit : Bytes) : Mach :=
  let pool := 2 * h.cls + h.vc
  let e := m.ep p
  let got := (if h.ftype = 1 ∨ h.ftype = 4 then [] else fget [] e.rxPools pool) ++ [flit]
  if h.ftype = 3 ∨ h.ftype = 4 then
    let m := m.setEp p { e with rxPools := fdel e.rxPools pool }
    let bs := got.flatMap fun f => (f.drop 16).take (FlitHdr.decode f).plen
    let dest := ((got.head?).map fun f => (FlitHdr.decode f).dest).getD 0
    m.addPacket { Packet.parse dest bs with
      vc := h.vc, dim := m.portDim p, port := some p, pool := pool, flits := got.length, due := m.now + 19 }
  else m.setEp p { e with rxPools := fput e.rxPools pool got }

/-- The acknowledgement and the credits that a flit carries. -/
def Mach.takeReturns (m : Mach) (p : Nat) (h : FlitHdr) : Mach :=
  m.modEp p fun e =>
    let e := match h.ack with
      | some a => e.acked a m.now
      | none => e
    (e.credit h.cred).credit h.cred2

/-- FLIT_RECEIVE: `fec` is the number of symbols that the FEC corrected, none for a codeword that it could not correct. A
flit that is discarded gives neither its credits nor its acknowledgement: its copy brings them. A flit without SEQ is sent
only once, and is taken also while the expected SEQ is awaited (log 86). -/
def effFlitReceive (p : Nat) (flit : Bytes) (fec : Option Nat) (m : Mach) : Mach :=
  if m.linkUp p = false then m
  else
    let m := m.count (Reg.portRx p) 1
    let m := match fec with
      | some n => m.stat (Reg.portFecCorr p) n
      | none => m.stat (Reg.portFecUncorr p) 1
    let fecOk := fec.isSome
    let crcBad := fecOk && !flitOk flit
    let m := if crcBad then m.stat (Reg.portCrcErr p) 1 else m
    if crcBad || !fecOk then
      if (m.ep p).nakSent then m
      else (m.modEp p fun e => { e with nakSent := true }).sendFlit p { ftype := 6, seq := (m.ep p).rxNext } [] false
    else
      let h := FlitHdr.decode flit
      if h.ftype = 6 then (m.takeReturns p h).nakFrom p h.seq
      else if h.ftype < 1 ∨ 4 < h.ftype then m.takeReturns p h
      else if h.seq ≠ (m.ep p).rxNext then m
      else
          let m := m.takeReturns p h
          let e := m.ep p
          let m := m.setEp p { e with
            rxNext := (e.rxNext + 1) % 4096, rxSome := true, nakSent := false, unacked := e.unacked + 1 }
          let m := m.takeFlit p h flit
          if 32 ≤ (m.ep p).unacked then m.sendFlit p { ftype := 5 } [] false else m

/-- NAK. -/
def effNak (p seq : Nat) (m : Mach) : Mach := if m.linkUp p then m.nakFrom p (seq % 4096) else m

/-- LINK_ACK_DUE: the receiver acknowledges the last flit that it received in order, and returns credits, at least once in
every 100 ns (190 ARCLK cycles), whether or not a flit has come since. -/
def effLinkAckDue (p : Nat) (m : Mach) : Mach :=
  let e := m.ep p
  if m.linkUp p && (e.rxSome || e.owe.any (· != 0)) && decide (e.ackFrom + 190 ≤ m.now) then
    m.sendFlit p { ftype := 5 } [] false
  else m

/-! ### Retraining (R261) -/

/-- LANE_LOCK_LOSS. -/
def effLaneLockLoss (p : Nat) (m : Mach) : Mach := if m.linkUp p then m.startRetrain p else m

/-- ACK_TIMEOUT: 10 µs (19,000 ARCLK cycles) with no acknowledgement while flits are unacknowledged. -/
def effAckTimeout (p : Nat) (m : Mach) : Mach :=
  let e := m.ep p
  if m.linkUp p && !e.replay.isEmpty && decide (e.lastAck + 19000 ≤ m.now) then m.startRetrain p else m

/-- A port retrain that maintenance started has ended (R393). -/
def Mach.retrainEnded (m : Mach) (p : Nat) : Mach :=
  { m with dev := { m.dev with maint := m.dev.maint.filter fun a => !(a.code == 5 && some a.target == m.logPort p) } }

/-- RETRAIN_ATTEMPT_DONE: success resumes replay from the last acknowledged SEQ, the flits kept being sent anew, in UP or,
where PORT_CLOSE is in progress, in DRAINING; a third failure fails the port. -/
def effRetrainAttemptDone (p : Nat) (ok : Bool) (m : Mach) : Mach :=
  if m.portState p ≠ psRetrain then m
  else if ok then
    let m := (m.retrainEnded p).setPortState p (if m.portClosing p then psDraining else psUp) 0
    let m := m.modEp p fun e => { e with replay := e.replay.map fun f => (f.1, f.2.1, 0), nakSent := false }
    if (m.ep p).replay.isEmpty then m else m.replayAll p
  else
    let n := (m.ep p).attempts + 1
    if n < 3 then m.modEp p fun e => { e with attempts := n }
    else (m.retrainEnded p).portFails p 5

/-! ### Training and IDENT (R262 to R264) -/

/-- The direction of a physical port, 6 for none. -/
def Mach.portDir (m : Mach) (p : Nat) : Nat :=
  match m.logPort p with
  | some l => bits (m.raw Reg.epDimMap) (3 * l + 2) (3 * l)
  | none => 6

/-- Versions that the Slaren offers, as a bitmap (R264). -/
def linkVersions : Nat := 6

/-- PORT_TRAINING_DONE: the port sends its IDENT flits. -/
def effPortTrainingDone (p : Nat) (m : Mach) : Mach :=
  if m.portState p ≠ psTraining then m
  else
    (m.setPortState p psIdent 0).emit
      (.ident p (m.raw Reg.epDeviceId) (m.raw Reg.epTorus) (m.portDir p) linkVersions)

/-- NO_SIGNAL: no peer within the limit. -/
def effNoSignal (p : Nat) (m : Mach) : Mach :=
  if m.portState p = psTraining ∨ m.portState p = psIdent then
    m.portFails p 1
  else m

/-- The neighbour's device ID in a direction (R263). -/
def Mach.neighbourId (m : Mach) (dir : Nat) : Nat :=
  let k := dir / 2
  let s := m.ringSize k
  let c := coordOf m.deviceId k
  let c' := if s = 0 then c else if dir % 2 = 0 then (c + 1) % s else (c + s - 1) % s
  m.deviceId - c * 64 ^ k + c' * 64 ^ k

/-- IDENT: the peer is checked; the link takes the highest version that both support. -/
def effIdent (p device torus dir versions : Nat) (m : Mach) : Mach :=
  if m.portState p ≠ psIdent then m
  else
    let mine := m.portDir p
    let m := m.setRaw (Reg.portPeer p) (pack [(0, 18, device), (18, 3, dir), (24, 8, versions), (63, 1, 1)])
    let m :=
      if dir ≠ (if mine % 2 = 0 then mine + 1 else mine - 1) then m.portEnd p psFailed 2
      else if torus % 2 ^ 23 ≠ m.raw Reg.epTorus % 2 ^ 23 then m.portEnd p psFailed 3
      else if device % 2 ^ 18 ≠ m.neighbourId mine then m.portEnd p psFailed 2
      else if bit versions 2 = false ∧ bit versions 1 = false then m.portEnd p psFailed 4
      else
        let m := m.setEp p { ring := (m.ep p).ring, credits := [256, 256, 256, 256], ackFrom := m.now, lastAck := m.now }
        (m.setPortState p psUp 0).setField (Reg.portStatus p) 7 6 (if bit versions 2 then 2 else 1)
    m.portReply p scOk 0 (m.portStatusValue p)

/-! ### PORT_OPEN and PORT_CLOSE (R262, R271, R285, R287, R394) -/

/-- What is in progress at a logical port and refuses other commands for it: the DETAIL of the refusal. -/
def Mach.portConflict (m : Mach) (l : Nat) : Option Nat :=
  let p := m.physPort l
  match (m.ep p).ring with
  | some r => some (busyDetail (((m.ring r).cmd.map (·.opcode)).getD 0) 0 l)
  | none =>
    if m.dev.maint.any fun a => a.code == 5 && a.target == l then some (busyDetail 0x60 5 l)
    else if m.dev.boot.owed.any fun o => o == (2, p) then some (busyDetail 0x70 0 p)
    else none

/-- The fabric has been set up: an ID, and ring sizes greater than its coordinates (R287). -/
def Mach.fabricSet (m : Mach) : Bool :=
  bit (m.raw Reg.epDeviceId) 31 && (List.range 3).all fun k => coordOf m.deviceId k < m.ringSize k

/-- The map of ports with logical port l and a spare exchanged. -/
def Mach.substitute (m : Mach) (l spare : Nat) : Mach :=
  let map := m.portMap
  let new := setNth (setNth map l (nth 0 map (6 + spare))) (6 + spare) (nth 0 map l)
  m.setRaw Reg.coPortMap (pack (((List.range 8).map fun j => (3 * j, 3, nth 0 new j)) ++
    [(31, 1, b2n (new != m.dev.chip.portFuse))]))

/-- PORT_OPEN. A port of a dimension with no links, or with direction 6, stays as it is. -/
def effPortOpen (r : Nat) (m : Mach) : Mach :=
  m.command r 0x81 fun c m =>
    let l := c.p 0 % 8
    let sub := bits (c.p 0) 5 4
    if 5 < l ∨ 2 < sub ∨ m.fabricSet = false then m.badParam r 0
    else if sub ≠ 0 ∧ m.version < 0x300 then m.refuse r scVersion 0
    else
      match m.portConflict l with
      | some d => m.refuse r scBusy d
      | none =>
        match (if sub = 0 then none else m.dev.consists.find? fun x => bit x.2.ports l) with
        | some x => m.refuse r scBusy (busyDetail 0x20 0 x.1)
        | none =>
          let m := if sub = 0 then m else m.substitute l (sub - 1)
          let p := m.physPort l
          let s := m.portState p
          let dir := m.portDir p
          if (s ≠ psClosed ∧ s ≠ psFailed) ∨ 5 < dir ∨ m.ringSize (dir / 2) ≤ 1 then m.accept r (m.portStatusValue p)
          else
            let m := m.setEp p { ring := some r }
            (m.begin r).setPortState p psTraining 0

/-- PORT_CLOSE: the port takes no new packets and drains. One that retrains reads RETRAIN until the retrain has ended. -/
def effPortClose (r : Nat) (m : Mach) : Mach :=
  m.command r 0x80 fun c m =>
    let l := c.p 0 % 8
    if 5 < l then m.badParam r 0
    else
      match m.portConflict l with
      | some d => m.refuse r scBusy d
      | none =>
        let p := m.physPort l
        let s := m.portState p
        if s = psClosed then m.accept r 0
        else if s = psFailed then (m.portEnd p psClosed 0).accept r 0
        else
          let us := bits (c.p 1) 19 0
          let m := m.modEp p fun e => { e with
            ring := some r, drainEnd := some (m.now + (if us = 0 then 100 else us) * 1900) }
          if s = psRetrain then m.begin r else (m.begin r).setPortState p psDraining 0

/-- A packet has been partly sent on a port: its rest is in the port's transmit path. -/
def Mach.sending (m : Mach) (p : Nat) : Bool :=
  m.dev.pkts.any fun (e : Nat × Packet) => e.2.sent != 0 && (m.outPort e.2).any fun o => o.1 == p

/-- PORT_DRAIN_DONE: a draining port whose flits are sent and acknowledged and whose pools are empty reads CLOSED. -/
def effPortDrainDone (p : Nat) (m : Mach) : Mach :=
  if m.portClosing p ∧ m.portHolds p = 0 ∧ m.sending p = false then (m.portEnd p psClosed 0).portReply p scOk 0 0 else m

/-! ### The commands -/

def execPacketTransit (id : Nat) (s : State) := act .run (.packetTransit id) s (effPacketTransit id)
def execFlitReceive (p : Nat) (f : Bytes) (fec : Option Nat) (s : State) :=
  act .run (.flitReceive p f fec) s (effFlitReceive p f fec)
def execNak (p seq : Nat) (s : State) := act .run (.nak p seq) s (effNak p seq)
def execLinkAckDue (p : Nat) (s : State) := act .run (.linkAckDue p) s (effLinkAckDue p)
def execLaneLockLoss (p : Nat) (s : State) := act .run (.laneLockLoss p) s (effLaneLockLoss p)
def execAckTimeout (p : Nat) (s : State) := act .run (.ackTimeout p) s (effAckTimeout p)
def execRetrainAttemptDone (p : Nat) (ok : Bool) (s : State) :=
  act .run (.retrainAttemptDone p ok) s (effRetrainAttemptDone p ok)
def execPortTrainingDone (p : Nat) (s : State) := act .run (.portTrainingDone p) s (effPortTrainingDone p)
def execNoSignal (p : Nat) (s : State) := act .run (.noSignal p) s (effNoSignal p)
def execIdent (p device torus dir versions : Nat) (s : State) :=
  act .run (.ident p device torus dir versions) s (effIdent p device torus dir versions)
def execPortOpen (r : Nat) (s : State) := act .run (.portOpen r) s (effPortOpen r)
def execPortClose (r : Nat) (s : State) := act .run (.portClose r) s (effPortClose r)
def execPortDrainDone (p : Nat) (s : State) := act .run (.portDrainDone p) s (effPortDrainDone p)

end Sys2Proof.Machine
end

