-- ==== Sys2Proof/Machine/Arrivals.lean ====
section
/-! DEFINITION. What reaches a token or a counter, and in which order (R213, R214, R217): operations of this device,
remote signals, waits, loads, stores and tickets, and the host's own accesses to counters. -/

namespace Sys2Proof.Machine
open Sys2Proof

/-! ### Requests at their target (R259, R269, R279, R298) -/

/-- A request that its target may take now: it heads its input pool, is not held, and no earlier request of the unit that
issued it still waits for its effect (R259, R269, R279, R298). A token wait that is held has been taken by its slot. -/
def Mach.request (m : Mach) (id op : Nat) : Option Packet :=
  match ffind m.dev.pkts id with
  | none => none
  | some k =>
    let earlier := m.dev.pkts.any fun (e : Nat × Packet) =>
      e.1 < id && e.2.arrived && e.2.src == k.src && e.2.ctx == k.ctx && e.2.cls == 0 && !(e.2.op == opWait && e.2.taken)
    if k.arrived && k.op == op && !k.taken && !m.pktHeld k && m.pktHead id k && !earlier then some k else none

/-- A target takes a request whose answer comes after `n` accesses. -/
def Mach.takePacket (m : Mach) (id n : Nat) : Mach :=
  match ffind m.dev.pkts id with
  | none => m
  | some k => m.setPacket id { k with taken := true, left := n, data := if k.op = opLoad then zeros k.len else k.data }

/-- The unit of a packet is a signal box, whose accesses must be aligned to their size (Table 10.7). -/
def Packet.misaligned (k : Packet) : Bool := bits k.ctx 7 4 == 4 && (k.addr % k.len != 0)

/-- The station and slot of an offset in token space (R214). -/
def Mach.tokenAt (m : Mach) (off : Nat) : Option (Nat × Nat) :=
  if off < 4096 ∧ off % 4 = 0 ∧ off / 256 < m.stations ∧ off / 4 % 64 < 48 then some (off / 256, off / 4 % 64) else none

/-- The counter of an offset in ticket space (R216). -/
def counterAt (off : Nat) : Option Nat := if off < 1024 ∧ off % 16 = 0 then some (off / 16) else none

/-- A request to token space: the slot, or the outcome that answers it (Table 10.7). -/
def Mach.slotFor (m : Mach) (k : Packet) : Nat ⊕ (Nat × Nat) :=
  if gaSpace k.addr ≠ 2 then .inl ocAddr
  else
    match m.tokenAt (gaOffset k.addr) with
    | none => .inl ocAddr
    | some x => .inr x

/-- The slot that a request names. -/
def Mach.atSlot (m : Mach) (k : Packet) (st t : Nat) : Bool :=
  gaSpace k.addr == 2 && m.tokenAt (gaOffset k.addr) == some (st, t)

/-! ### The order at a token (R213, R214) -/

/-- A re-timing barrier is due: the next slot has begun, its entry is a barrier, and SLOT_BOUNDARY has not come yet. -/
def Mach.barrierDue (m : Mach) : Bool :=
  decide (m.dev.tt.next ≤ m.now) && m.dev.tt.nextSlot.any fun s => (nth {} s.1.entries s.2.1).rebase

/-- The place of an operation of this device among the others: by cycle, then as R214 orders them. -/
def tokKey (o : TokOp) : Nat := ((o.due * 4 + o.kind) * 16 + o.srcSt) * 16 + o.src

/-- An operation of this device for slot t has reached it. One whose job has been stopped reaches it at any time. -/
def Mach.tokReached (m : Mach) (t : Nat) (o : TokOp) : Bool :=
  o.slot == t && (!(m.jobLive o.job) || decide (o.due ≤ ((m.job o.job).map (·.cyc)).getD 0))

/-- A live operation of this device, of one of some kinds, that has reached a slot. -/
def Mach.tokOpAt (m : Mach) (st t : Nat) (kinds : List Nat) : Bool :=
  (m.stn st).tokOps.any fun o => kinds.contains o.kind && m.jobLive o.job && m.tokReached t o

/-- A remote request of an operation that has arrived at a slot, before packet `below`. -/
def Mach.remoteAt (m : Mach) (st t op below : Nat) : Bool :=
  m.dev.pkts.any fun (e : Nat × Packet) => e.1 < below && (m.request e.1 op).any fun k => m.atSlot k st t

/-- What stands before remote operation `id` at a slot (R214): a barrier and on-chip signals; before a wait or a load
also remote signals and on-chip waits, before a load remote waits; and those of its own kind that arrived earlier. -/
def Mach.tokBefore (m : Mach) (st t op id : Nat) : Bool :=
  m.barrierDue || m.tokOpAt st t (if op = opSignal then [0] else [0, 1])
    || m.remoteAt st t opSignal (if op = opSignal then id else m.dev.pktNext)
    || (op != opSignal && m.remoteAt st t opWait (if op = opWait then id else m.dev.pktNext))

/-- What stands before an operation of this device (R214): a barrier, before a wait or TKRD remote signals, and before TKRD
remote waits. -/
def Mach.tokHeld (m : Mach) (st t kind : Nat) : Bool :=
  m.barrierDue || (kind != 0 && m.remoteAt st t opSignal m.dev.pktNext)
    || (kind == 2 && m.remoteAt st t opWait m.dev.pktNext)

/-- Held waits are looked at once no signal or wait of the cycle is outstanding at the slot. -/
def Mach.settleDue (m : Mach) (st t : Nat) : Mach :=
  if m.tokOpAt st t [0, 1] || m.remoteAt st t opSignal m.dev.pktNext || m.remoteAt st t opWait m.dev.pktNext then m
  else m.settleToken st t

/-- TOKEN_OP_ARRIVAL: the first operation, in the order of R214, that has reached a slot takes effect. -/
def effTokenOpArrival (st t : Nat) (m : Mach) : Mach :=
  match leastBy tokKey ((m.stn st).tokOps.filter (m.tokReached t)) with
  | none => m
  | some o =>
    if m.tokHeld st t o.kind then m
    else
      let m := m.modStn st fun s => { s with tokOps := removeFirst (· == o) s.tokOps }
      let x := m.token st t
      let live := m.jobLive o.job
      let lat := m.wakeLatency st o.srcSt o.job
      if o.kind = 0 then
        let m := if x.state == .active && x.owner == o.job && live then m.tokSignal st t o.val false
          else m.stat (Reg.tkSigLost st) 1
        m.settleDue st t
      else if live = false then m
      else if o.kind = 1 then
        let m := if x.state == .poisoned then
            m.sbAnswer o.srcSt o.job Config.tkWake lat { write := false, poisoned := some (t, st, o.job) }
          else
            m.setToken st t { x with
              waiters := x.waiters ++ [{ st := o.srcSt, cursor := o.cursor, k := o.val, consume := !o.flag }] }
        m.settleDue st t
      else
        m.sbAnswer o.srcSt o.job Config.tkWake lat
          { rd := o.rd, val := BitVec.ofNat 64 (if o.flag then nth 0 x.cons o.cursor else x.prod), wakes := false }

/-- REMOTE_TOKEN_SIGNAL. -/
def effRemoteTokenSignal (id : Nat) (m : Mach) : Mach :=
  match m.request id opSignal with
  | none => m
  | some k =>
    match m.slotFor k with
    | .inl c => m.answer id c 0 []
    | .inr (st, t) =>
      if m.tokBefore st t opSignal id then m
      else
        let x := m.token st t
        let gone := x.state == .unassigned || x.state == .idle
        let m := m.tokSignal st t (k.arg.toNat % 2 ^ 32) true
        (m.answer id (if gone then ocToken else ocOk) 0 []).settleDue st t

/-- Remote waits that a station holds. -/
def Mach.remoteWaits (m : Mach) (st : Nat) : Nat :=
  ((List.range 48).map fun t => ((m.token st t).waiters.filter fun w => w.pkt.isSome).length).sum

/-- REMOTE_TOKEN_WAIT: the wait is held at its slot until it is satisfied; a station holds at most 32. A wait that reaches
a POISONED slot is held there too, unanswered (DESIGN CHOICE, log 35). -/
def effRemoteTokenWait (id : Nat) (m : Mach) : Mach :=
  match m.request id opWait with
  | none => m
  | some k =>
    match m.slotFor k with
    | .inl c => m.answer id c 0 []
    | .inr (st, t) =>
      if m.tokBefore st t opWait id then m
      else
        let x := m.token st t
        if x.state == .unassigned || x.state == .idle || decide (32 ≤ m.remoteWaits st) then
          (m.answer id ocToken 0 []).settleDue st t
        else
          let a := k.arg.toNat
          let w : Waiter := { pkt := some id, cursor := bits a 33 32, k := a % 2 ^ 32, consume := !bit a 34 }
          (((m.takePacket id 1).passOn id).setToken st t { x with waiters := x.waiters ++ [w] }).settleDue st t

/-- A remote load of a slot returns its PROD (R214), or the outcome of an UNASSIGNED or IDLE slot. -/
def Mach.loadToken (m : Mach) (id st t : Nat) : Mach :=
  if m.tokBefore st t opLoad id then m
  else
    let x := m.token st t
    if x.state == .unassigned || x.state == .idle then m.answer id ocToken 0 [] else m.answer id ocOk x.prod []

/-! ### The order at a counter (R217, R218) -/

/-- A plain store to a counter: counted where the counter is assigned (R218). -/
def Mach.counterStore (m : Mach) (k v : Nat) : Mach :=
  let m := m.setRaw (Reg.tkoValue k) (v % 2 ^ 64)
  if bit (m.raw (Reg.tkoOwner k)) 12 then m.stat Reg.tkoPlainSt 1 else m

/-- The on-chip requests for a counter that have reached the office. -/
def Mach.ticketsAt (m : Mach) (k : Nat) : List TkoOp :=
  ((List.range 16).flatMap fun st => (m.stn st).tkoOps).filter fun o =>
    o.k == k && (!(m.jobLive o.job) || decide (o.due ≤ ((m.job o.job).map (·.cyc)).getD 0))

/-- TICKET_REQUEST_ARRIVAL: the first on-chip request for a counter that has reached the office is decided: requests of
one cycle in ascending station. Its reply leaves TKO_OP cycles later. -/
def effTicketRequestArrival (k : Nat) (m : Mach) : Mach :=
  match leastBy (fun o => o.due * 16 + o.st) (m.ticketsAt k) with
  | none => m
  | some o =>
    let m := m.modStn o.st fun s => { s with tkoOps := removeFirst (· == o) s.tkoOps }
    if m.jobLive o.job = false then m
    else
      let v := m.raw (Reg.tkoValue k)
      let lat := ((m.job o.job).map fun j => m.lat j Config.tkoOp).getD 0 + m.officeLatency o.st
      let reply : Reply := { rd := o.rd, val := BitVec.ofNat 64 v, ticket := true }
      if o.kind = 0 then (m.setRaw (Reg.tkoValue k) ((v + o.val.toNat) % 2 ^ 64)).sbAnswer o.st o.job Config.tkoOp lat reply
      else if o.kind = 1 then m.sbAnswer o.st o.job Config.tkoOp lat reply
      else m.counterStore k o.val.toNat

/-- A remote request for a counter: a ticket, or a load or store of 4 or 8 bytes that its unit may make. -/
def Mach.counterRequest (m : Mach) (id : Nat) : Option (Nat × Packet) :=
  match ffind m.dev.pkts id with
  | none => none
  | some p =>
    match (if gaSpace p.addr = 3 then counterAt (gaOffset p.addr) else none) with
    | none => none
    | some c =>
      if p.op = opTicket then (m.request id opTicket).map fun k => (c, k)
      else
        let n := if p.op = opStore then p.data.length else p.len
        if (n ≠ 4 ∧ n ≠ 8) ∨ p.misaligned then none
        else if p.op = opLoad ∨ p.op = opStore then (m.request id p.op).map fun k => (c, k)
        else none

/-- What stands before remote request `id` at a counter (R217): on-chip requests, and remote ones that arrived earlier. -/
def Mach.ticketBefore (m : Mach) (k id : Nat) : Bool :=
  (m.ticketsAt k).any (fun o => m.jobLive o.job)
    || m.dev.pkts.any fun (e : Nat × Packet) => e.1 < id && (m.counterRequest e.1).any fun x => x.1 == k

/-- A remote ticket takes the counter's value; a load returns it; a store writes it (R217, R218). -/
def Mach.counterGo (m : Mach) (id c : Nat) (k : Packet) : Mach :=
  if m.ticketBefore c id then m
  else
    let v := m.raw (Reg.tkoValue c)
    if k.op = opTicket then (m.setRaw (Reg.tkoValue c) ((v + k.arg.toNat) % 2 ^ 64)).answer id ocOk v []
    else if k.op = opLoad then m.answer id ocOk v []
    else
      let n := k.data.length
      (m.counterStore c (leNat k.data 0 n + v / 2 ^ (8 * n) * 2 ^ (8 * n))).answer id ocOk 0 []

/-- REMOTE_TICKET_FETCH. -/
def effRemoteTicketFetch (id : Nat) (m : Mach) : Mach :=
  match m.request id opTicket with
  | none => m
  | some k =>
    match m.counterRequest id with
    | none => m.answer id ocAddr 0 []
    | some (c, _) => m.counterGo id c k

/-- The requests that stand before a host's access to a counter are decided (R217): on-chip, then remote. -/
def Mach.settleCounter (m : Mach) (k : Nat) : Mach :=
  let m := (m.ticketsAt k).foldl (fun m _ => effTicketRequestArrival k m) m
  m.dev.pkts.foldl
    (fun m e => match m.counterRequest e.1 with
      | some (c, p) => if c = k then m.counterGo e.1 c p else m
      | none => m) m

/-- TKO_VALUE_WRITE (R217, R222). -/
def effTkoValueWrite (k : Nat) (v : W64) (m : Mach) : Mach :=
  if m.bar0Open (Reg.tkoValue k) = false then m
  else
    let m := m.settleCounter k
    if bit (m.raw (Reg.tkoOwner k)) 12 then m.setBit Reg.tkoStatus 7 else m.setRaw (Reg.tkoValue k) v.toNat

/-! ### The commands -/

def execTokenOpArrival (st t : Nat) (s : State) := act .run (.tokenOpArrival st t) s (effTokenOpArrival st t)
def execRemoteTokenSignal (pkt : Nat) (s : State) := act .run (.remoteTokenSignal pkt) s (effRemoteTokenSignal pkt)
def execRemoteTokenWait (pkt : Nat) (s : State) := act .run (.remoteTokenWait pkt) s (effRemoteTokenWait pkt)
def execTicketRequestArrival (k : Nat) (s : State) :=
  act .run (.ticketRequestArrival k) s (effTicketRequestArrival k)
def execRemoteTicketFetch (pkt : Nat) (s : State) := act .run (.remoteTicketFetch pkt) s (effRemoteTicketFetch pkt)
def execTkoValueWrite (k : Nat) (v : W64) (s : State) := act .run (.tkoValueWrite k v) s (effTkoValueWrite k v)

end Sys2Proof.Machine
end

