-- ==== Sys2Proof/Machine/Clears.lean ====
section
/-! DEFINITION. The clears of statistic counters: writes of 1 to the WO bits of the CNT_CLEAR registers, one row for
each bit (R64, R84, R135, R166, R201, R221, R254, R286, R314, R338, R366, R402, R440). -/

namespace Sys2Proof.Machine
open Sys2Proof

/-- A write of 1 to a clear bit of the register at `o`: COUNT and OVF of the counters become 0, and what is counted in
the same ARCLK cycle is lost (R64). -/
def Mach.clears (m : Mach) (o : Nat) (l : List Nat) : Mach :=
  if m.bar0Open o then (l.foldl (fun m r => m.clearStat r) m).noteClear l else m

/-- CLR_QSEL: Q_SPILLS and Q_BALANCE of the queue that Q_SEL names (Table 7.9). -/
def effQClrQsel (st : Nat) (m : Mach) : Mach :=
  if m.bar0Open (Reg.qCntClear st) then
    let q := m.raw (Reg.qSel st) % 4096
    (m.modQueue st q fun x => { x with spills := 0, balance := 0 }).noteClear [queueClearKey st q]
  else m

/-- MU_CLR_SAT (R64). MU_CNT_CLEAR.CLR_SAT clears MU_SAT_COUNT. -/
def effMuClrSat (st b : Nat) (m : Mach) : Mach := m.clears (Reg.muCntClear st b) [Reg.muSat st b]
/-- MU_CLR_CE (R64). MU_CNT_CLEAR.CLR_CE clears MU_ACC_CE_COUNT. -/
def effMuClrCe (st b : Nat) (m : Mach) : Mach := m.clears (Reg.muCntClear st b) [Reg.muCe st b]
/-- VU_CLR_SAT (R84). VU_NUM_CLEAR.CLR_SAT clears VU_SAT_COUNT. -/
def effVuClrSat (st v : Nat) (m : Mach) : Mach := m.clears (Reg.vuNumClear st v) [Reg.vuSat st v]
/-- VU_CLR_NAN (R84). VU_NUM_CLEAR.CLR_NAN clears VU_NAN_COUNT. -/
def effVuClrNan (st v : Nat) (m : Mach) : Mach := m.clears (Reg.vuNumClear st v) [Reg.vuNan st v]
/-- VU_CLR_AMAX (R84). VU_NUM_CLEAR.CLR_AMAX sets VU_AMAX0 to VU_AMAX3 to +0. -/
def effVuClrAmax (st v : Nat) (m : Mach) : Mach :=
  m.clears (Reg.vuNumClear st v) [Reg.vuAmax st v 0, Reg.vuAmax st v 1, Reg.vuAmax st v 2, Reg.vuAmax st v 3]
/-- SLAB_CLR_CE (R135). BAY_SLAB_CNT_CLEAR.CLR_CE clears BAY_SLAB_CE_COUNT. -/
def effSlabClrCe (st b : Nat) (m : Mach) : Mach := m.clears (Reg.slabCntClear st b) [Reg.slabCe st b]
/-- SLAB_CLR_UE (R135). BAY_SLAB_CNT_CLEAR.CLR_UE clears BAY_SLAB_UE_COUNT. -/
def effSlabClrUe (st b : Nat) (m : Mach) : Mach := m.clears (Reg.slabCntClear st b) [Reg.slabUe st b]
/-- SLAB_CLR_CONF (R135). BAY_SLAB_CNT_CLEAR.CLR_CONF clears all sixteen bank conflict counters. -/
def effSlabClrConf (st b : Nat) (m : Mach) : Mach :=
  m.clears (Reg.slabCntClear st b) ((List.range 16).map (Reg.slabConf st b))
/-- SLAB_CLR_UNSCHED (R135). BAY_SLAB_CNT_CLEAR.CLR_UNSCHED clears BAY_SLAB_UNSCHED. -/
def effSlabClrUnsched (st b : Nat) (m : Mach) : Mach := m.clears (Reg.slabCntClear st b) [Reg.slabUnsched st b]
/-- PT_CLR_OVF (R166). BAY_SW_CNT_CLEAR.CLR_OVF clears BAY_PT_OVERFLOW. -/
def effPtClrOvf (st b : Nat) (m : Mach) : Mach := m.clears (Reg.swCntClear st b) [Reg.ptOverflow st b]
/-- PT_CLR_BADTAG (R166). BAY_SW_CNT_CLEAR.CLR_BADTAG clears BAY_PT_BADTAG. -/
def effPtClrBadtag (st b : Nat) (m : Mach) : Mach := m.clears (Reg.swCntClear st b) [Reg.ptBadtag st b]
/-- Q_CLR_LENERR (R201). Q_CNT_CLEAR.CLR_LENERR clears ST_Q_LENERR. -/
def effQClrLenerr (st : Nat) (m : Mach) : Mach := m.clears (Reg.qCntClear st) [Reg.qLenerr st]
/-- Q_CLR_SAT (R201). Q_CNT_CLEAR.CLR_SAT clears ST_Q_SAT. -/
def effQClrSat (st : Nat) (m : Mach) : Mach := m.clears (Reg.qCntClear st) [Reg.qSat st]
/-- Q_CLR_LEFTOVER (R201). Q_CNT_CLEAR.CLR_LEFTOVER clears ST_Q_LEFTOVER. -/
def effQClrLeftover (st : Nat) (m : Mach) : Mach := m.clears (Reg.qCntClear st) [Reg.qLeftover st]
/-- Q_CLR_REFUSED (R201). Q_CNT_CLEAR.CLR_REFUSED clears ST_Q_REFUSED. -/
def effQClrRefused (st : Nat) (m : Mach) : Mach := m.clears (Reg.qCntClear st) [Reg.qRefused st]
/-- TK_CLR_LOST (R221). TK_CNT_CLEAR.CLR_LOST clears TK_SIG_LOST. -/
def effTkClrLost (st : Nat) (m : Mach) : Mach := m.clears (Reg.tkCntClear st) [Reg.tkSigLost st]
/-- TKO_CLR_PLAIN (R221). TKO_CNT_CLEAR.CLR_PLAIN clears TKO_PLAIN_ST. -/
def effTkoClrPlain (m : Mach) : Mach := m.clears (Reg.tkoCntClear) [Reg.tkoPlainSt]
/-- ME_CLR_MERGED (R254). ST_ME_CNT_CLEAR.CLR_MERGED clears ST_MEe_MERGED of the engines named. -/
def effMeClrMerged (st mask : Nat) (m : Mach) : Mach :=
  m.clears (Reg.meCntClear st) ((maskBits mask 8).map (Reg.meMerged st))
/-- ME_CLR_RLS (R254). ST_ME_CNT_CLEAR.CLR_RLS clears ST_RLS_HITS and ST_RLS_MISSES. -/
def effMeClrRls (st : Nat) (m : Mach) : Mach := m.clears (Reg.meCntClear st) [Reg.rlsHits st, Reg.rlsMisses st]
/-- DM_CLR_CE (R254). DM_CNT_CLEAR.CLR_CE clears DM_CE_COUNT. -/
def effDmClrCe (c : Nat) (m : Mach) : Mach := m.clears (Reg.dmCntClear c) [Reg.dmCe c]
/-- DM_CLR_UE (R254). DM_CNT_CLEAR.CLR_UE clears DM_UE_COUNT. -/
def effDmClrUe (c : Nat) (m : Mach) : Mach := m.clears (Reg.dmCntClear c) [Reg.dmUe c]
/-- DM_CLR_TT (R254). DM_CNT_CLEAR.CLR_TT clears DM_TT_SLIP, DM_UNSCHED and DM_FORCED_REF. -/
def effDmClrTt (c : Nat) (m : Mach) : Mach :=
  m.clears (Reg.dmCntClear c) [Reg.dmTtSlip c, Reg.dmUnsched c, Reg.dmForcedRef c]
/-- EP_CLR_TIMEOUTS (R286). EP_CNT_CLEAR.CLR_TIMEOUTS clears EP_TIMEOUTS. -/
def effEpClrTimeouts (m : Mach) : Mach := m.clears (Reg.epCntClear) [Reg.epTimeouts]
/-- EP_CLR_LATE (R286). EP_CNT_CLEAR.CLR_LATE clears EP_LATE. -/
def effEpClrLate (m : Mach) : Mach := m.clears (Reg.epCntClear) [Reg.epLate]
/-- EP_CLR_TARGET (R286). EP_CNT_CLEAR.CLR_TARGET clears EP_TARGET_ERR. -/
def effEpClrTarget (m : Mach) : Mach := m.clears (Reg.epCntClear) [Reg.epTargetErr]
/-- EP_CLR_ERR (R286). EP_PORT_CNT_CLEAR.CLR_ERR clears a port's FEC, CRC, replay and retrain counters. -/
def effEpClrErr (p : Nat) (m : Mach) : Mach :=
  m.clears (Reg.portCntClear p) [Reg.portFecCorr p, Reg.portFecUncorr p, Reg.portCrcErr p,
    Reg.portReplays p, Reg.portRetrains p]
/-- EP_CLR_DISCARD (R286). EP_PORT_CNT_CLEAR.CLR_DISCARD clears a port's EP_DISCARD. -/
def effEpClrDiscard (p : Nat) (m : Mach) : Mach := m.clears (Reg.portCntClear p) [Reg.portDiscard p]
/-- IL_CLR_REFUSALS (R314). IL_CNT_CLEAR.CLR_REFUSALS clears IL_REFUSALS. -/
def effIlClrRefusals (m : Mach) : Mach := m.clears (Reg.ilCntClear) [Reg.ilRefusals]
/-- TT_CLR_STABLE (R338). TT_CNT_CLEAR.CLR_STABLE clears TT_STABLINGS and TT_RESTORES. -/
def effTtClrStable (m : Mach) : Mach := m.clears (Reg.ttCntClear) [Reg.ttStablings, Reg.ttRestores]
/-- TT_CLR_ABORT (R338). TT_CNT_CLEAR.CLR_ABORT clears TT_ABORTS. -/
def effTtClrAbort (m : Mach) : Mach := m.clears (Reg.ttCntClear) [Reg.ttAborts]
/-- TT_CLR_MISS (R338). TT_CNT_CLEAR.CLR_MISS clears TT_MISSES. -/
def effTtClrMiss (m : Mach) : Mach := m.clears (Reg.ttCntClear) [Reg.ttMisses]
/-- CO_CLR_BAR2 (R366). CO_HIF_CNT_CLEAR.CLR_BAR2 clears CO_BAR2_ERR. -/
def effCoClrBar2 (m : Mach) : Mach := m.clears (Reg.coHifCntClear) [Reg.coBar2Err]
/-- CO_CLR_EVLOST (R366). CO_HIF_CNT_CLEAR.CLR_EVLOST clears CO_EV_LOST. -/
def effCoClrEvlost (m : Mach) : Mach := m.clears (Reg.coHifCntClear) [Reg.evLost]
/-- GANG_CLR_REPAIRS (R402). CO_GANG_CNT_CLEAR.CLR_REPAIRS clears CO_GANG_REPAIRS. -/
def effGangClrRepairs (m : Mach) : Mach := m.clears (Reg.gangCntClear) [Reg.gangRepairs]
/-- GANG_CLR_VOTES (R402). CO_GANG_CNT_CLEAR.CLR_VOTES clears CO_GANG_VOTES. -/
def effGangClrVotes (m : Mach) : Mach := m.clears (Reg.gangCntClear) [Reg.gangVotes]
/-- FAULT_CLR_LOST (R402). CO_FAULT_CNT_CLEAR.CLR_LOST clears CO_FAULT_LOST. -/
def effFaultClrLost (m : Mach) : Mach := m.clears (Reg.faultCntClear) [Reg.faultLost]
/-- FAULT_CLR_DRAIN (R402). CO_FAULT_CNT_CLEAR.CLR_DRAIN clears CO_DRAIN_FORCED. -/
def effFaultClrDrain (m : Mach) : Mach := m.clears (Reg.faultCntClear) [Reg.drainForced]
/-- CDC_CLR_OVERRUNS (R440). CO_CDC_CNT_CLEAR.CLR_OVERRUNS clears CO_CDC_OVERRUNS. -/
def effCdcClrOverruns (m : Mach) : Mach := m.clears (Reg.cdcCntClear) [Reg.cdcOverruns]
/-- CDC_CLR_TIMEOUTS (R440). CO_CDC_CNT_CLEAR.CLR_TIMEOUTS clears CO_CDC_TIMEOUTS. -/
def effCdcClrTimeouts (m : Mach) : Mach := m.clears (Reg.cdcCntClear) [Reg.cdcTimeouts]

/-! ### The commands -/

def execMuClrSat (st b : Nat) (s : State) := act .run (.muClrSat st b) s (effMuClrSat st b)
def execMuClrCe (st b : Nat) (s : State) := act .run (.muClrCe st b) s (effMuClrCe st b)
def execVuClrSat (st v : Nat) (s : State) := act .run (.vuClrSat st v) s (effVuClrSat st v)
def execVuClrNan (st v : Nat) (s : State) := act .run (.vuClrNan st v) s (effVuClrNan st v)
def execVuClrAmax (st v : Nat) (s : State) := act .run (.vuClrAmax st v) s (effVuClrAmax st v)
def execSlabClrCe (st b : Nat) (s : State) := act .run (.slabClrCe st b) s (effSlabClrCe st b)
def execSlabClrUe (st b : Nat) (s : State) := act .run (.slabClrUe st b) s (effSlabClrUe st b)
def execSlabClrConf (st b : Nat) (s : State) := act .run (.slabClrConf st b) s (effSlabClrConf st b)
def execSlabClrUnsched (st b : Nat) (s : State) := act .run (.slabClrUnsched st b) s (effSlabClrUnsched st b)
def execPtClrOvf (st b : Nat) (s : State) := act .run (.ptClrOvf st b) s (effPtClrOvf st b)
def execPtClrBadtag (st b : Nat) (s : State) := act .run (.ptClrBadtag st b) s (effPtClrBadtag st b)
def execQClrLenerr (st : Nat) (s : State) := act .run (.qClrLenerr st) s (effQClrLenerr st)
def execQClrSat (st : Nat) (s : State) := act .run (.qClrSat st) s (effQClrSat st)
def execQClrLeftover (st : Nat) (s : State) := act .run (.qClrLeftover st) s (effQClrLeftover st)
def execQClrRefused (st : Nat) (s : State) := act .run (.qClrRefused st) s (effQClrRefused st)
def execQClrQsel (st : Nat) (s : State) := act .run (.qClrQsel st) s (effQClrQsel st)
def execTkClrLost (st : Nat) (s : State) := act .run (.tkClrLost st) s (effTkClrLost st)
def execTkoClrPlain (s : State) := act .run .tkoClrPlain s effTkoClrPlain
def execMeClrMerged (st mask : Nat) (s : State) := act .run (.meClrMerged st mask) s (effMeClrMerged st mask)
def execMeClrRls (st : Nat) (s : State) := act .run (.meClrRls st) s (effMeClrRls st)
def execDmClrCe (c : Nat) (s : State) := act .run (.dmClrCe c) s (effDmClrCe c)
def execDmClrUe (c : Nat) (s : State) := act .run (.dmClrUe c) s (effDmClrUe c)
def execDmClrTt (c : Nat) (s : State) := act .run (.dmClrTt c) s (effDmClrTt c)
def execEpClrTimeouts (s : State) := act .run .epClrTimeouts s effEpClrTimeouts
def execEpClrLate (s : State) := act .run .epClrLate s effEpClrLate
def execEpClrTarget (s : State) := act .run .epClrTarget s effEpClrTarget
def execEpClrErr (p : Nat) (s : State) := act .run (.epClrErr p) s (effEpClrErr p)
def execEpClrDiscard (p : Nat) (s : State) := act .run (.epClrDiscard p) s (effEpClrDiscard p)
def execIlClrRefusals (s : State) := act .run .ilClrRefusals s effIlClrRefusals
def execTtClrStable (s : State) := act .run .ttClrStable s effTtClrStable
def execTtClrAbort (s : State) := act .run .ttClrAbort s effTtClrAbort
def execTtClrMiss (s : State) := act .run .ttClrMiss s effTtClrMiss
def execCoClrBar2 (s : State) := act .run .coClrBar2 s effCoClrBar2
def execCoClrEvlost (s : State) := act .run .coClrEvlost s effCoClrEvlost
def execGangClrRepairs (s : State) := act .run .gangClrRepairs s effGangClrRepairs
def execGangClrVotes (s : State) := act .run .gangClrVotes s effGangClrVotes
def execFaultClrLost (s : State) := act .run .faultClrLost s effFaultClrLost
def execFaultClrDrain (s : State) := act .run .faultClrDrain s effFaultClrDrain
def execCdcClrOverruns (s : State) := act .run .cdcClrOverruns s effCdcClrOverruns
def execCdcClrTimeouts (s : State) := act .run .cdcClrTimeouts s effCdcClrTimeouts

end Sys2Proof.Machine
end

