-- ==== Sys2Proof/Machine/Security.lean ====
section
/-! DEFINITION. Boot, identity and life cycle (chapter 16): the load deadline, LOAD_FIRMWARE, the owner key slots,
ATTEST and LIFECYCLE_ADVANCE. -/

namespace Sys2Proof.Machine
open Sys2Proof

/-! ### The boot ROM (R403 to R409, R421) -/

/-- STAGE and CAUSE of SEC_BOOT_STATUS. -/
def Mach.bootStage (m : Mach) (stage cause : Nat) : Mach := m.setField Reg.secBootStatus 4 0 (stage + 4 * cause)

/-- The boot ROM records a failure (R409). -/
def Mach.bootFail (m : Mach) (cause : Nat) : Mach := m.bootStage 3 cause

/-- The load deadline has passed with no LOAD_FIRMWARE fetched (R406); 25 × 10⁶ AONCLK cycles are one second. -/
def Mach.deadlinePassed (m : Mach) : Bool :=
  m.dev.boot.rom && !m.dev.boot.fetched && !m.aonLost && bits (m.raw Reg.secBootStatus) 1 0 == 0
    && (m.dev.boot.deadlineFrom.any fun f =>
      let s := bits (m.raw Reg.secBootDeadline) 7 0
      decide (f + 25000000 * (if s = 0 then 256 else s) ≤ m.dev.clk.aon))

/-- BOOT_DEADLINE. -/
def effBootDeadline (m : Mach) : Mach := if m.deadlinePassed then m.bootFail 1 else m

/-- SEC_BOOT_DEADLINE_WRITE: takes effect at once, and where the new deadline has passed it passes in this cycle. -/
def effSecBootDeadlineWrite (v : W32) (m : Mach) : Mach :=
  if m.bar0Open Reg.secBootDeadline then effBootDeadline (m.setRaw Reg.secBootDeadline (v.toNat % 256)) else m

/-- LINK_ENTRY_INTO_L0: the first entry after the reset starts the deadline. -/
def effLinkEntryIntoL0 (m : Mach) : Mach :=
  if m.dev.boot.rom && m.dev.boot.deadlineFrom.isNone then
    { m with dev := { m.dev with boot := { m.dev.boot with deadlineFrom := some m.dev.clk.aon } } }
  else m

/-- Step 2 of Table 16.2: the header, the reserved bytes and the length of a firmware image. -/
def firmwareForm (b : Bytes) (len : Nat) : Bool :=
  let code := leNat b 12 4
  leNat b 0 4 == 0x57464C53 && leNat b 4 2 == 1 && (slice b 6 2).all (· == 0) && (slice b 16 240).all (· == 0)
    && code % 64 == 0 && decide (64 ≤ code) && decide (code ≤ 2 ^ 24) && len == 2848 + code + 4736
    && (slice b (2848 + code + 4691) 45).all (· == 0)

/-- The firmware starts (R408 steps 1 and 2): F is recorded, the outputs are enabled and the reply written. Its start
tests every enabled station and trains the DDR channels (Table 15.10). -/
def Mach.startFirmware (m : Mach) (r : Nat) (b f : Bytes) : Mach :=
  let m := (List.range 16).foldl (fun m w => m.setRaw (Reg.secFwDigest w) (leNat f (4 * w) 4)) m
  let m := m.bootStage 2 0
  let m := { m with dev := { m.dev with boot := { m.dev.boot with
      rom := false, fw := true, fwKey := slice b 256 2592, fwVersion := leNat b 8 4, training := true } } }
  let m := (List.range m.stations).foldl
    (fun m st => (m.setPwr st pwrRunning pwrRunning).modStn st fun s => { s with testDue := some (m.now + 6144) }) m
  m.outputsOn.accept r 0

/-- LOAD_FIRMWARE: the tests of Table 16.2, in order (R407). -/
def effLoadFirmware (r : Nat) (image : HostData) (m : Mach) : Mach :=
  m.hostCommand r 0x10 fun c m =>
    if m.dev.boot.fw then m.refuse r scBadParam 0
    else
      let fail := fun (m : Mach) cause status detail => (m.bootFail cause).refuse r status detail
      match image with
      | none => fail m 5 scBadParam 16
      | some b =>
        if b.length < c.p 1 then fail m 5 scBadParam 16
        else if firmwareForm b (c.p 1) = false then fail m 4 scBadParam 24
        else if sha3 (slice b 256 2592) ≠ m.dev.chip.vkeyDigest then fail m 2 scSignature 0
        else
          let n := 2848 + leNat b 12 4
          let f := sha3 (b.take n)
          if f ≠ slice b n 64 then fail m 3 scSignature 0
          else if Config.mldsaVerify (slice b 256 2592) f (slice b (n + 64) 4627) = false then fail m 3 scSignature 0
          else m.startFirmware r b f

/-! ### Owner key slots (R411, R412, R446) -/

/-- The key staged in SEC_OKEY_STAGE. -/
def Mach.stagedKey (m : Mach) : Bytes := (List.range 648).flatMap fun w => toLe 4 (m.raw (Reg.secOkeyStage w))

/-- Fuses once blown stay blown: what a slot holds after a key is burnt into it. -/
def blow (old key : Bytes) : Bytes := (List.range 2592).map fun i => nth 0 old i ||| nth 0 key i

/-- Sets OP_ERR with its cause. -/
def Mach.secError (m : Mach) (cause : Nat) : Mach := (m.setBit Reg.secStatus 1).setField Reg.secStatus 3 2 cause

/-- A write to SEC_CMD: refused while a burn runs, with both operations, in a state that does not allow the operation,
or for a slot that is already burnt. -/
def Mach.secCommand (m : Mach) (v : Nat) : Mach :=
  let slot := v % 4
  if m.bar0Open Reg.secCmd = false ∨ bits v 3 2 = 0 then m
  else if m.dev.sec.burning.isSome then m.secError 3
  else if bits v 3 2 = 3 then m.secError 0
  else if bit v 2 then
    if m.lifeCycle ≠ 1 then m.secError 0
    else if bit m.dev.chip.burnt slot then m.secError 1
    else { m.setBit Reg.secStatus 0 with
      dev := { m.dev with sec := { m.dev.sec with burning := some (slot, m.stagedKey) } } }
  else if m.lifeCycle ≠ 1 ∧ m.lifeCycle ≠ 2 then m.secError 0
  else { m with dev := { m.dev with chip := { m.dev.chip with revoked := m.dev.chip.revoked ||| 2 ^ slot } } }

/-- BURN, REVOKE: the write that has the bit of the row. -/
def effBurn (v : W32) (m : Mach) : Mach := if bit v.toNat 2 then m.secCommand v.toNat else m
def effRevoke (v : W32) (m : Mach) : Mach := if bit v.toNat 3 then m.secCommand v.toNat else m

/-- BURN_DONE: the stored key is read back and compared; BURNT is blown last (R412, R446). -/
def effBurnDone (m : Mach) : Mach :=
  match m.dev.sec.burning with
  | none => m
  | some (slot, key) =>
    let held := blow (fget [] m.dev.chip.okey slot) key
    let m := m.setField Reg.secStatus 0 0 0
    let good := held == key
    let m := { m with dev := { m.dev with
        sec := { m.dev.sec with burning := none }
        chip := { m.dev.chip with
          okey := fput m.dev.chip.okey slot held
          burnt := if good then m.dev.chip.burnt ||| 2 ^ slot else m.dev.chip.burnt } } }
    if good then m else m.secError 2

/-! ### ATTEST (R415) -/

/-- The nonce of LC_NONCE: the latest draw from the entropy source (R418). -/
def Mach.lcNonce (m : Mach) : Bytes := padTo 64 (Config.entropy m.dev.sec.draws)

/-- A fresh nonce. -/
def Mach.drawNonce (m : Mach) : Mach :=
  { m with dev := { m.dev with sec := { m.dev.sec with draws := m.dev.sec.draws + 1 } } }

/-- Entry of a resident consist in the report. -/
def Mach.attestEntry (m : Mach) (c : Nat) (x : Consist) : Bytes :=
  let flags := pack [(0, 1, b2n x.signed), (1, 1, b2n x.param), (2, 1, b2n x.format3), (3, 1, b2n x.elastic),
    (4, 1, b2n (bit (m.raw Reg.goldenBad) c))]
  toLe 1 c ++ toLe 1 flags ++ zeros 6 ++ padTo 64 x.digest ++ padTo 64 x.partialD

/-- Bytes 0 to 2,847 + 136 × N of the report (Table 16.3). -/
def Mach.attestBody (m : Mach) (nonce key : Bytes) : Bytes :=
  let n := m.dev.consists.length
  let tt := match m.dev.tt.inForce with
    | some t => sha3 (padTo (136 + 32 * t.entries.length) t.raw)
    | none => zeros 64
  toLe 4 0x54535441 ++ toLe 4 (7475 + 136 * n) ++ toLe 1 m.lifeCycle ++ toLe 1 m.dev.chip.stepping ++
    toLe 1 m.stations ++ toLe 1 n ++ toLe 4 m.dev.boot.fwVersion ++ toLe 8 m.dev.chip.dieId.toNat ++ toLe 8 m.now ++
    padTo 64 nonce ++ ((List.range 16).flatMap fun w => toLe 4 (m.raw (Reg.secFwDigest w))) ++ tt ++ zeros 32 ++
    padTo 2592 key ++ m.dev.consists.flatMap fun c => m.attestEntry c.1 c.2

/-- ATTEST. -/
def effAttest (r : Nat) (nonce : HostData) (m : Mach) : Mach :=
  m.hostCommand r 0x90 fun c m =>
    match m.idKey with
    | none => m.refuse r scNotReady 0
    | some key =>
      if c.p 2 < 7475 + 136 * m.dev.consists.length then m.badParam r 2
      else
        match nonce with
        | none => m.badParam r 0
        | some n =>
          let body := m.attestBody n key
          (m.hostWrite (c.p 1) (body ++ m.idSign body)).accept r (7475 + 136 * m.dev.consists.length)

/-! ### LIFECYCLE_ADVANCE (R416 to R419) -/

/-- The keys that may sign a transition, with the SIGNER byte that names each (Table 16.5). -/
def Mach.signerKey (m : Mach) (target signer : Nat) : Option Bytes :=
  if signer = 0 then (if target = 1 ∨ target = 3 then some m.dev.boot.fwKey else none)
  else if 4 < signer ∨ target < 2 then none
  else if bit m.dev.chip.burnt (signer - 1) && !bit m.dev.chip.revoked (signer - 1) then
    some (fget [] m.dev.chip.okey (signer - 1))
  else none

/-- The fields and the signature of an authorisation record. -/
def Mach.authorised (m : Mach) (target : Nat) (b : Bytes) : Bool :=
  b.length == 4736 && leNat b 0 4 == 0x4354434C && leNat b 4 1 == target && leNat b 6 2 == 0
    && leNat b 8 8 == m.dev.chip.dieId.toNat && slice b 16 64 == m.lcNonce && (slice b 4707 29).all (· == 0)
    && ((m.signerKey target (leNat b 5 1)).any fun k => Config.mldsaVerify k (b.take 80) (slice b 80 4627))

/-- The lowest job that is queued, running or stabled. -/
def Mach.anyJob (m : Mach) : Option Nat := (m.dev.jobs.find? fun (e : Nat × Job) => e.2.phase != .ended).map (·.1)

/-- Every Ermus port closes at once with cause RESET (R285). -/
def Mach.closePorts (m : Mach) : Mach := (List.range 8).foldl (fun m p => m.portEnd p psClosed 6) m

/-- LIFECYCLE_ADVANCE: the refusals of R418 in order, then steps 1 to 3 of R419. The reset of the Control Office domain
that it owes carries out steps 4 to 6 (log 26). The nonce is drawn afresh either way. -/
def effLifecycleAdvance (r : Nat) (record : HostData) (m : Mach) : Mach :=
  m.hostCommand r 0xA0 fun c m =>
    let now := m.lifeCycle
    let target := c.p 0 % 4
    let m' := m.drawNonce
    match m.anyJob, m.dev.boot.lcTarget with
    | some h, _ => m'.refuse r scBusy (busyDetail 0x40 0 h)
    | none, some t => m'.refuse r scBusy (busyDetail 0xA0 0 t)
    | none, none =>
      if !((now == 0 && target == 1) || (now == 1 && target == 2) || ((now == 1 || now == 2) && target == 3)) then
        m'.badParam r 0
      else
        match record with
        | none => m'.badParam r 1
        | some b =>
          if m.authorised target b = false then m'.refuse r scSignature 0
          else
            let m := (m'.accept r 0).closePorts.setBit Reg.secBootStatus 5
            { m with dev := { m.dev with boot := { m.dev.boot with
                lcTarget := some target, owed := m.dev.boot.owed ++ [(3, 0)] } } }

/-! ### The commands -/

def execBootDeadline (s : State) := act .run .bootDeadline s effBootDeadline
def execSecBootDeadlineWrite (v : W32) (s : State) := act .run (.secBootDeadlineWrite v) s (effSecBootDeadlineWrite v)
def execLinkEntryIntoL0 (s : State) := act .run .linkEntryIntoL0 s effLinkEntryIntoL0
def execLoadFirmware (r : Nat) (b : HostData) (s : State) := act .run (.loadFirmware r b) s (effLoadFirmware r b)
def execBurn (v : W32) (s : State) := act .run (.burn v) s (effBurn v)
def execBurnDone (s : State) := act .run .burnDone s effBurnDone
def execRevoke (v : W32) (s : State) := act .run (.revoke v) s (effRevoke v)
def execAttest (r : Nat) (n : HostData) (s : State) := act .run (.attest r n) s (effAttest r n)
def execLifecycleAdvance (r : Nat) (b : HostData) (s : State) :=
  act .run (.lifecycleAdvance r b) s (effLifecycleAdvance r b)

end Sys2Proof.Machine
end

