-- ==== Sys2Proof/Machine/Commands.lean ====
section
/-! DEFINITION. Commands on the device as a whole (chapters 13 and 15): NEGOTIATE, IDENTIFY, DUMP_TOKENS, the maintenance
activities and their exclusions, SAMPLE_SCRATCHPAD, WIPE; PCIe configuration requests, and the answers to the device's own
host reads. -/

namespace Sys2Proof.Machine
open Sys2Proof

/-! ### NEGOTIATE, IDENTIFY, DUMP_TOKENS (R219, R350, R351) -/

/-- The versions of the interface (Table 13.12). -/
def ifVersions : List Nat := [0x200, 0x201, 0x202, 0x203, 0x300, 0x301]

/-- NEGOTIATE: the highest version that the host's range and Table 13.12 share. -/
def effNegotiate (r : Nat) (m : Mach) : Mach :=
  m.command r 1 fun c m =>
    let lo := bits (c.p 0) 15 0
    let hi := bits (c.p 0) 31 16
    match m.anyJob with
    | some h => m.refuse r scBusy (busyDetail 0x40 0 h)
    | none =>
      match (ifVersions.filter fun v => decide (lo ≤ v) && decide (v ≤ hi)).getLast? with
      | none => m.refuse r scVersion 0
      | some v => (m.setRaw Reg.coIfVersion v).accept r v

/-- The IDENTIFY record (Table 13.8). -/
def Mach.identifyRecord (m : Mach) : Bytes :=
  let d := m.dev
  toLe 1 m.stations ++ toLe 1 d.chip.stepping ++ toLe 1 (b2n d.boot.fw) ++ toLe 1 m.lifeCycle
    ++ toLe 4 (if d.boot.fw then d.boot.fwVersion else 0) ++ toLe 2 m.version ++ toLe 2 0x30F ++ zeros 4
    ++ toLe 8 m.capacity ++ toLe 4 (m.raw Reg.epDeviceId) ++ zeros 36 ++ padTo 64 ((m.idKey.map sha3).getD [])

/-- IDENTIFY. -/
def effIdentify (r : Nat) (m : Mach) : Mach :=
  m.hostCommand r 2 fun c m =>
    if c.p 0 % 8 ≠ 0 then m.badParam r 0
    else (m.hostWrite (c.p 0) m.identifyRecord).accept r (m.stations + 256 * m.dev.chip.stepping)

/-- The stations of a mask, and whether all of them are enabled. -/
def Mach.maskOk (m : Mach) (mask : Nat) : Bool := mask < 2 ^ m.stations

/-- DUMP_TOKENS. -/
def effDumpTokens (r : Nat) (m : Mach) : Mach :=
  m.hostCommand r 0x50 fun c m =>
    if m.maskOk (c.p 0) = false then m.badParam r 0
    else if c.p 1 % 32 ≠ 0 then m.badParam r 1
    else
      let sts := maskBits (c.p 0) 16
      let data := sts.flatMap fun st => (List.range 48).flatMap fun t => m.slotRecord st t
      (m.hostWrite (c.p 1) data).accept r (48 * sts.length)

/-! ### Exclusions (R393, R394, Table 15.8) -/

/-- Whether a DDR range holds a 4 KiB granule of a channel. -/
def touches (lo hi c : Nat) : Bool :=
  (List.range 17).any fun i => decide (lo / 4096 + i < (hi + 4095) / 4096) && (lo / 4096 + i) % 16 == c && decide (lo < hi)

/-- The DDR range that a sample writes. -/
def Sampling.range (s : Sampling) : Nat × Nat := (s.dest, s.dest + 256 * s.bytes * popCount s.mask 16)

/-- The DETAIL that names a maintenance activity in progress. -/
def Activity.detail (a : Activity) : Nat := busyDetail 0x60 a.code a.target

/-- Whether two activities of Table 13.11 exclude each other (Table 15.8). -/
def Activity.excludes (a b : Activity) : Bool :=
  match a.code, b.code with
  | 1, 1 => true
  | 2, 2 | 3, 3 => a.target &&& b.target != 0
  | 3, 4 => bit a.target b.target
  | 4, 3 => bit b.target a.target
  | 4, 4 => a.target / 4 == b.target / 4
  | 5, 5 => a.target == b.target
  | _, _ => false

/-- The DETAIL of the activity that refuses a DDR retrain of channel `c` to start, or a range to be written. -/
def Mach.sampleOn (m : Mach) (p : Sampling → Bool) : Option Nat :=
  (m.dev.samples.find? fun (e : Nat × Sampling) => p e.2).map fun (e : Nat × Sampling) => busyDetail 0x62 0 e.2.mask

/-- The DDR retrain that touches a range. -/
def Mach.retrainOn (m : Mach) (lo hi : Nat) : Option Nat :=
  (m.dev.maint.find? fun a => a.code == 4 && touches lo hi a.target).map Activity.detail

/-- The lowest job that is queued, running or stabled with a DDR window of its consist in a range (R381). -/
def Mach.windowJob (m : Mach) (lo hi : Nat) : Option Nat :=
  (m.dev.jobs.find? fun (e : Nat × Job) =>
    e.2.phase != .ended && ((m.consist e.2.consist).any fun c => c.regions.any fun q =>
      q.ddrSize != 0 && decide (lo < c.base + q.ddrBase + q.ddrSize) && decide (c.base + q.ddrBase < hi))).map (·.1)

/-! ### START_MAINTENANCE and STOP_MAINTENANCE -/

/-- Whether an activity and its target are those of Table 13.11: none, or the refusal. -/
def Mach.maintBad (m : Mach) (r code target : Nat) : Option Mach :=
  if code < 1 ∨ 5 < code then some (m.badParam r 0)
  else
    let ok := match code with
      | 1 => target == 0
      | 2 => m.maskOk target
      | 3 => true
      | 4 => decide (target < 16)
      | _ => decide (target < 6)
    if ok then none else some (m.badField r 0 16)

/-- A region whose partial load is in progress, over which the ganger passes (R393). -/
def Mach.loadingRegion (m : Mach) (c region : Nat) : Bool :=
  m.dev.load.any fun x => x.partialLoad && x.consist == c && x.target == region

/-- The frames that a pass of the ganger checks, in order (R390): consist × 2³³ + stage × 2³² + frame. Stage 0 takes the
REG, TABLE and QDESC frames of consists installed on a station, stage 1 every frame of a golden copy. -/
def Mach.gangFrames (m : Mach) : List Nat :=
  let installed := fun (c : Nat) => m.dev.stn.any fun (e : Nat × Station) =>
    let on := fun (h : Nat) => (m.job h).any fun j => j.consist == c
    e.2.job.any on || (e.2.prev.any fun p => on p.job) || (e.2.standby.any on)
  let stage : Nat → (Nat → Consist → Frame → Bool) → List Nat := fun s p =>
    m.dev.consists.flatMap fun (c : Nat × Consist) =>
      ((List.range c.2.frames.length).filter fun i =>
          let f := nth {} c.2.frames i
          p c.1 c.2 f && !m.loadingRegion c.1 f.region).map fun i =>
        c.1 * 2 ^ 33 + s * 2 ^ 32 + i
  stage 0 (fun c _ f => installed c && decide (f.kind ≤ 2) && f.on m.dev.chip.grade) ++ stage 1 (fun _ _ _ => true)

/-- The place of a frame in the order of a pass. -/
def gangOrder (x : Nat) : Nat := (x / 2 ^ 32 % 2) * 2 ^ 40 + x / 2 ^ 33 * 2 ^ 33 + x % 2 ^ 32

/-- Cycles between two frames. -/
def gangInterval (v : Nat) : Nat := if v % 65536 = 0 then 65536 else v % 65536

/-- Configuration scrub starts: all twelve copies take the Control Office's values, and a new pass begins (R392). -/
def Mach.gangStart (m : Mach) : Mach :=
  let fs := m.gangFrames
  let g := m.dev.gang
  let cur := nth 0 fs 0
  let n := fs.length
  let m := (m.setField Reg.gangStatus 1 1 0).setField Reg.gangStatus 0 0 1
  { m with dev := { m.dev with gang := { g with
      enable := [1, 1, 1], interval := [g.wantInterval, g.wantInterval, g.wantInterval], cursor := [cur, cur, cur]
      total := [n, n, n], counted := 0, expect := n, next := m.now + gangInterval g.wantInterval } } }

/-- Configuration scrub stops at its cursor. -/
def Mach.gangStop (m : Mach) : Mach :=
  { m.setField Reg.gangStatus 0 0 0 with dev := { m.dev with gang := { m.dev.gang with
      enable := [0, 0, 0] } } }

/-- The conflict of a maintenance activity that would start: another activity, a sample, a job (R394), or a port command. -/
def Mach.maintConflict (m : Mach) (a : Activity) : Option Nat :=
  match m.dev.maint.find? a.excludes with
  | some b => some b.detail
  | none =>
    if a.code = 5 then m.portConflict a.target
    else if a.code = 4 then
      match (m.ch a.target).job with
      | some h => some (busyDetail 0x40 0 h)
      | none => m.sampleOn fun s => touches s.range.1 s.range.2 a.target
    else none

/-- What the start of an activity does. -/
def Mach.maintStart (m : Mach) (a : Activity) : Mach :=
  if (a.code = 2 ∨ a.code = 3) ∧ a.target = 0 then m else
  let noted := fun (m : Mach) => ({ m with dev := { m.dev with maint := m.dev.maint ++ [a] } } : Mach)
  match a.code with
  | 1 => (noted m).gangStart
  | 2 => (maskBits a.target 16).foldl (fun m st => m.modStn st fun s => { s with scrubOn := true, scrubNext := m.now }) (noted m)
  | 3 => (maskBits a.target 16).foldl (fun m c => m.modCh c fun x => { x with scrubOn := true, scrubNext := m.now }) (noted m)
  | 4 =>
    if (m.ch a.target).service = svReorder then
      ((noted m).modCh a.target fun x => { x with service := svOffline, retrain := some m.now }).flagRunning fgUnschedDdr
    else m
  | _ =>
    let p := m.physPort a.target
    if m.portState p = psUp then (noted m).startRetrain p else m

/-- START_MAINTENANCE (R393, R394). -/
def effStartMaintenance (r : Nat) (m : Mach) : Mach :=
  m.command r 0x60 fun c m =>
    let a : Activity := { code := bits (c.p 0) 7 0, target := bits (c.p 0) 31 16 }
    match m.maintBad r a.code a.target with
    | some m => m
    | none =>
      match m.maintConflict a with
      | some d => m.refuse r scBusy d
      | none => (m.maintStart a).accept r 0

/-- The activities that go on when targets of a scrub are stopped. -/
def maintLeft (l : List Activity) (code mask : Nat) : List Activity :=
  l.filterMap fun a =>
    if a.code ≠ code then some a
    else
      let t := a.target - (a.target &&& mask)
      if t = 0 then none else some { a with target := t }

/-- STOP_MAINTENANCE: a scrub stops at its cursor; a retrain completes (R394). -/
def effStopMaintenance (r : Nat) (m : Mach) : Mach :=
  m.command r 0x61 fun c m =>
    let code := bits (c.p 0) 7 0
    let target := bits (c.p 0) 31 16
    match m.maintBad r code target with
    | some m => m
    | none =>
      let m := match code with
        | 1 =>
          let m : Mach := { m with dev := { m.dev with maint := m.dev.maint.filter fun a => a.code != 1 } }
          if bit (m.raw Reg.gangStatus) 0 then m.gangStop else m
        | 2 =>
          (maskBits target 16).foldl (fun m st => m.modStn st fun s => { s with scrubOn := false })
            { m with dev := { m.dev with maint := maintLeft m.dev.maint 2 target } }
        | 3 =>
          (maskBits target 16).foldl (fun m c => m.modCh c fun x => { x with scrubOn := false })
            { m with dev := { m.dev with maint := maintLeft m.dev.maint 3 target } }
        | _ => m
      m.accept r 0

/-! ### SAMPLE_SCRATCHPAD (R399) -/

/-- SAMPLE_SCRATCHPAD. -/
def effSampleScratchpad (r : Nat) (m : Mach) : Mach :=
  m.command r 0x62 fun c m =>
    let mask := c.p 0
    let first := bits (c.p 1) 19 0
    let bytes := if bits (c.p 1) 39 20 = 0 then 4096 else bits (c.p 1) 39 20
    let s : Sampling := { mask := mask, first := first, bytes := bytes, dest := c.p 2
                          left := 256 * popCount mask 16 * (bytes / 128) }
    let (lo, hi) := s.range
    if m.maskOk mask = false then m.badParam r 0
    else if first % 128 ≠ 0 then m.badParam r 1
    else if bytes % 128 ≠ 0 ∨ slabSize < first + bytes then m.badField r 1 20
    else if s.dest % 4096 ≠ 0 ∨ m.ddrReachable lo (hi - lo) = false then m.badParam r 2
    else
      let busy := ((m.windowJob lo hi).map (busyDetail 0x40 0)).orElse fun _ =>
        (m.retrainOn lo hi).orElse fun _ => m.sampleOn fun t =>
          t.mask &&& mask != 0 || (decide (lo < t.range.2) && decide (t.range.1 < hi))
      match busy with
      | some d => m.refuse r scBusy d
      | none =>
        if s.left = 0 then m.accept r 0
        else
          let m := { m with dev := { m.dev with samples := fput m.dev.samples r s } }
          (maskBits mask 16).foldl (fun m st => (List.range 256).foldl (fun m b => m.samplePost r st b first) m) (m.begin r)

/-! ### WIPE (R381) -/

/-- WIPE. -/
def effWipe (r : Nat) (m : Mach) : Mach :=
  m.command r 0xB0 fun c m =>
    let all := c.p 0 = 1
    let lo := if all then 0 else c.p 1
    let hi := if all then m.depotBase else c.p 1 + c.p 2
    if !all ∧ c.p 1 % 65536 ≠ 0 then m.badParam r 1
    else if !all ∧ c.p 2 % 65536 ≠ 0 then m.badParam r 2
    else if !all ∧ m.ddrReachable lo (c.p 2) = false then m.badParam r (if m.depotBase < c.p 1 then 1 else 2)
    else
      let busy := ((m.windowJob lo hi).map (busyDetail 0x40 0)).orElse fun _ =>
        (m.retrainOn lo hi).orElse fun _ => m.sampleOn fun t => decide (lo < t.range.2) && decide (t.range.1 < hi)
      match busy with
      | some d => m.refuse r scBusy d
      | none => (m.ddrWipe lo hi).accept r 0

/-! ### PCIe configuration (R341, R403) -/

/-- Device ID of a grade. -/
def pciDevice (grade : Nat) : Nat := 0x5A12 - grade

/-- What a configuration word holds: the values of R341, the command register's enables, the BARs of Table 13.2, and the
MSI-X control word; everything else is not the spec's (log 9). -/
def Mach.configRead (m : Mach) (k : Nat) : Nat :=
  let held := (ffind m.dev.host.cfg k).map (·.toNat)
  let kept := held.getD 0
  match k with
  | 0 => 0x1F5C + pciDevice m.dev.chip.grade * 2 ^ 16
  | 1 => (Config.configWord 1).toNat / 2 ^ 16 * 2 ^ 16 + kept
  | 2 => m.dev.chip.stepping + 0x120000 * 2 ^ 8
  | 4 => kept + 4
  | 6 => 0xC
  | 8 => kept + 4
  | 5 | 7 | 9 => kept
  | 0x2C => 0x11 + bits (Config.configWord 0x2C).toNat 15 8 * 2 ^ 8 + 63 * 2 ^ 16 + kept
  | _ => held.getD (Config.configWord k).toNat

/-- The bits of a configuration word that take a write; none for a word whose layout is not the spec's. -/
def configMask (k : Nat) : Option Nat :=
  match k with
  | 0 | 2 | 6 => some 0
  | 1 => some 0x546
  | 4 => some 0xFC000000
  | 7 => some 0xFFFFFFF0
  | 8 => some 0xFF000000
  | 5 | 9 => some 0xFFFFFFFF
  | 0x2C => some 0xC0000000
  | _ => none

/-- The vectors that were pending go out once nothing masks them (R365). -/
def Mach.msixFlush (m : Mach) : Mach :=
  (maskBits m.dev.host.msixPend 64).foldl
    (fun m v =>
      { m with dev := { m.dev with host := { m.dev.host with msixPend := setBits m.dev.host.msixPend v v 0 } } }.msix v) m

/-- PCIE_CONFIG_REQUEST: read or write of a configuration word. Setting Bus Master Enable lets held outputs go. -/
def effPcieConfigRequest (write : Bool) (k : Nat) (v : W32) (m : Mach) : Mach :=
  if m.dev.clk.hclkOn = false then m
  else if write = false then m.emit (.config (BitVec.ofNat 32 (m.configRead k)))
  else
    let (x, m) := match configMask k with
      | some mask => (v &&& BitVec.ofNat 32 mask, m)
      | none => let (w, m) := m.freeVal; (w.truncate 32, m)
    let m : Mach := { m with dev := { m.dev with host := { m.dev.host with cfg := fput m.dev.host.cfg k x } } }
    if k = 1 then m.flushHeld else if k = msixControl then m.msixFlush else m

/-! ### Host reads of engines (R232, R339) -/

/-- A read to host memory ends with its line, or unsuccessfully. -/
def Mach.hostReadEnd (m : Mach) (tag : Nat) (data : HostData) : Mach :=
  match ffind m.dev.host.reads tag with
  | none => m
  | some (st, e, p) =>
    let m : Mach := { m with dev := { m.dev with host := { m.dev.host with reads := fdel m.dev.host.reads tag } } }
    m.inEngine st e fun m =>
      match ffind (m.engine st e).pieces p, data.filter fun b => b.length == 128 with
      | none, _ => m
      | some y, some b => (m.engData st e p (y.src / 128 * 128) b m.now true).engPump st e
      | some _, none => m.engPieceFail (m.engine st e).job st e p causeHost

/-- HOST_READ_COMPLETION. -/
def effHostReadCompletion (tag : Nat) (data : HostData) (m : Mach) : Mach := m.hostReadEnd tag data

/-- COMPLETION_TIMEOUT. -/
def effCompletionTimeout (tag : Nat) (m : Mach) : Mach := m.hostReadEnd tag none

/-! ### The commands -/

def execNegotiate (r : Nat) (s : State) := act .run (.negotiate r) s (effNegotiate r)
def execIdentify (r : Nat) (s : State) := act .run (.identify r) s (effIdentify r)
def execDumpTokens (r : Nat) (s : State) := act .run (.dumpTokens r) s (effDumpTokens r)
def execStartMaintenance (r : Nat) (s : State) := act .run (.startMaintenance r) s (effStartMaintenance r)
def execStopMaintenance (r : Nat) (s : State) := act .run (.stopMaintenance r) s (effStopMaintenance r)
def execSampleScratchpad (r : Nat) (s : State) := act .run (.sampleScratchpad r) s (effSampleScratchpad r)
def execWipe (r : Nat) (s : State) := act .run (.wipe r) s (effWipe r)
def execPcieConfigRequest (w : Bool) (k : Nat) (v : W32) (s : State) :=
  act .run (.pcieConfigRequest w k v) s (effPcieConfigRequest w k v)
def execHostReadCompletion (tag : Nat) (b : HostData) (s : State) :=
  act .run (.hostReadCompletion tag b) s (effHostReadCompletion tag b)
def execCompletionTimeout (tag : Nat) (s : State) := act .run (.completionTimeout tag) s (effCompletionTimeout tag)

end Sys2Proof.Machine
end

