-- ==== Sys2Proof/Machine/Ganger.lean ====
section
/-! DEFINITION. Configuration scrub (R389 to R392): the ganger's triplets, the frames of a pass, and repair. -/

namespace Sys2Proof.Machine
open Sys2Proof

/-! ### The triplets (R391, R392) -/

/-- The copies of triplet k (Table 15.7). -/
def Ganger.triplet (g : Ganger) (k : Nat) : List Nat :=
  match k with
  | 0 => g.enable
  | 1 => g.interval
  | 2 => g.cursor
  | _ => g.total

/-- Writes all three copies of triplet k. -/
def Ganger.setTriplet (g : Ganger) (k v : Nat) : Ganger :=
  match k with
  | 0 => { g with enable := [v, v, v] }
  | 1 => { g with interval := [v, v, v] }
  | 2 => { g with cursor := [v, v, v] }
  | _ => { g with total := [v, v, v] }

/-- No two copies agree; one copy disagrees with the others. -/
def allDiffer (l : List Nat) : Bool :=
  nth 0 l 0 != nth 0 l 1 && nth 0 l 1 != nth 0 l 2 && nth 0 l 0 != nth 0 l 2
def oneDiffers (l : List Nat) : Bool := !allDiffer l && !(nth 0 l 0 == nth 0 l 1 && nth 0 l 1 == nth 0 l 2)

def Mach.setGang (m : Mach) (g : Ganger) : Mach := { m with dev := { m.dev with gang := g } }

/-- The self-check fails on a triplet: the ganger stops (R392). -/
def Mach.gangFail (m : Mach) (k value : Nat) : Mach :=
  let m := m.fault 13 { cls := 12, sub := k } none (value % 2 ^ 32)
  let m := ((m.setField Reg.gangStatus 0 0 0).setField Reg.gangStatus 1 1 1).setField Reg.gangStatus 4 3 k
  { m with dev := { m.dev with maint := m.dev.maint.filter fun a => a.code != 1 } }

/-- One read of a triplet: a single copy that disagrees is rewritten. -/
def Mach.gangVote (m : Mach) (k : Nat) : Mach :=
  if oneDiffers (m.dev.gang.triplet k) then
    (m.setGang (m.dev.gang.setTriplet k (voted (m.dev.gang.triplet k)))).stat Reg.gangVotes 1
  else m

/-! ### Checking a frame (R389, R390) -/

/-- The planes of a station that hold frame i of consist c, each with its job: the active plane, that of the job that
still ends, and the standby plane, once the frame has been written there. -/
def Mach.planesOf (m : Mach) (st c i region : Nat) : List (Bool × Nat) :=
  let s := m.stn st
  let on := fun (h : Nat) => (m.job h).any fun j => j.consist == c
  let written := fun (h : Nat) =>
    ((m.job h).bind (·.install)).all (fun y => !y.frames.contains i)
      && (m.consist c).all fun x => !bit x.regInv region
  let now_ := (s.job.toList.filter fun h => on h && written h).map fun h => (m.jobPlane st h, h)
  let old := (s.prev.toList.filter fun p => on p.job).map fun p => (p.plane, p.job)
  let new := (s.standby.toList.filter fun h => s.job != some h && on h && written h).map fun h => (m.jobPlane st h, h)
  now_ ++ old ++ new

/-- Whether a plane of a station holds what a frame gives it. -/
def Mach.holds (m : Mach) (f : Frame) (st : Nat) (plane : Bool) : Bool :=
  (f.words st).all fun w => w.mask == 0 || m.planeWord (planeKey st plane w.kind w.idx) &&& w.mask == w.value

/-- Stage 0: a frame is compared with every plane that it was written to, and written again where it differs, unless its
golden copy cannot be used for repair (R389). -/
def Mach.gangPlanes (m : Mach) (c i : Nat) (f : Frame) : Mach :=
  (m.frameStations f).foldl
    (fun m st => (m.planesOf st c i f.region).foldl
      (fun m p =>
        if m.holds f st p.1 ∨ m.goldenIsBad c then m
        else if m.goldenFails ((m.consist c).getD {}) i then m.configUpset { cls := 12 } c f.index
        else
          let m := (f.words st).foldl (fun m w => m.plant st p.1 w) m
          let m := m.stat Reg.gangRepairs 1
          let m := m.event { addr := Reg.gangRepairs, bit := 0, info := m.raw Reg.gangRepairs % 2 ^ 32 }
          if (m.job p.2).any (fun j => j.phase == .running) then m.flagJob p.2 fgRepaired else m) m) m

/-- One frame, in the stage that the cursor names. -/
def Mach.gangCheck (m : Mach) (x : Nat) : Mach :=
  let c := x / 2 ^ 33
  let i := x % 2 ^ 32
  match (m.consist c).bind fun k => k.frames[i]? with
  | none => m
  | some f =>
    if x / 2 ^ 32 % 2 = 0 then m.gangPlanes c i f
    else
      let k := (m.consist c).getD {}
      let bad := m.goldenFails k i
      let m := m.depotRead (m.goldenAt k i) 1064
      if bad then m.configUpset { cls := 12 } c f.index else m

/-- The frames that the Control Office expects in the pass; TOTAL follows when loads change them. -/
def Mach.gangExpect (m : Mach) (n : Nat) : Mach :=
  if m.dev.gang.expect = n then m else m.setGang { m.dev.gang.setTriplet 3 n with expect := n }

/-- The end of a pass: the voted values against the Control Office's own, then a new pass. -/
def Mach.gangPass (m : Mach) (frames : List Nat) : Mach :=
  let m := m.count Reg.gangPasses 1
  let g := m.dev.gang
  if voted g.enable ≠ 1 then m.gangFail 0 (voted g.enable)
  else if voted g.interval ≠ g.wantInterval then m.gangFail 1 (voted g.interval)
  else if voted g.total ≠ g.counted then m.gangFail 3 (voted g.total)
  else (m.setGang { g.setTriplet 2 (nth 0 frames 0) with counted := 0 }).gangExpect frames.length

/-- GANGER_FRAME_CHECK: every INTERVAL cycles the ganger reads its registers, checks the frame at the cursor, and goes on
to the next. A pass over no frames stands still (log 28). -/
def effGangerFrameCheck (m : Mach) : Mach :=
  let g := m.dev.gang
  if bit (m.raw Reg.gangStatus) 0 = false ∨ m.now < g.next then m
  else
    match (List.range 4).find? fun k => allDiffer (g.triplet k) with
    | some k =>
      let (v, m) := m.freeVal
      m.gangFail k v.toNat
    | none =>
      let m := (List.range 4).foldl Mach.gangVote m
      let m := m.setGang { m.dev.gang with next := m.now + gangInterval (voted m.dev.gang.interval) }
      let frames := m.gangFrames
      let at_ := gangOrder (voted m.dev.gang.cursor)
      if frames.isEmpty then m
      else
        match frames.find? fun x => at_ ≤ gangOrder x with
        | none => (m.gangExpect m.dev.gang.counted).gangPass frames
        | some x =>
          let left := frames.filter fun y => gangOrder x < gangOrder y
          let m := m.setGang { m.dev.gang with counted := m.dev.gang.counted + 1 }
          let m := (m.gangExpect (m.dev.gang.counted + left.length)).gangCheck x
          if bit (m.raw Reg.gangStatus) 0 = false then m
          else
            match left with
            | y :: _ => m.setGang (m.dev.gang.setTriplet 2 y)
            | [] => m.gangPass m.gangFrames

def execGangerFrameCheck (s : State) := act .run .gangerFrameCheck s effGangerFrameCheck

end Sys2Proof.Machine
end

