-- ==== Sys2Proof/Machine/Jobs.lean ====
section
/-! DEFINITION. Jobs from submission to their end (R322 to R330, R355 to R357, R373 to R376, R385, R387): SUBMIT_JOB,
CANCEL_JOB, the start at consist time 0, the STOP and MILEPOST instructions, and the end of a job. -/

namespace Sys2Proof.Machine
open Sys2Proof

/-- What follows when a job ends or has been stabled: attachment, leave points, the fill, parking. -/
def Mach.jobsChanged (m : Mach) : Mach := m.attach.revisit.fill.parkAll

/-! ### SUBMIT_JOB (R355) -/

/-- SUBMIT_JOB. `args` is the argument block as the read of host memory brings it. -/
def effSubmitJob (r : Nat) (args : HostData) (m : Mach) : Mach :=
  m.hostCommand r 0x40 fun c m =>
    let w := c.p 0
    let mode1 := bit w 8
    let sign := bit w 9
    let vec := bits w 25 20
    if (m.consist (bits w 5 0)).isNone then m.badParam r 0
    else if (mode1 || sign) && decide (m.version < 0x301) then m.badField r 0 8
    else if sign && (mode1 || m.idKey.isNone) then m.badField r 0 8
    else if mode1 && decide (239 < bits w 18 11) then m.badField r 0 11
    else if (if mode1 then c.p 2 % 4096 else c.p 2 % 128) ≠ 0 then m.badParam r 2
    else if mode1 && (c.p 3 = 0 || decide (65280 < c.p 3)) then m.badParam r 3
    else if c.p 4 ≠ 0 ∧ (args.getD []).length < 64 then m.badParam r 4
    else
      let win := if mode1 then some (bits w 18 11) else none
      match win.filter fun k => (m.window k).busy with
      | some k => m.refuse r scBusy (busyDetail 0x40 0 (m.window k).job)
      | none =>
        match lowest 4096 fun h => (m.job h).isNone with
        | none => m.refuse r scBusy (busyDetail 0x40 0 (((leastBy (fun (e : Nat × Job) => e.2.seq) m.dev.jobs).map (·.1)).getD 0))
        | some h =>
          let block := if c.p 4 = 0 then [] else (args.getD []).take 64
          let seq := m.raw Reg.coSeqNext
          let rt := bit w 6
          let j : Job :=
            { consist := bits w 5 0, rt := rt, abortOk := bit w 7 && !rt, window := win, countersign := sign
              recPhase := bit w 10, vector := if bit w 19 then some vec else none, deadline := c.p 1, result := c.p 2
              winLen := c.p 3, args := (List.range 8).map fun i => BitVec.ofNat 64 (leNat block (8 * i) 8)
              argBytes := block, seq := seq }
          let m := (m.setRaw Reg.coSeqNext (seq + 1)).setJob h j
          let m := match win with
            | some k => m.setWindow k { status := scNotReady, job := h, seq := seq, winLen := c.p 3, result := c.p 2, busy := true }
            | none => m
          m.attach.revisit.reply r scOk seq h

/-! ### CANCEL_JOB (R387, Table 12.5) -/

/-- A stabled job is discarded. -/
def Mach.discardStabled (m : Mach) (h : Nat) (j : Job) : Mach :=
  let m := match m.consist j.consist with
    | some c => (m.tokensEnd c h).setConsist j.consist { c with saved := none }
    | none => m
  let m := { m with dev := { m.dev with
      stn := m.dev.stn.map fun (e : Nat × Station) => (e.1, { e.2 with taps := e.2.taps.filter fun t => t.job != h }) } }
  m.finish h { j with arms := [] } scFault

/-- CANCEL_JOB. -/
def effCancelJob (r : Nat) (m : Mach) : Mach :=
  m.command r 0x41 fun c m =>
    let h := c.p 0 % 4096
    match m.job h with
    | none => m.badParam r 0
    | some j =>
      let later := fun (m : Mach) => (m.modJob h fun j => { j with
        cancel := true, rings := j.rings ++ [r], faultAt := if j.fault.isSome ∨ j.cancel then j.faultAt else m.now }).begin r
      match j.phase with
      | .queued | .installing => ((m.cancelWaiting h j).jobsChanged).accept r 0
      | .running | .stopping | .stabling | .restoring => later m
      | .stabled => ((m.discardStabled h j).jobsChanged).accept r 0
      | .finishing | .ended => m.accept r 0

/-! ### The start (R323, R326, R356) -/

/-- CONSIST_TIME_ZERO: in a cycle divisible by 64 a job starts whose installation is complete on every station, whose
stations are free and RUNNING, whose run has begun or whose fill has come, and none of whose channels retrains. -/
def effConsistTimeZero (h : Nat) (m : Mach) : Mach :=
  match m.job h with
  | none => m
  | some j =>
    let c := m.consistOf j
    let done := j.install.any fun y => y.armed && y.frames.isEmpty && y.slab.isEmpty
    let due := if j.rt then
        j.runBegin.any (fun b => decide (b ≤ m.now)) && j.runEnd.any (fun e => decide (m.now < e))
      else j.filled
    let chans := maskBits c.ttMask 16
    if j.phase ≠ .installing ∨ done = false ∨ m.now % 64 ≠ 0 ∨ due = false ∨ c.regInv ≠ 0 ∨ m.stationsRun j = false then m
    else if (m.jobStations j).any fun st => (m.stn st).job != some h || !m.freeFor st h then m
    else if chans.any fun k => (m.ch k).retrain.isSome then m
    else if m.goldenIsBad j.consist then (m.failStart h).jobsChanged
    else
      let overlap := (m.jobStations j).any fun st => (m.stn st).prev.isSome
      let elastic := c.late.any (· != 0)
      let regs : FMap W64 := j.args.zipIdx.map fun a => (a.2 + 1, a.1)
      let late := j.late || (j.rt && j.runBegin.any fun b => decide (roundUp b 64 < m.now))
      let m := m.setJob h { j with
        started := true, phase := .running, cyc := 0, install := none, late := late
        flags := (if elastic then 2 ^ fgElastic else 0) + (if overlap then 2 ^ fgOverlap else 0)
          + (if m.dev.maint.any fun a => a.code == 4 then 2 ^ fgUnschedDdr else 0) }
      let m := m.tokensStart j.consist c h
      let m := chans.foldl (fun m k => m.ddrEnter k h) m
      let m := (m.jobStations j).foldl
        (fun m st => m.modStn st fun s => { s with
          sb := { regs := regs, running := true }, late := [], milesRun := 0, ptSeen := false }) m
      m.revisit

/-! ### Stopping points (R330) -/

/-- STOP: the signal box passes a stopping point, or waits there where stabling is due at it. The last station that passes
gives the consist time of the passage, and the decision is made again while a limit applies (R332). -/
def effSbStop (st : Nat) (m : Mach) : Mach :=
  m.sbRun st 0x38 (fun _ => []) fun h j i m =>
    let c := m.consistOf j
    let k := insImm i % 4096
    if k = 0 ∨ c.stops.length < k then m.sbDone st
    else if j.request = some k then
      let m := (m.modSb st fun s => { s with wait := .stop k }).work st
      if (m.atStop j).isSome then m.preempt h else m
    else
      let m := m.sbNext st (m.cyc st + m.lat j Config.sbAlu)
      let seen := fget 0 j.passing k ||| 2 ^ st
      let m := m.modJob h fun j => { j with passing := fput j.passing k seen }
      if seen = c.stations then
        let m := m.passStop h k
        if (m.leaveLimit j.consist).isSome then m.preempt h else m
      else m

/-! ### Mileposts (R373, R375) -/

/-- MILEPOST: arms every tap of a milepost on the station, once no tap of an earlier arming still folds on one of its
queues. -/
def effSbMilepost (st : Nat) (m : Mach) : Mach :=
  m.sbRun st 0x39 (fun _ => []) fun h j i m =>
    match (m.consistOf j).miles.find? fun d => d.mp == insImm i % 4096 with
    | none => m.sbDone st
    | some d =>
      let mine := d.taps.filter fun t => t.st == st
      match mine.find? fun t => (m.stn st).taps.any fun u => u.queue == t.queue && u.job == h with
      | some t => m.wait (sbUnit st) { cause := 1, empty := some (st * 4096 + t.queue) }
      | none =>
        let n := (m.stn st).milesRun
        let a := (j.arms.find? fun a => a.n == n).getD { n := n, mp := d.mp, role := d.role }
        let a := { a with stations := a.stations ||| 2 ^ st, left := a.left + mine.length }
        let m := m.setJob h { j with arms := (j.arms.filter fun b => b.n != n) ++ [a] }
        let m := m.modStn st fun s => { s with
          milesRun := n + 1
          taps := s.taps ++ mine.map fun t => { queue := t.queue, job := h, inst := n, mp := d.mp, left := t.count } }
        (m.mileClose h n).sbWaited st

/-! ### The units of a job -/

/-- The bays and vector units of a station that hold the plane of its job. -/
def Mach.myBay (m : Mach) (st b : Nat) : Bool := m.bayPlane st b == (m.stn st).plane
def Mach.myVu (m : Mach) (st v : Nat) : Bool := m.vuPlane st v == (m.stn st).plane

/-- The queues of a station's job: those stored at its bays. -/
def Mach.myQueues (m : Mach) (st : Nat) : List Nat :=
  (m.dev.queues.map (·.1)).filterMap fun k =>
    if k / 4096 = st ∧ m.myBay st (m.qBay st (k % 4096)) then some (k % 4096) else none

/-- The keys of a station's bays and vector units that the tables list. -/
def Mach.myMus (m : Mach) (st : Nat) : List Nat :=
  (m.dev.mu.map (·.1)).filterMap fun k => if k / 256 = st ∧ m.myBay st (k % 256) then some (k % 256) else none
def Mach.myVus (m : Mach) (st : Nat) : List Nat :=
  (m.dev.vu.map (·.1)).filterMap fun k => if k / 32 = st ∧ m.myVu st (k % 32) then some (k % 32) else none

/-- The engines that run a list of a job. -/
def Mach.jobEngines (m : Mach) (st h : Nat) : List Nat :=
  (List.range 8).filter fun e => (m.engine st e).busy && (m.engine st e).job == h

/-- Every MU, vector unit and engine of a station's job is idle, with no start pending or on its way. -/
def Mach.unitsIdle (m : Mach) (st h : Nat) : Bool :=
  let sb := (m.stn st).sb
  (m.myMus st).all (fun b => let u := m.muOf st b; u.run.isNone && u.pipe.isEmpty && u.drains.isEmpty)
    && (m.myVus st).all (fun v => let u := m.vuOf st v; u.run.isNone && u.writes.isEmpty)
    && (m.jobEngines st h).isEmpty && sb.starts.isEmpty && sb.pend.isEmpty

/-- The messages that wait at L ports of a station for its job: those of its bays, but for those of the other job's signal
box. -/
def Mach.myOutboxes (m : Mach) (st : Nat) : List (Nat × List OutMsg) :=
  (m.dev.outbox.filter fun e => e.1 / 16384 == st && m.myBay st (e.1 / 64 % 256)).map fun e =>
    (e.1, e.2.filter fun x => x.unit.cls != 4 || (m.stn st).prev.isNone)

/-- A word or a request of the station's job travels: a word is in flight, a message is on its way to be admitted or to be
sent, a combination runs, or a record is being read. -/
def Mach.moving (m : Mach) (st : Nat) : Bool :=
  (m.myQueues st).any (fun q =>
      let x := m.queue st q
      !x.flight.isEmpty || x.comb.isSome || x.sum.isSome || x.unread != 0 || x.reqs.any fun a => !a.arrived)
    || (m.myOutboxes st).any fun e =>
      e.2.any fun x => x.stage == 1 || 3 ≤ x.stage || x.stage == 0 && e.2.all fun y => y.stage != 2

/-- A token or ticket operation of a job is on its way. -/
def Mach.tokMoving (m : Mach) (h : Nat) : Bool :=
  m.dev.stn.any fun e => e.2.tokOps.any (fun o => o.job == h) || e.2.tkoOps.any fun o => o.job == h

/-- A points entry of the station's job can still make a decision. -/
def Mach.pointsActive (m : Mach) (st : Nat) : Bool :=
  let bays := ((m.myQueues st).filter fun q => !(m.queue st q).msgs.isEmpty).map fun q => m.qBay st q
  bays.eraseDups.any fun b => (List.range 16).any fun e =>
    let d := m.ptDesc st b e
    let held := fun q => !(m.queue st q).msgs.isEmpty
    let data := if d.mode = 1 then held d.dataQ && held (d.dataQ + 1)
      else if d.mode = 2 then held d.dataQ
      else (List.range d.routes).any fun r => held (d.dataQ + r)
    d.mode != 0 && held d.ctlQ && data && ((ffind m.dev.waits (waitKey (ptUnit st b e))).all fun w => w.full.isNone)

/-- A store to a slab that a job has made has not been served. -/
def Mach.storesWait (m : Mach) (h : Nat) : Bool :=
  m.dev.slabPort.any fun e => e.2.reqs.any fun r => r.write && r.job == some h

/-- The stations that a job still has: those that no station reset has taken. -/
def Mach.heldStations (m : Mach) (j : Job) : List Nat := (m.jobStations j).filter fun st => !bit j.lost st

/-! ### JOB_FAULT_STOP (R385) -/

/-- No unit of the station's job waits any longer. -/
def Mach.dropWaits (m : Mach) (st : Nat) : Mach :=
  { m with dev := { m.dev with waits := m.dev.waits.filter fun (e : Nat × WaitRec) => !m.waitMine st e.1 } }

/-- Stops the units of a station's job. Writes that have been issued complete; engines finish what they have issued. -/
def Mach.stopUnits (m : Mach) (h st : Nat) : Mach :=
  m.inJob st h fun m =>
    let m := (m.myMus st).foldl (fun m b => m.muHalt st b) m
    let m := (m.myVus st).foldl (fun m v => m.vuHalt st v) m
    let m := (m.jobEngines st h).foldl
      (fun m e => (m.modEngine st e fun x => { x with halted := true }).engRest st e) m
    let m := m.modSb st fun s => { s with
      running := false, wait := .none, starts := [], pend := [], dones := [], replies := [] }
    m.dropWaits st

/-- JOB_FAULT_STOP: in the cycle after the fault that decides a job, or after its cancellation, every unit of it stops. -/
def effJobFaultStop (h : Nat) (m : Mach) : Mach :=
  match m.job h with
  | none => m
  | some j =>
    if j.phase ≠ .running ∨ (j.fault.isNone && !j.cancel) ∨ m.now ≤ j.faultAt then m
    else
      let frozen := if j.frozen then m.now - j.frozenAt else 0
      let m := (m.heldStations j).foldl (fun m st => m.stopUnits h st) m
      m.modJob h fun j => { j with
        phase := .stopping, endCyc := j.cyc, frozen := false, freezeAt := none, stalls := [], spills := []
        frozenCyc := j.frozenCyc + frozen, request := none }

/-! ### JOB_END (R327, R379, R385) -/

/-- Every piece of an engine has been written. -/
def Mach.engDrained (m : Mach) (st e : Nat) : Bool :=
  (m.engine st e).pieces.all fun z => z.2.stage == 3 && decide (z.2.due ≤ m.clock st z.2.arc)

/-- A faulted vector unit of the station's job still has elements to write to a slab (R107). -/
def Mach.vuWrites (m : Mach) (st : Nat) : Bool :=
  (m.myVus st).any fun v =>
    let u := m.vuOf st v
    u.faulted && u.writes.any fun w => w.desc != 0 && (m.streamDesc st v w.desc).kind == 0

/-- A job can end: every program has ended and every unit finished; or its units have been stopped and what they had issued
has drained. -/
def Mach.canEnd (m : Mach) (h : Nat) (j : Job) : Bool :=
  let sts := m.heldStations j
  let quiet := sts.all fun st =>
    let m := m.seenBy st h
    !((m.myQueues st).any fun q => !(m.queue st q).flight.isEmpty)
  if j.phase = .running then
    j.started && j.fault.isNone && !j.cancel && j.spills.isEmpty && quiet && !m.tokMoving h && !m.storesWait h
      && sts.all fun st =>
        let m := m.seenBy st h
        (m.stn st).sb.ended && m.unitsIdle st h && !m.moving st && !m.pointsActive st
  else
    j.phase == .stopping && quiet && !m.storesWait h
      && sts.all fun st =>
        let m := m.seenBy st h
        !m.vuWrites st && (m.jobEngines st h).all fun e => m.engDrained st e

/-- A station is freed of a job: leftover messages are discarded (R199), its units are at rest. -/
def Mach.freeStation (m : Mach) (h : Nat) (leftover : Bool) (st : Nat) : Mach :=
  let m := m.inJob st h fun m =>
    let m : Mach := { m with dev := { m.dev with
        outbox := (m.myOutboxes st).foldl
          (fun (o : FMap (List OutMsg)) (e : Nat × List OutMsg) =>
            let rest := (fget [] o e.1).filter fun x => !e.2.contains x
            if rest.isEmpty then fdel o e.1 else fput o e.1 rest) m.dev.outbox } }
    let held := bit (m.raw (Reg.stFaultStatus st)) 0
    let m := (m.myQueues st).foldl (fun m q => m.refuseRemote st q) m
    let m := (m.myQueues st).foldl (fun m q => if leftover then m.emptyQueue st q else
      let x := m.queue st q
      m.setQueue st q { spills := x.spills, balance := x.balance, empty := x.empty, full := x.full, waves := x.waves }) m
    let m := (m.myMus st).foldl
      (fun m b =>
        let m := m.muHalt st b
        if held then m else m.modMu st b fun u => { u with slots := [], acc := [], accErr := [] }) m
    let m := (m.myVus st).foldl
      (fun m v =>
        let m := m.modVu st v fun u => { u with writes := [], wline := [] }
        let m := m.vuHalt st v
        if held then m else m.modVu st v fun u => { u with comps := [] }) m
    let m := (List.range 8).foldl
      (fun m e => if (m.engine st e).job = h then m.engReset st e else m) m
    let m := { m with dev := { m.dev with
        points := m.dev.points.filter fun (e : Nat × Points) => e.1 / 4096 != st || !m.myBay st (e.1 / 16 % 256) } }
    (m.dropWaits st).modSb st fun s => { s with running := false, wait := .none, starts := [], pend := [], dones := [] }
  m.modStn st fun s => s.leave h

/-- Every station that a job still has is freed, with its requests at slab ports, where those of other devices and of sampling
(order 4) stay, and its reads of DDR; writes that have been issued complete. -/
def Mach.freeStations (m : Mach) (h : Nat) (j : Job) (leftover : Bool) : Mach :=
  let m := (m.heldStations j).foldl (fun m st => m.freeStation h leftover st) m
  { m with dev := { m.dev with
      slabPort := m.dev.slabPort.map fun (e : Nat × SlabPort) =>
        (e.1, { e.2 with reqs := e.2.reqs.filter fun r => r.job != some h || r.order == 4 })
      ddr := m.dev.ddr.map fun (e : Nat × DdrCh) =>
        let keep := fun (l : List DdrReq) => l.filter fun r => r.write || r.job != some h
        (e.1, { e.2 with port := keep e.2.port, served := keep e.2.served, held := keep e.2.held }) } }

/-- The remote reads of a job that has ended stay outstanding for no job: their data go nowhere, and their timers raise no
fault (R385). 4,096 is no job's handle. -/
def Mach.orphanReads (m : Mach) (h : Nat) : Mach :=
  { m with dev := { m.dev with
      rem := m.dev.rem.map fun (e : Nat × RemEntry) =>
        if e.2.job = h && !isWriteOp e.2.op then (e.1, { e.2 with job := 4096 }) else e } }

/-- The channels that serve a job leave timetabled service. -/
def Mach.leaveChannels (m : Mach) (h : Nat) : Mach :=
  (List.range 16).foldl (fun m c => if (m.ch c).job = some h then m.ddrLeave c else m) m

/-- The tap registers of a job are freed. -/
def Mach.freeTaps (m : Mach) (h : Nat) : Mach :=
  { m with dev := { m.dev with
      stn := m.dev.stn.map fun (e : Nat × Station) => (e.1, { e.2 with taps := e.2.taps.filter fun t => t.job != h }) } }

/-- The status of a job that has reached its end (R324, R379, R384, R387). -/
def Mach.endStatus (m : Mach) (j : Job) : Nat :=
  if j.fault.isSome then j.status
  else if j.cancel ∨ j.lost ≠ 0 then scFault
  else if (if j.rt then j.runEnd.any fun e => decide (e < m.now) else decide (j.deadline < m.now)) then scMiss
  else scOk

/-- JOB_END. The points entries of a job that ran to its end are checked (R150); leftover messages are discarded (R199);
its tokens, channels and stations are free; its completion record is owed. -/
def effJobEnd (h : Nat) (m : Mach) : Mach :=
  match m.job h with
  | none => m
  | some j =>
    if m.canEnd h j = false then m
    else
      let m := if j.phase = .stopping then m
        else (m.heldStations j).foldl
          (fun m st => m.inJob st h fun m =>
            let bays := ((m.myQueues st).filter fun q =>
              !(m.queue st q).msgs.isEmpty || !(m.queue st q).siding.isEmpty).map fun q => m.qBay st q
            bays.eraseDups.foldl (fun m b => m.ptCheck h st b) m) m
      let m := match j.request, j.phase with
        | some k, .running => m.decision h ((m.leaveLimit j.consist).bind (·.2)) k 3
        | _, _ => m
      let m := m.freeStations h j true
      let m := ((m.freeTaps h).leaveChannels h).orphanReads h
      let m := match m.consist j.consist with
        | some c => m.tokensEnd c h
        | none => m
      let m := m.modJob h fun j => { j with
        phase := .finishing, status := m.endStatus j, arms := [], rings := [], stalls := [], freezeAt := none, request := none }
      (m.cancelReplies j).jobsChanged

/-- COMPLETION_RECORD: the record of an ended job, once every write of it has taken effect (R357). -/
def effCompletionRecord (h : Nat) (m : Mach) : Mach :=
  match m.job h with
  | none => m
  | some j => if j.phase ≠ .finishing ∨ m.jobWrites h ∨ m.recordCan j = false then m else m.deliver h j

/-! ### The commands -/

def execSubmitJob (r : Nat) (args : HostData) (s : State) := act .run (.submitJob r args) s (effSubmitJob r args)
def execCancelJob (r : Nat) (s : State) := act .run (.cancelJob r) s (effCancelJob r)
def execConsistTimeZero (j : Nat) (s : State) := act .run (.consistTimeZero j) s (effConsistTimeZero j)
def execSbStop (st : Nat) (s : State) := act .run (.sbStop st) s (effSbStop st)
def execSbMilepost (st : Nat) (s : State) := act .run (.sbMilepost st) s (effSbMilepost st)
def execJobFaultStop (j : Nat) (s : State) := act .run (.jobFaultStop j) s (effJobFaultStop j)
def execJobEnd (j : Nat) (s : State) := act .run (.jobEnd j) s (effJobEnd j)
def execCompletionRecord (j : Nat) (s : State) := act .run (.completionRecord j) s (effCompletionRecord j)

end Sys2Proof.Machine
end

