-- ==== Sys2Proof/Machine/Stabling.lean ====
section
/-! DEFINITION. Stabling and restoring (R330, R334 to R337): quiescence at a stopping point, what is saved, and how a job
goes on from it. -/

namespace Sys2Proof.Machine
open Sys2Proof

/-! ### What is saved (Table 12.4) -/

/-- The scratchpad ranges that are saved at a stopping point: the live ranges, and the rings and slab sidings of queues
that hold a byte. First offset and end. -/
def Mach.savedRanges (m : Mach) (j : Job) (k : Nat) : List (Nat × Nat) :=
  let live := ((m.consistOf j).stops.filter fun d => d.k == k).flatMap fun d => d.ranges.flatMap fun r =>
    (List.range (r.bayLast + 1 - r.bayFirst)).map fun i =>
      let o := slabOff r.st (r.bayFirst + i) (128 * r.line)
      (o, o + 128 * r.lines)
  let rings := (m.jobStations j).flatMap fun st => (m.myQueues st).flatMap fun q =>
    let d := m.qdesc st q
    let x := m.queue st q
    if x.msgs.isEmpty && x.siding.isEmpty && x.head == x.tail then []
    else
      (if d.isRing then [(slabOff st d.bay d.base, slabOff st d.bay d.base + d.cap)] else [])
        ++ (if d.sEn && !d.sDdr then [(d.sBase, d.sBase + d.sSize)] else [])
  live ++ rings

/-- Whether a scratchpad offset lies in one of some ranges. -/
def inRanges (rs : List (Nat × Nat)) (a : Nat) : Bool := rs.any fun r => decide (r.1 ≤ a) && decide (a < r.2)

/-- The state of a job that stands at stopping point k. -/
def Mach.saveJob (m : Mach) (j : Job) (k : Nat) : Saved :=
  let sts := m.jobStations j
  let rs := m.savedRanges j k
  { k := k, cyc := j.cyc
    slab := (m.mem.slab.map fun c => (m.cell c.1, c.2)).filter fun c => inRanges rs c.1
    queues := sts.flatMap fun st => (m.myQueues st).map fun q => (st * 4096 + q, m.queue st q)
    accs := sts.flatMap fun st => (m.myMus st).map fun b => (st * 256 + b, ((m.muOf st b).slots, (m.muOf st b).acc))
    comps := sts.flatMap fun st => (m.myVus st).map fun v => (st * 32 + v, (m.vuOf st v).comps)
    points := m.dev.points.filter fun (e : Nat × Points) => sts.contains (e.1 / 4096)
    tokens := (m.consistOf j).tokens.map fun d => (d.st * 48 + d.slot, m.token d.st d.slot)
    boxes := sts.map fun st => (st, m.sb st)
    miles := sts.map fun st => (st, (m.stn st).milesRun) }

/-- The elements in error of a Matrix Unit's accumulator that stabling reads: those of slots that hold a tile. -/
def Mu.savedErrs (u : Mu) : List Nat := (u.accErr.map (·.1)).filter fun k => (u.slot (k / 1024)).state != .free

/-- Stabling reads the accumulators and the saved ranges through their codes: what is corrected is counted (R52, R122; slab
words under SOURCE 0, log 83). -/
def Mach.saveReads (m : Mach) (j : Job) (k : Nat) : Mach :=
  let rs := m.savedRanges j k
  let m := (m.jobStations j).foldl
    (fun m st => (m.myMus st).foldl (fun m b => (m.accCheck st b (m.muOf st b).savedErrs).2) m) m
  (m.dev.slabErr.filter fun e => inRanges rs (m.cell (4 * e.1))).foldl
    (fun m e => let off := m.cell (4 * e.1); m.slabLog (spStn off) (spBay off) (spAddr off) srcSwitch (e.2 != 1)) m

/-- The first uncorrectable word that stabling reads: its unit and address (Table 12.5). -/
def Mach.saveBad (m : Mach) (j : Job) (k : Nat) : Option (UnitRef × Nat) :=
  let rs := m.savedRanges j k
  let slab := (m.dev.slabErr.find? fun e => e.2 == 2 && inRanges rs (m.cell (4 * e.1))).map fun e =>
    (({ cls := 8, sub := 1 } : UnitRef), spAddr (m.cell (4 * e.1)))
  let acc := (m.jobStations j).findSome? fun st => (m.myMus st).findSome? fun b =>
    let u := m.muOf st b
    (u.savedErrs.find? fun k => fget 0 u.accErr k != 1).map fun k => (muUnit st b (k / 1024), 0)
  slab.orElse fun _ => acc

/-! ### Quiescence and stabling -/

/-- QUIESCENCE: every station of a job waits at the stopping point requested, every unit is idle, nothing is in flight, no
remote entry is outstanding. Stabling begins; messages of other devices that wait for room are refused. -/
def effQuiescence (h : Nat) (m : Mach) : Mach :=
  match m.job h with
  | none => m
  | some j =>
    match m.atStop j with
    | none => m
    | some k =>
      let still := (m.jobStations j).all fun st =>
        (m.stn st).prev.isNone && m.unitsIdle st h && !m.moving st && (m.myOutboxes st).all (fun e => e.2.isEmpty)
          && (m.myQueues st).all fun q => (m.queue st q).reqs.all fun a => a.pkt.isSome
      if j.phase ≠ .running ∨ j.fault.isSome ∨ j.cancel ∨ j.frozen ∨ j.spills ≠ [] ∨ still = false ∨ m.tokMoving h ∨ m.storesWait h
          ∨ m.dev.rem.any (fun e => e.2.job == h) then m
      else
        let m := (m.jobStations j).foldl (fun m st => (m.myQueues st).foldl (fun m q => m.refuseRemote st q) m) m
        m.setJob h { j with phase := .stabling, due := m.now + (m.consistOf j).stableTime k }

/-- STABLING_DONE: the job's state is saved and its stations are free. An uncorrectable word ends the job; a cancelled job
is discarded (Table 12.5). -/
def effStablingDone (h : Nat) (m : Mach) : Mach :=
  match m.job h with
  | none => m
  | some j =>
    if j.phase ≠ .stabling then m
    else
      let k := j.request.getD 0
      let c := m.consistOf j
      let bad := m.saveBad j k
      let m := m.saveReads j k
      match bad with
      | some (u, a) =>
        let m := m.fault 1 u (some h) a
        let m := ((m.freeStations h j true).freeTaps h).leaveChannels h
        let m := (m.tokensEnd c h).modJob h fun j => { j with
          phase := .finishing, status := m.endStatus j, endCyc := j.cyc, arms := [], rings := [], request := none }
        (m.cancelReplies j).jobsChanged
      | none =>
        let s := m.saveJob j k
        let m := (m.freeStations h j false).leaveChannels h
        let m := (m.tokensStable c).setConsist j.consist { c with saved := some s }
        let m := m.stat Reg.ttStablings 1
        let j' := { j with phase := .stabled, request := none, limit := none, filled := false, endCyc := j.cyc }
        let m := if j.cancel then ((m.discardStabled h { j' with rings := [] }).cancelReplies j) else m.setJob h j'
        m.jobsChanged

/-! ### Restoring -/

/-- Lines of a stabling area that cannot be read (Table 12.5). -/
def Mach.areaBad (m : Mach) (c : Consist) : Option Nat :=
  m.depotFind (m.depotBase + 65536 * c.stabling.1) (65536 * c.stabling.2) fun k => symbolCode k == 32

/-- Puts the saved state of a job back. -/
def Mach.restoreState (m : Mach) (j : Job) (s : Saved) : Mach :=
  let rs := m.savedRanges j s.k
  let m := { m with dev := { m.dev with queues := s.queues.foldl (fun q (e : Nat × Queue) => fput q e.1 e.2) m.dev.queues } }
  let rs := rs ++ m.savedRanges j s.k
  let m := rs.foldl
    (fun m r => (linesOf r.1 (r.2 - r.1)).foldl (fun m p => m.slabWipe (m.cell p.1) (m.cell p.1 + p.2)) m) m
  let m := s.slab.foldl (fun m c => m.slabWrite (m.cell c.1) [c.2]) m
  let m := s.accs.foldl
    (fun m (e : Nat × (FMap Slot × FMap W32)) =>
      m.modMu (e.1 / 256) (e.1 % 256) fun u => { u with slots := e.2.1, acc := e.2.2, accErr := [] }) m
  let m := s.comps.foldl
    (fun m (e : Nat × FMap (List FtRow)) => m.modVu (e.1 / 32) (e.1 % 32) fun u => { u with comps := e.2 }) m
  let m := { m with dev := { m.dev with points := s.points.foldl (fun q (e : Nat × Points) => fput q e.1 e.2) m.dev.points } }
  s.boxes.foldl
    (fun m (e : Nat × SigBox) => m.modStn e.1 fun x => { x with
      sb := { e.2 with wait := .none, pc := (e.2.pc + 1) % 4096, next := s.cyc }
      milesRun := fget 0 s.miles e.1, late := [] }) m

/-- RESTORE_DONE: a job whose consist is installed again goes on, in a cycle congruent modulo 64 to its consist time, with
the instruction after the stopping point (R336). -/
def effRestoreDone (h : Nat) (m : Mach) : Mach :=
  match m.job h with
  | none => m
  | some j =>
    let c := m.consistOf j
    let done := j.install.any fun y => y.armed && y.frames.isEmpty && y.slab.isEmpty
    match c.saved with
    | none => m
    | some s =>
      if j.phase ≠ .restoring ∨ done = false ∨ c.regInv ≠ 0 ∨ m.stationsRun j = false ∨ m.now % 64 ≠ s.cyc % 64 then m
      else if (m.jobStations j).any fun st =>
          let x := m.stn st
          x.job != some h || x.prev.isSome || x.standby == some h || x.drainDue.isSome || bit (m.raw (Reg.stFaultStatus st)) 0 then m
      else if m.goldenIsBad j.consist then (m.failStart h).jobsChanged
      else
        let bad := m.areaBad c
        let m := m.depotRead (m.depotBase + 65536 * c.stabling.1) (65536 * c.stabling.2)
        match bad with
        | some a =>
          let m := m.fault 9 { cls := 8, sub := 1 } (some h) a
          let m := ((m.freeStations h j true).freeTaps h).leaveChannels h
          let m := (m.tokensEnd c h).setConsist j.consist { c with saved := none }
          let m := m.modJob h fun j => { j with
            phase := .finishing, status := m.endStatus j, arms := [], rings := [], install := none }
          (m.cancelReplies j).jobsChanged
        | none =>
          let m := m.restoreState j s
          let m := (m.setConsist j.consist { c with saved := none }).stat Reg.ttRestores 1
          let m := m.modJob h fun j => { j with
            phase := .running, install := none, cyc := s.cyc, request := none, passed := s.k, passedAt := s.cyc
            passing := fdel j.passing s.k, frozen := false, freezeAt := none, stalls := [], limit := none, quorum := 0
            flags := j.flags ||| 2 ^ fgRestored, faultAt := if j.cancel then m.now else j.faultAt }
          let m := (maskBits c.ttMask 16).foldl (fun m k => m.ddrEnter k h) m
          (m.tokensRestore c s.tokens).revisit

/-! ### The commands -/

def execQuiescence (j : Nat) (s : State) := act .run (.quiescence j) s (effQuiescence j)
def execStablingDone (j : Nat) (s : State) := act .run (.stablingDone j) s (effStablingDone j)
def execRestoreDone (j : Nat) (s : State) := act .run (.restoreDone j) s (effRestoreDone j)

end Sys2Proof.Machine
end

