-- ==== Sys2Proof/Machine/Resets.lean ====
section
/-! DEFINITION. Resets (R377 to R381, R396, R403, R419, R443 to R446): RESET_DOMAIN, the reset of each domain, forced
drains, cold and warm device resets, PERST_N, and the loss of power. -/

namespace Sys2Proof.Machine
open Sys2Proof

def Mach.setBoot (m : Mach) (b : Boot) : Mach := { m with dev := { m.dev with boot := b } }
def Mach.setClk (m : Mach) (c : Clk) : Mach := { m with dev := { m.dev with clk := c } }
def Mach.setChip (m : Mach) (c : Chip) : Mach := { m with dev := { m.dev with chip := c } }

/-- A crossing that had timed out works again. -/
def Mach.crossingBack (m : Mach) (far idx : Nat) : Mach :=
  { m with dev := { m.dev with cdc := { m.dev.cdc with lost := m.dev.cdc.lost.filter (· != (far, idx)) } } }

/-! ### A station (R53, R131, R215, R377, R379) -/

/-- The words that travel on the grid to or from a station. -/
def Mach.gridWords (m : Mach) (st : Nat) : Nat :=
  (m.dev.queues.map fun (e : Nat × Queue) =>
    (e.2.flight.filter fun w => e.1 / 4096 == st || w.unit.st == st).length).sum

/-- The remote entries of a station. -/
def Mach.remOf (m : Mach) (st : Nat) : Nat := (m.dev.rem.filter fun (e : Nat × RemEntry) => e.1 / 65536 == st).length

/-- A station's drain has ended: nothing of it travels on the grid, and no remote entry is outstanding. -/
def Mach.stationDrained (m : Mach) (st : Nat) : Bool := m.gridWords st == 0 && m.remOf st == 0

/-- A station takes no new job, its units stop, and its drain begins (Table 15.9). -/
def Mach.drainStation (m : Mach) (st : Nat) : Mach :=
  let s := m.stn st
  let m := (s.job.toList ++ (s.prev.toList.map (·.job))).foldl
    (fun m h => if (m.job h).any (fun j => j.started) then m.stopUnits h st else m) m
  m.modStn st fun s => { s with drainDue := some (m.now + 1900000) }

/-- The packets that wait for an access to a station's slabs, or for room in its queues. -/
def Mach.waitingPackets (m : Mach) (st : Nat) : List Nat :=
  (m.dev.slabPort.flatMap fun (e : Nat × SlabPort) =>
      if e.1 / 256 = st then e.2.reqs.filterMap fun r => match r.user with | .remote id => some id | _ => none else [])
    ++ m.dev.queues.flatMap fun (e : Nat × Queue) =>
      if e.1 / 4096 = st then e.2.reqs.filterMap fun a => a.pkt else []

/-- The running parts of a station are gone. -/
def Mach.clearStation (m : Mach) (st : Nat) : Mach :=
  let d := m.dev
  { m with dev := { d with
      mu := fkeep d.mu fun k => k / 256 != st
      vu := fkeep d.vu fun k => k / 32 != st
      slabPort := fkeep d.slabPort fun k => k / 256 != st
      queues := fkeep d.queues fun k => k / 4096 != st
      outbox := fkeep d.outbox fun k => k / 16384 != st
      points := fkeep d.points fun k => k / 4096 != st
      eng := (fkeep d.eng fun k => k / 8 != st)
      rls := fkeep d.rls fun k => k / 256 != st
      fills := fkeep d.fills fun k => k / 65536 != st
      rem := fkeep d.rem fun k => k / 65536 != st
      waits := fkeep d.waits fun k => k / 4096 != st
      maint := maintLeft d.maint 2 (2 ^ st) } }

/-- Every register of a station but those of its slabs returns to its Reset value; the stall counters clear. -/
def Mach.resetStationRegs (m : Mach) (st : Nat) : Mach :=
  let m := (m.resetRegs (stBase st) (stBase st + 0x20000)).resetRegs (stBase st + 0x30000) (stBase st + 0x100000)
  (m.resetRegs (stallKey (st * 4096) 0) (stallKey ((st + 1) * 4096) 0)).resetRegs (frozenKey st 0) (frozenKey (st + 1) 0)

/-- What a station reset takes from jobs: one that runs there loses its part; one that is being installed there goes back
to the queue. -/
def Mach.stationJobs (m : Mach) (st : Nat) : Mach :=
  let s := m.stn st
  let hs := (s.job.toList ++ s.prev.toList.map (·.job) ++ s.standby.toList).eraseDups
  hs.foldl
    (fun m h =>
      match m.job h with
      | none => m
      | some j => if j.started && j.phase != .restoring then m.setJob h { j with lost := j.lost ||| 2 ^ st } else m.displace h) m

/-- The reset of a station's domain. Its self-test and wipe follow (R131). Token operations of other stations on their way
to it still arrive (R215). -/
def Mach.stationReset (m : Mach) (st : Nat) : Mach :=
  let m := m.stationJobs st
  let m := (m.waitingPackets st).foldl Mach.dropPacket m
  let m := ((m.tokensReset st).clearStation st).resetStationRegs st
  let m := (m.resetPlanes st).setPwr st pwrRunning pwrRunning
  let ops := (m.stn st).tokOps.filter fun o => o.srcSt != st
  (m.setStn st { testDue := some (m.now + 6144), tokOps := ops }).crossingBack 5 st

/-- STATION_WIPE_DONE: the self-test and the wipe of a station end: every word of its slabs is 0 with a valid code, and
its slab registers take their Reset values, the bank modes of both planes among them. The station is free. -/
def effStationWipeDone (st : Nat) (m : Mach) : Mach :=
  match (m.stn st).testDue with
  | none => m
  | some t =>
    if m.now < t then m
    else
      let m := (m.slabWipe (st * 2 ^ 28) ((st + 1) * 2 ^ 28)).resetRegs (stBase st + 0x20000) (stBase st + 0x30000)
      let m := m.resetPlaneRegs st 0x20000 0x30000
      (m.modStn st fun s => { s with testDue := none }).jobsChanged

/-! ### DDR channel groups, ports and PCIe -/

/-- The reset of a channel group: its channels are offline, requests wait (R251), contents are kept. -/
def Mach.groupReset (m : Mach) (g : Nat) : Mach :=
  let m := m.resetRegs (dmBase (4 * g)) (dmBase (4 * g + 4))
  let m := (List.range 4).foldl
    (fun m i => m.modCh (4 * g + i) fun ch =>
      { service := if ch.service = svUntrained then svUntrained else svOffline
        port := ch.held ++ ch.port, served := ch.served, capacity := ch.capacity, ages := ch.ages, known := ch.known
        retrain := if ch.service = svUntrained then none else some m.now }) m
  (m.setClk { m.dev.clk with dclk := setBits m.dev.clk.dclk g g 0 }).crossingBack 1 g

/-- The reset of a port: it closes at once with cause RESET, and everything it holds is discarded and counted (R379). -/
def Mach.portReset (m : Mach) (p : Nat) : Mach :=
  let m := m.resetRegs (portBase p) (portBase p + 0x10000)
  (m.portEnd p psClosed 6).crossingBack 2 p

/-- The reset of the PCIe domain: the configuration space and the MSI-X table return to their reset values, reads from the
host are gone. Jobs keep running (R379). -/
def Mach.pcieReset (m : Mach) : Mach :=
  let m : Mach := { m with dev := { m.dev with host := { m.dev.host with cfg := [], msix := [], msixPend := 0, bar2 := [] } } }
  (m.setClk { m.dev.clk with hclkOn := true }).crossingBack 3 0

/-- PCIE_HOT_RESET. -/
def effPcieHotReset (m : Mach) : Mach := m.pcieReset

/-! ### The Control Office and the device -/

/-- Everything but the fuses, the always-on domain and PCIe is at its state after reset: the Control Office, every
station, every channel group and every port (R377, R379, R380). DDR modules go into self-refresh, and their contents
outside the depot area are kept (R378). -/
def Mach.resetAll (m : Mach) (boot : Boot) : Mach :=
  let d := m.dev
  let m := if m.capacity = 0 then m else m.ddrWipe m.depotBase m.capacity
  let undef := m.dev.ddrUndef
  let errs := m.dev.ddrErr
  let ports := (List.range 8).map fun p => (p, m.portState p != psClosed || bits (m.raw (Reg.portStatus p)) 5 3 == 6)
  let m := m.resetRegs 0x10 0x18
  let m := m.resetRegs 0x20 0x100
  let m := m.resetRegs 0x168 Reg.sbTemp
  let m := m.resetRegs (Reg.sbTemp + 0x18) Reg.epDeviceId
  let m := m.resetRegs (Reg.epDeviceId + 0xC) secBase
  let m := m.resetRegs (secBase + 0x1000) (secBase + 0x2000)
  let m := m.resetRegs (2 ^ 32) (2 ^ 34)
  let m := m.setField Reg.secBootStatus 4 0 0
  let m := (ports.filter fun x => x.2).foldl (fun m x => m.setField (Reg.portStatus x.1) 5 3 6) m
  let m := (m.slabWipe 0 (2 ^ 32))
  { m with
    log := { m.log with plane := .clear 0 (2 ^ 40) :: m.log.plane }
    dev :=
      { chip := d.chip, sec := d.sec, side := d.side, free := d.free, out := d.out, age := d.age
        ddrUndef := undef, ddrErr := errs, boot := boot
        clk := { d.clk with arclk := 0, dclk := 0, fbclk := 0, selfRefresh := true }
        host := { cfg := d.host.cfg, msix := d.host.msix, msixPend := d.host.msixPend }
        cdc := { lost := d.cdc.lost.filter fun x => x.1 == 3 || x.1 == 4 } } }

/-- The boot ROM runs. In DECOMMISSIONED it records the failure at once (R421). -/
def Mach.bootRom (m : Mach) : Mach := if m.lifeCycle = 3 then m.bootFail 6 else m

/-- The RWS fields and CO_SEQ_NEXT return to their Reset values (R419). -/
def Mach.resetRws (m : Mach) : Mach :=
  let m := (m.resetRegs Reg.coSeqNext (Reg.coSeqNext + 8)).resetRegs Reg.epDeviceId (Reg.epDeviceId + 0xC)
  let m := (m.resetRegs Reg.sbAlertEn (Reg.sbAlertEn + 4)).resetRegs Reg.sbTwarn (Reg.sbTwarn + 4)
  m.resetRegs Reg.secBootDeadline (Reg.secBootDeadline + 4)

/-! ### Life-cycle fuses (R413, R416, R419, R420) -/

/-- Bytes of free values, under the model's counter. -/
def Mach.freeBytes (m : Mach) (n : Nat) : Bytes × Mach :=
  ((List.range n).map (Config.freeByte m.dev.free), { m with dev := { m.dev with free := m.dev.free + 1 } })

/-- What a step to a state blows: its pair of fuses, and the seed: drawn for PROVISIONED, all ones for DECOMMISSIONED. -/
def Mach.stepSeed (m : Mach) (target : Nat) : Option Bytes :=
  if target = 1 then some (padTo 32 (Config.entropy (m.dev.sec.draws + 1)))
  else if target = 3 then some (List.replicate 32 0xFF)
  else none

/-- Bytes that are blown into fuses that hold `old`. -/
def fuseOr (old new : Bytes) : Bytes := (List.range 32).map fun i => nth 0 old i ||| nth 0 new i

/-- Blows the step to a state. -/
def Mach.blowStep (m : Mach) (target : Nat) : Mach :=
  let c := m.dev.chip
  let seed := match m.stepSeed target with
    | some s => some (fuseOr (c.seed.getD []) s)
    | none => c.seed
  let m := if target = 1 then m.drawNonce.drawNonce else m
  m.setChip { c with lcFuse := c.lcFuse ||| (3 * 4 ^ (target - 1)), seed := seed }

/-- A transition is interrupted before its step has been blown with certainty: each of its fuses is blown or not. -/
def Mach.cutStep (m : Mach) : Mach :=
  match m.dev.boot.lcTarget with
  | none => m
  | some target =>
    let c := m.dev.chip
    let whole := m.stepSeed target
    let (v, m) := m.freeVal
    let (mask, m) := m.freeBytes 32
    let m := if target = 1 then m.drawNonce.drawNonce else m
    let seed := match whole with
      | some s => some (fuseOr (c.seed.getD []) ((s.zip mask).map fun x => x.1 &&& x.2))
      | none => c.seed
    m.setChip { c with lcFuse := c.lcFuse ||| (v.toNat % 4 * 4 ^ (target - 1)), seed := seed }

/-- A burn is interrupted: some fuses of its key are blown, BURNT is not (R446). -/
def Mach.cutBurn (m : Mach) : Mach :=
  match m.dev.sec.burning with
  | none => m
  | some (slot, key) =>
    let (mask, m) := m.freeBytes 2592
    let part := (key.zip mask).map fun x => x.1 &&& x.2
    let m := m.setChip { m.dev.chip with okey := fput m.dev.chip.okey slot (blow (fget [] m.dev.chip.okey slot) part) }
    { m with dev := { m.dev with sec := { m.dev.sec with burning := none } } }

/-! ### RESET_DOMAIN (R379, R394, R396) -/

/-- What refuses a reset of a physical port: a command or a retrain in progress at it (R394). -/
def Mach.portBusy (m : Mach) (p : Nat) : Option Nat :=
  match m.logPort p with
  | some l => m.portConflict l
  | none =>
    if (m.ep p).ring.isSome then some (busyDetail 0x80 0 p)
    else if m.dev.boot.owed.contains (2, p) then some (busyDetail 0x70 0 p)
    else none

/-- What refuses a reset of a channel group: a job in timetabled service, a scrub, a retrain, or a sample (R379, R394). -/
def Mach.groupBusy (m : Mach) (g : Nat) : Option Nat :=
  let chans := (List.range 4).map (4 * g + ·)
  match chans.findSome? fun c => (m.ch c).job with
  | some h => some (busyDetail 0x40 0 h)
  | none =>
    match m.dev.maint.find? fun a =>
        (a.code == 3 && chans.any fun c => bit a.target c) || (a.code == 4 && chans.contains a.target) with
    | some a => some a.detail
    | none => m.sampleOn fun s => chans.any fun c => touches s.range.1 s.range.2 c

/-- A reset is owed. -/
def Mach.owe (m : Mach) (kind idx : Nat) : Mach :=
  m.setBoot { m.dev.boot with owed := m.dev.boot.owed ++ [(kind, idx)] }

/-- RESET_DOMAIN: what refuses the reset; then the drain of a station or of all stations, or the reply of the other kinds.
The reset itself is DOMAIN_RESET. -/
def effResetDomain (r : Nat) (m : Mach) : Mach :=
  m.command r 0x70 fun c m =>
    let kind := c.p 0 % 8
    let idx := bits (c.p 0) 15 8
    let limit := match kind with | 0 => m.stations | 1 => 4 | 2 => 8 | _ => 1
    if 4 < kind then m.badParam r 0
    else if limit ≤ idx then m.badField r 0 8
    else if m.dev.boot.owed.contains (kind, idx) ∧ kind ≠ 2 then m
    else
      let busy := match kind with
        | 0 => m.sampleOn fun s => bit s.mask idx
        | 1 => m.groupBusy idx
        | 2 => m.portBusy idx
        | _ => none
      match busy with
      | some d => m.refuse r scBusy d
      | none =>
        match kind with
        | 0 => ((m.drainStation idx).begin r).owe 0 idx
        | 3 => (((List.range m.stations).foldl Mach.drainStation m).begin r).owe 3 0
        | _ => (m.accept r 0).owe kind idx

/-- The ring whose RESET_DOMAIN waits for a drain. -/
def Mach.resetRing (m : Mach) (kind idx : Nat) : Option Nat :=
  (List.range 16).find? fun r => (m.ring r).cmd.any fun c =>
    c.opcode == 0x70 && c.begun && c.p 0 % 8 == kind && bits (c.p 0) 15 8 == idx

/-- The reply of a RESET_DOMAIN whose drain has ended. -/
def Mach.resetReply (m : Mach) (kind idx status detail : Nat) : Mach :=
  match m.resetRing kind idx with
  | some r => m.reply r status detail 0
  | none => m

/-- A reset that was owed takes effect. -/
def Mach.paid (m : Mach) (kind idx : Nat) : Mach :=
  m.setBoot { m.dev.boot with owed := m.dev.boot.owed.filter (· != (kind, idx)) }

/-- DOMAIN_RESET: the reset that is owed. A station's waits for its drain and for its admission, as a wake does (R433). The
reset of the Control Office that a life-cycle transition owes first blows the step (R419). -/
def effDomainReset (kind idx : Nat) (m : Mach) : Mach :=
  if m.dev.boot.owed.contains (kind, idx) = false then m
  else
    match kind with
    | 0 =>
      if m.stationDrained idx = false then m
      else if bits (m.raw Reg.pwrCap) 11 0 < m.pwrAdmitted (some idx) ∨ (List.range idx).any (fun k => (m.stn k).pwrWait) then
        m.setWait idx true
      else ((m.resetReply 0 idx scOk 0).paid 0 idx).stationReset idx
    | 1 => if (List.range 4).any (fun i => (m.ch (4 * idx + i)).job.isSome) then m else (m.paid 1 idx).groupReset idx
    | 2 => (m.paid 2 idx).portReset idx
    | 3 =>
      match m.dev.boot.lcTarget with
      | some target =>
        let m := (m.blowStep target).resetAll { rom := true, deadlineFrom := some m.dev.clk.aon }
        m.resetRws.bootRom
      | none =>
        if (List.range m.stations).all m.stationDrained = false then m
        else ((m.resetReply 3 0 scOk 0).resetAll { rom := true }).bootRom
    | _ => (m.paid 4 0).pcieReset

/-! ### DRAIN_FORCED (R396, Table 15.9) -/

/-- Records a forced drain: the context ID of its record, and the machine with CO_DRAIN_FORCED advanced. -/
def Mach.drainRecord (m : Mach) (u : UnitRef) (job : Option Nat) (n : Nat) : Nat × Mach :=
  (ctxId job u, (m.faultRecord 15 u job n job.isSome false).stat Reg.drainForced 1)

/-- A job on a station that is stopping since more than n cycles. -/
def Mach.stoppingOn (m : Mach) (st n : Nat) : Option Nat :=
  let s := m.stn st
  (s.job.toList ++ s.prev.toList.map (·.job)).find? fun h =>
    (m.job h).any fun j => j.phase == .stopping && decide (j.faultAt + 1 + n ≤ m.now)

/-- A port's drain is forced: it reads CLOSED with cause DRAIN_FORCED. -/
def Mach.forcePort (m : Mach) (p : Nat) : Mach :=
  let n := m.portHolds p
  if n = 0 ∨ !((m.ep p).drainEnd.any fun t => decide (t ≤ m.now)) then m
  else
    let (ctx, m) := m.drainRecord { cls := 10, bay := (m.logPort p).getD 0 } none n
    (m.portEnd p psClosed 7).portReply p scDrain (ctx + n * 2 ^ 32) 0

/-- The drain of a queue is forced: the words that still travel to it and their messages are discarded. -/
def Mach.forceQueue (m : Mach) (h st q : Nat) : Mach :=
  let x := m.queue st q
  if x.flight.isEmpty then m
  else
    let seqs := (x.flight.map (·.seq)).eraseDups
    let (_, m) := m.drainRecord { cls := 2, st := st, bay := m.qBay st q, sub := m.qNet st q } (some h) x.flight.length
    let m := m.stat (Reg.qLeftover st) seqs.length
    m.setQueue st q { x with flight := [], msgs := x.msgs.filter fun y => !seqs.contains y.seq }

/-- The queues of a bay. -/
def Mach.forceQueues (m : Mach) (st b : Nat) : Mach :=
  match m.stoppingOn st 19000 with
  | none => m
  | some h => m.inJob st h fun m => (m.queuesAt st b).foldl (fun m q => m.forceQueue h st q) m

/-- The drain of an engine is forced: its remote entries and pieces are discarded. -/
def Mach.forceEngine (m : Mach) (st e : Nat) : Mach :=
  let acc := bits (m.raw Reg.epTimeoutAcc) 19 0
  match m.stoppingOn st (2 * 1900 * if acc = 0 then 1048576 else acc) with
  | none => m
  | some h =>
    if (m.engine st e).job ≠ h ∨ (m.seenBy st h).engDrained st e then m
    else
      let mine := fun (x : Nat × RemEntry) => x.1 / 65536 == st && x.2.unit == e + 1
      let n := (m.dev.rem.filter mine).length
      let (_, m) := m.drainRecord { cls := 5, st := st, sub := e } (some h) n
      let m : Mach := { m with dev := { m.dev with
          rem := m.dev.rem.filter fun x => !mine x
          host := { m.dev.host with
            reads := m.dev.host.reads.filter fun (x : Nat × (Nat × Nat × Nat)) => !(x.2.1 == st && x.2.2.1 == e)
            heldOut := m.dev.host.heldOut.filter fun x => !(x.st == st && x.eng == e) } } }
      m.engReset st e

/-- The drain of a station is forced: what still travels is discarded, and the reset proceeds. -/
def Mach.forceStation (m : Mach) (st : Nat) : Mach :=
  if m.stationDrained st ∨ !((m.stn st).drainDue.any fun t => decide (t ≤ m.now)) then m
  else
    let n := m.gridWords st + m.remOf st
    let (ctx, m) := m.drainRecord { cls := 8, st := st, sub := 2 } none n
    let m : Mach := { m with dev := { m.dev with
        queues := m.dev.queues.map fun (e : Nat × Queue) =>
          (e.1, { e.2 with flight := e.2.flight.filter fun w => e.1 / 4096 != st && w.unit.st != st })
        rem := fkeep m.dev.rem fun k => k / 65536 != st } }
    let detail := ctx + n * 2 ^ 32
    if m.dev.boot.owed.contains (0, st) then m.resetReply 0 st scDrain detail else m.resetReply 3 0 scDrain detail

/-- DRAIN_FORCED: a drain's limit has passed. `fn` is 0 a port, 1 a queue (`unit` is the home bay), 2 an engine, 3 a
station. -/
def effDrainForced (fn st unit : Nat) (m : Mach) : Mach :=
  match fn with
  | 0 => m.forcePort unit
  | 1 => m.forceQueues st unit
  | 2 => m.forceEngine st unit
  | _ => m.forceStation st

/-! ### Device resets (R378, R403, R443 to R446) -/

/-- WARM_DEVICE_RESET: PERST_N falls while power stays. A life-cycle transition is interrupted (R420). DDR contents are
kept while SYSCLK runs (R444). -/
def effWarmDeviceReset (m : Mach) : Mach :=
  if m.dev.clk.perst then m
  else
    let cap := m.capacity
    let m := (m.cutStep.resetAll {}).pcieReset
    let m := m.setClk { m.dev.clk with perst := true, arclkOn := false, hclkOn := false }
    if m.dev.clk.sysclk then m
    else
      let tag := m.dev.free
      { m with dev := { m.dev with free := tag + 1, ddrUndef := [(0, cap, tag)] } }

/-- PERST_N_DEASSERT: the clocks of the boot ROM start, and it brings up the PCIe link. A thermal trip keeps every clock
but AONCLK stopped (R451). Every pin returns to its function (R452). -/
def effPerstNDeassert (m : Mach) : Mach :=
  if m.dev.clk.perst = false then m
  else
    let on := m.dev.clk.sysclk && !m.dev.clk.tripped
    let m := m.setClk { m.dev.clk with perst := false, arclkOn := on, hclkOn := on, arclk := 0 }
    let m : Mach := { m with dev := { m.dev with side := { m.dev.side with jtag := 0, driving := false } } }
    if on then (m.setBoot { m.dev.boot with rom := true }).bootRom else m

/-- LOSS_OF_POWER: a burn or a life-cycle transition is cut off. -/
def effLossOfPower (m : Mach) : Mach :=
  if m.dev.clk.powered = false then m
  else
    let m := m.cutStep.cutBurn
    (m.setClk { m.dev.clk with powered := false }).setBoot { m.dev.boot with lcTarget := none }

/-- COLD_RESET: power is applied after it was away (R444). The fuses alone are kept; DDR space is wiped, and a nonce is
drawn (R380, R418). -/
def effColdReset (m : Mach) : Mach :=
  let m := effLossOfPower m
  let d := m.dev
  { m with
    log := { slab := [.clear 0 (2 ^ 64)], ddr := [.clear 0 (2 ^ 64)], regs := [.clear 0 (2 ^ 64)], plane := [.clear 0 (2 ^ 64)] }
    dev := { chip := d.chip, sec := { draws := d.sec.draws + 1 }, free := d.free, out := d.out } }

/-- RAIL_EXCURSION: outside PERST_N the device has no defined state from here on (R445). -/
def effRailExcursion (m : Mach) : Mach :=
  if m.dev.clk.perst then m else m.setClk { m.dev.clk with undef := true }

/-! ### The commands -/

def execResetDomain (r : Nat) (s : State) := act .run (.resetDomain r) s (effResetDomain r)
def execDomainReset (k i : Nat) (s : State) := act .run (.domainReset k i) s (effDomainReset k i)
def execStationWipeDone (st : Nat) (s : State) := act .run (.stationWipeDone st) s (effStationWipeDone st)
def execPcieHotReset (s : State) := act .run .pcieHotReset s effPcieHotReset
def execDrainForced (f st u : Nat) (s : State) := act .run (.drainForced f st u) s (effDrainForced f st u)
def execWarmDeviceReset (s : State) := act .aon .warmDeviceReset s effWarmDeviceReset
def execPerstNDeassert (s : State) := act .aon .perstNDeassert s effPerstNDeassert
def execLossOfPower (s : State) := act .always .lossOfPower s effLossOfPower
def execColdReset (s : State) := act .always .coldReset s effColdReset
def execRailExcursion (s : State) := act .aon .railExcursion s effRailExcursion

end Sys2Proof.Machine
end

