-- ==== Sys2Proof/Machine/Crossings.lean ====
section
/-! DEFINITION. Clock crossings (R435 to R439, Table 17.6): merged events, crossings that time out, PLLs that lose lock,
and the loss of SYSCLK. -/

namespace Sys2Proof.Machine
open Sys2Proof

/-- CDC_OVERRUN: a crossing that merged events falls idle, and writes one record with their number (R437). -/
def effCdcOverrun (far idx : Nat) (m : Mach) : Mach :=
  let k := cdcKey far idx
  let n := fget 0 m.dev.cdc.merged k
  if n = 0 ∨ m.now < fget 0 m.dev.cdc.busyTo k then m
  else
    let m := m.fault 11 { cls := 13, bay := far, sub := idx } none n
    { m with dev := { m.dev with cdc := { m.dev.cdc with merged := fdel m.dev.cdc.merged k } } }

/-- Whether a crossing of Table 17.6 is open (R438). -/
def Mach.crossingOpen (m : Mach) (far idx : Nat) : Bool :=
  !m.dev.cdc.lost.contains (far, idx) && match far with
    | 1 => decide (idx < 4) && bit m.dev.clk.dclk idx && (List.range 4).all fun i => (m.ch (4 * idx + i)).retrain.isNone
    | 2 =>
      let s := m.portState idx
      decide (idx < 8) && (s == psTraining || s == psIdent || s == psUp || s == psDraining)
    | 3 => idx == 0 && m.dev.clk.hclkOn
    | 4 => idx == 0
    | _ => decide (idx < m.stations) && decide (pwrWarm ≤ m.pwr idx) && (m.stn idx).testDue.isNone

/-- A crossing stays lost until its recovery. -/
def Mach.crossingLost (m : Mach) (far idx : Nat) : Mach :=
  { m with dev := { m.dev with cdc := { m.dev.cdc with lost := m.dev.cdc.lost ++ [(far, idx)] } } }

/-- CDC_TIMEOUT is raised for the jobs that a crossing concerns, or with NO_JOB where there is none. -/
def Mach.crossingFault (m : Mach) (holds : Option Nat) (far idx addr : Nat) (jobs : List Nat) : Mach :=
  let u : UnitRef := { cls := 13, bay := far, sub := idx }
  match jobs with
  | [] => m.faultHolding holds 10 u none addr
  | hs => hs.foldl (fun m h => m.faultHolding holds 10 u (some h) addr) m

/-- Requests of other devices and of BAR2 at a channel that is lost get their answers. -/
def Mach.lostRequest (m : Mach) (r : DdrReq) : Mach :=
  match r.user with
  | .remote id => m.answer id ocAddr 0 []
  | .bar2 tag =>
    if r.write ∨ (ffind m.dev.host.bar2 tag).isNone then m
    else
      let m : Mach := { m with dev := { m.dev with host := { m.dev.host with bar2 := fdel m.dev.host.bar2 tag } } }
      (m.stat Reg.coBar2Err 1).emit (.bar2 [] false true)
  | _ => m

/-- A request that goes on waiting at a lost channel. -/
def DdrReq.stays (r : DdrReq) : Bool :=
  match r.user with
  | .remote _ | .bar2 _ => false
  | _ => true

/-- DCLK of a channel group has stopped: its channels are offline; jobs with requests there end. -/
def Mach.groupLost (m : Mach) (g addr : Nat) : Mach :=
  let chans := (List.range 4).map (4 * g + ·)
  let reqs := chans.flatMap fun c => (m.ch c).port ++ (m.ch c).served ++ (m.ch c).held
  let m := m.crossingFault none 1 g addr (sortBy id (reqs.filterMap (·.job)).eraseDups)
  let m := chans.foldl
    (fun m c => m.modCh c fun ch => { ch with
      service := if ch.service = svUntrained then svUntrained else svOffline, job := none, recent := []
      port := (ch.held ++ ch.port).filter DdrReq.stays, served := ch.served.filter DdrReq.stays, held := [] }) m
  let m := reqs.foldl Mach.lostRequest m
  (m.setClk { m.dev.clk with dclk := setBits m.dev.clk.dclk g g 0 }).crossingLost 1 g

/-- The outcome of a crossing whose clock has stopped (Table 17.6). -/
def Mach.crossingStopped (m : Mach) (far idx addr : Nat) : Mach :=
  match far with
  | 1 => m.groupLost idx addr
  | 2 => (m.crossingFault none 2 idx addr []).portFails idx 5
  | 3 =>
    let m := (m.crossingFault none 3 0 addr []).pcieReset
    (m.setClk { m.dev.clk with hclkOn := false }).crossingLost 3 0
  | 4 => (m.crossingFault none 4 0 addr []).crossingLost 4 0
  | _ =>
    let s := m.stn idx
    let hs := (s.job.toList ++ s.prev.toList.map (·.job)).filter fun h => (m.job h).any fun j => j.started
    (m.crossingFault (some idx) 5 idx addr hs).crossingLost 5 idx

/-- A crossing times out or loses its clock: CO_CDC_TIMEOUTS advances, and CO_CLK_STATUS records the loss: of a PLL's
lock, or of SYSCLK, with which alone AONCLK stops (R423, R439). -/
def Mach.crossingTimeout (m : Mach) (far idx addr : Nat) : Mach :=
  if m.crossingOpen far idx = false then m
  else
    let m := (m.stat Reg.cdcTimeouts 1).crossingStopped far idx addr
    m.setBit Reg.clkStatus (if far = 4 then 14 else 15)

/-- CDC_TIMEOUT: the far clock of an open crossing has stopped. -/
def effCdcTimeout (far idx : Nat) (m : Mach) : Mach := m.crossingTimeout far idx (2 ^ 32)

/-- PLL_LOCK_LOSS: the near side has seen its own PLL lose lock. AONCLK has no PLL. -/
def effPllLockLoss (far idx : Nat) (m : Mach) : Mach := if far = 4 then m else m.crossingTimeout far idx 0

/-- SYSCLK_LOSS. -/
def effSysclkLoss (m : Mach) : Mach :=
  if m.dev.clk.sysclk then (m.setClk { m.dev.clk with sysclk := false }).setBit Reg.clkStatus 14 else m

/-! ### The commands -/

def execCdcOverrun (far : Nat) (s : State) := act .run (.cdcOverrun far) s (effCdcOverrun (far % 8) (far / 8))
def execCdcTimeout (far idx : Nat) (s : State) := act .run (.cdcTimeout far idx) s (effCdcTimeout far idx)
def execPllLockLoss (far idx : Nat) (s : State) := act .run (.pllLockLoss far idx) s (effPllLockLoss far idx)
def execSysclkLoss (s : State) := act .aon .sysclkLoss s effSysclkLoss

end Sys2Proof.Machine
end

