-- ==== Sys2Proof/Machine/Registers.lean ====
section
/-! DEFINITION. Reads and writes of BAR0 and BAR4 (R8 to R11, R342, R344): what the registers show of the running
parts, the access codes, and the rules that discard host writes. -/

namespace Sys2Proof.Machine
open Sys2Proof

/-- Half of a 64-bit value: the 32 bits at byte offset o modulo 8. -/
def half (v o : Nat) : Nat := v / 2 ^ (8 * (o % 8)) % 2 ^ 32

/-- The 32 bits that the store holds at an offset: a 64-bit register is stored at the offset of its low half. -/
def Mach.word32 (m : Mach) (o : Nat) : Nat := m.raw o % 2 ^ 32 + (if o % 8 = 4 then half (m.raw (o - 4)) o else 0)

/-! ### Topology (R23 to R29) -/

/-- CO_STN_MAPn (Table 1.6). -/
def Mach.stnMapValue (m : Mach) (n : Nat) : Nat :=
  if m.stations ≤ n then 0
  else
    let p := m.position n
    pack [(0, 4, p), (4, 2, p / 4), (6, 3, nth 0 m.dev.chip.physStn n), (31, 1, 1)]

/-- CO_DIE_REPAIRd (Table 1.7). -/
def Mach.dieRepairValue (m : Mach) (d : Nat) : Nat :=
  let serves := (List.range m.stations).foldl
    (fun a n => if m.position n / 4 = d then a ||| 2 ^ nth 0 m.dev.chip.physStn n else a) 0
  pack [(0, 5, serves), (8, 5, nth 0 m.dev.chip.defect d)]

/-- CO_PORT_MAP (Table 1.8). -/
def Mach.portMapValue (m : Mach) : Nat :=
  pack ((m.portMap.zipIdx.map fun e => (3 * e.2, 3, e.1)) ++ [(31, 1, b2n (m.portMap != m.dev.chip.portFuse))])

/-- ST_REPAIR (Table 1.9). -/
def Mach.stRepairValue (m : Mach) (n : Nat) : Nat :=
  let p := m.position n
  pack [(0, 5, nth 16 m.dev.chip.spareRow n), (5, 1, b2n (nth false m.dev.chip.rowFixed n)), (8, 4, p), (12, 2, p / 4),
    (16, 3, nth 0 m.dev.chip.physStn n)]

/-- CO_DIST_DATA for the selection of CO_DIST_SEL: hops, bridge hops, the nominal latency, and the unpadded one, which
the nominal one bounds (R26 to R29). -/
def Mach.distValue (m : Mach) : Nat :=
  let sel := m.raw Reg.coDistSel
  let src := bits sel 3 0
  let kind := bits sel 9 8
  let dst := bits sel 15 12
  let there := match kind with
    | 0 => some (10, nth 0 Config.channelPosition dst, dst)
    | 1 => if dst < 8 then some (12, nth 0 Config.portPosition (m.physPort dst), m.physPort dst) else none
    | 2 => if dst < m.stations then some (8, m.position dst, m.position dst) else none
    | _ => none
  match there with
  | none => 0
  | some (endpoint, p, d) =>
    if m.stations ≤ src then 0
    else
      let q := m.position src
      let nominal := if kind = 2 ∧ dst = src then 0 else gridLatency endpoint q p
      pack [(0, 8, gridHops q p), (8, 8, gridBridges q p), (16, 16, nominal),
        (32, 16, min nominal (Config.unpadded q kind d)), (63, 1, 1)]

/-! ### The Control Office -/

/-- CO_GANG_STATUS with the place of the cursor, which the ganger keeps as consist × 2³³ + stage × 2³² + frame. -/
def Mach.gangStatusValue (m : Mach) : Nat :=
  let c := voted m.dev.gang.cursor
  setBits (m.raw Reg.gangStatus) 11 5 (c / 2 ^ 32 % 2 + 2 * (c / 2 ^ 33))

/-- CO_CLK_STATUS (Table 17.8): a PLL that has no reference is not locked. -/
def Mach.clkStatusValue (m : Mach) : Nat :=
  let k := m.dev.clk
  pack [(0, 1, b2n (k.arclkOn && k.sysclk)), (1, 4, if k.sysclk then k.dclk else 0), (5, 1, b2n (k.hclkOn && k.sysclk)),
    (6, 8, k.fbclk)] + m.raw Reg.clkStatus

/-- CO_PWR_STATUS (Table 17.8). -/
def Mach.pwrStatusValue (m : Mach) : Nat :=
  pack [(0, 12, 240 + ((List.range m.stations).map fun st => pwrFigure (m.pwr st)).sum),
    (13, 1, b2n ((List.range m.stations).any fun st => (m.stn st).pwrWait))] + m.raw Reg.pwrStatus

/-- CFG_ERR_N is low (Table 18.4): until the firmware starts, after a refused full load, and after a thermal trip. -/
def Mach.cfgErrLow (m : Mach) : Bool :=
  m.dev.clk.perst || !m.dev.boot.fw || bit (m.raw Reg.ilStatus) 1 || m.dev.clk.tripped

/-- The sideband registers as they read (Table 18.6), by offset in the block. -/
def Mach.sideValue (m : Mach) (o : Nat) : Nat :=
  if o = 8 then
    m.raw Reg.sbAlert + pack [(3, 1, b2n m.cfgErrLow), (4, 1, b2n m.dev.clk.tripped), (5, 1, bits (m.raw Reg.clkStatus) 14 14)]
  else if o = 0x14 then
    pack [(0, 2, m.lifeCycle), (2, 2, bits (m.raw Reg.secBootStatus) 1 0), (4, 1, b2n m.dev.clk.perst)]
  else if o < 0x14 then m.raw (Reg.sbTemp + o)
  else 0

/-- TKO_STATUS (Table 8.12). -/
def Mach.tkoStatusValue (m : Mach) : Nat :=
  ((List.range 64).filter fun k => bit (m.raw (Reg.tkoOwner k)) 12).length + m.raw Reg.tkoStatus

/-- TT_STATUS (Table 12.9). -/
def Mach.ttStatusValue (m : Mach) : Nat :=
  match m.dev.tt.inForce with
  | none => pack [(1, 1, b2n m.dev.tt.pending.isSome)]
  | some t => pack [(0, 1, 1), (1, 1, b2n m.dev.tt.pending.isSome), (2, 12, m.dev.tt.entry), (14, 13, t.entries.length)]

/-- TT_STNs.STATE of a job on a station: 7 for an installed job whose run has begun and which waits for its start. -/
def Mach.ttJobState (m : Mach) (st h : Nat) (j : Job) : Nat :=
  match j.phase with
  | .queued | .installing =>
    let s := m.stn st
    if s.standby ≠ some h ∨ (s.armed && s.bayWait == 0 && s.vuWait == 0) then
      (if j.runBegin.any (fun b => decide (b ≤ m.now)) then 7 else 1)
    else 1
  | .running => if j.request.isSome then 3 else 2
  | .stabling | .stabled => 4
  | .restoring => 5
  | .stopping | .finishing | .ended => 6

/-- TT_STNs (Table 12.9). A held station names the job whose fault holds it. -/
def Mach.ttStnValue (m : Mach) (st : Nat) : Nat :=
  if m.stations ≤ st then 0
  else
    let s := m.stn st
    let fs := m.raw (Reg.stFaultStatus st)
    let h := if s.job.isSome then s.job else if s.standby.isSome then s.standby else
      if bit fs 0 then some (bits fs 12 1) else none
    match h.bind fun h => (m.job h).map fun j => (h, j) with
    | none => pack [(18, 4, if bit fs 0 then 8 else 0), (31, 1, 1)]
    | some (h, j) =>
      pack [(0, 12, h), (12, 6, j.consist), (18, 4, if bit fs 0 then 8 else m.ttJobState st h j), (22, 1, b2n j.late),
        (31, 1, 1)]

/-- A word of a timetable entry in force. -/
def Mach.ttEntryValue (m : Mach) (o : Nat) : Nat :=
  match m.dev.tt.inForce with
  | none => 0
  | some t => if o / 32 < t.entries.length then leNat t.raw (136 + o) 4 else 0

/-- The resident consist that IL_CSEL names. -/
def Mach.shown (m : Mach) : Option Consist := m.consist (m.raw Reg.ilCsel % 64)

/-- IL_CINFO (Table 11.13). -/
def Mach.cinfoValue (m : Mach) : Nat :=
  match m.shown with
  | none => 0
  | some c =>
    pack [(0, 16, c.stations), (16, 1, 1), (17, 1, b2n c.format3), (18, 1, b2n c.param), (19, 1, b2n c.bankHash),
      (20, 1, b2n c.signed), (21, 1, b2n (c.pad.any (· != 0))), (22, 1, b2n (c.late.any (· != 0))), (23, 7, c.nRegions),
      (32, 32, m.installFrames c)]

/-- IL_LDATA (Table 11.13). -/
def Mach.ldataValue (m : Mach) : Nat :=
  let e := m.raw Reg.ilLsel % 256
  match m.shown with
  | none => 0
  | some c =>
    if 38 < e then 0
    else pack [(0, 16, nth 0 c.decl e), (16, 16, nth 0 c.act e), (32, 8, nth 0 c.pad e), (40, 8, nth 0 c.late e), (63, 1, 1)]

/-- The interlocking registers that show other state (Table 11.13), by offset in the block. -/
def Mach.ilValue (m : Mach) (o : Nat) : Option Nat :=
  if o = 4 then some (m.raw Reg.ilStatus + m.dev.consists.length * 16)
  else if o / 8 = 6 then some (half m.depotFree o)
  else if o / 8 = 8 then some (half ((m.dev.consists.map fun c => 2 ^ c.1).sum) o)
  else if o / 8 = 10 then some (half m.cinfoValue o)
  else if o / 8 = 11 then some (half ((m.shown.map (·.base)).getD 0) o)
  else if o / 8 = 12 then some (half ((m.shown.map (·.regInv)).getD 0) o)
  else if 0x80 ≤ o ∧ o < 0xC0 then some (leNat ((m.shown.map (·.digest)).getD []) (o - 0x80) 4)
  else if o / 8 = 25 then some (half m.ldataValue o)
  else none

/-- The security registers that show fuses, the nonce or the key digest (Table 16.7), by offset in the block. -/
def Mach.secValue (m : Mach) (o : Nat) : Option Nat :=
  if o / 8 = 1 then some (half m.dev.chip.dieId.toNat o)
  else if o = 0x10 then some (m.raw Reg.secStatus + 16 * m.dev.chip.burnt + 256 * m.dev.chip.revoked)
  else if o = 0x18 then some m.lifeCycle
  else if 0x80 ≤ o ∧ o < 0xC0 then some (leNat m.dev.chip.vkeyDigest (o - 0x80) 4)
  else if 0xC0 ≤ o ∧ o < 0x100 then some (leNat ((m.idKey.map sha3).getD []) (o - 0xC0) 4)
  else if 0x200 ≤ o ∧ o < 0x240 then some (leNat m.lcNonce (o - 0x200) 4)
  else if 0x2000 ≤ o ∧ o < 0x6000 then
    let s := o / 0x1000 - 2
    some (if bit m.dev.chip.burnt s then leNat (fget [] m.dev.chip.okey s) (o % 0x1000) 4 else 0)
  else none

/-! ### Stations -/

/-- A consist is loaded on a station (R167). -/
def Mach.stLoaded (m : Mach) (st : Nat) : Bool :=
  let s := m.stn st
  s.job.isSome || s.prev.isSome || s.standby.isSome

/-- ST_STATUS and ST_SB_STATUS (Tables 6.14 and 6.17). -/
def Mach.stStatusValue (m : Mach) (st : Nat) : Nat :=
  pack [(0, 1, b2n (m.stLoaded st)), (1, 1, b2n (m.sb st).running),
    (2, 1, b2n ((m.stnJob st).any fun j => j.2.frozen))] + m.raw (Reg.stStatus st)
def Mach.sbStatusValue (m : Mach) (st : Nat) : Nat :=
  let b := m.sb st
  let w := ffind m.dev.waits (waitKey (sbUnit st))
  pack [(0, 12, b.pc), (12, 1, b2n b.running), (13, 1, b2n b.ended), (14, 1, b2n w.isSome),
    (15, 3, (w.map (·.cause)).getD 0)]

/-- ST_WAVE_STATUS and ST_WAVE_SRC (Tables 6.15 and 6.16). -/
def Mach.waveStatusValue (m : Mach) (st : Nat) : Nat :=
  match m.stnJob st with
  | none => 0
  | some (_, j) =>
    pack [(0, 1, b2n (!j.outstanding.isEmpty && !j.frozen)), (1, 1, b2n j.frozen),
      (2, 3, (j.outstanding.head?.map (·.cause)).getD 0)]
def Mach.waveSrcValue (m : Mach) (st : Nat) : Nat :=
  (((m.stnJob st).bind fun j => j.2.outstanding.head?).map StallReq.source).getD (m.raw (Reg.waveSrc st))

/-- An ST_TBL_SEL value of tables 0 to 3 with the INDEX bits of its packing alone, where it names an entry (Table 6.19;
log 27). -/
def tblEntry (sel : Nat) : Option Nat :=
  match sel % 16 with
  | 0 => some (sel % 2 ^ 18)
  | 1 => if bits sel 13 12 = 3 ∨ 5 < bits sel 16 14 then none else some (sel % 2 ^ 23)
  | 2 => if bits sel 17 16 = 3 then none else some (sel % 2 ^ 18)
  | 3 => some (sel % 2 ^ 16)
  | _ => none

/-- The plane that BAR0 shows of a table's entry: its bay's active plane, or the station's for the program. -/
def Mach.tblPlane (m : Mach) (st sel : Nat) : Bool :=
  if sel % 16 = 3 then (m.stn st).plane else m.bayPlane st (bits sel 11 4)

/-- ST_TBL_DATA for the selection of ST_TBL_SEL (R168, Table 6.19). -/
def Mach.tblValue (m : Mach) (st : Nat) : Nat :=
  let sel := m.raw (Reg.tblSel st)
  match tblEntry sel with
  | some k => m.planeWord (planeKey st (m.tblPlane st sel) kTbl k)
  | none =>
    match sel % 16 with
    | 4 => if bits sel 8 4 = 0 then 0 else (m.sb st).reg (bits sel 8 4)
    | 5 => m.unitStall st (bits sel 7 4) (bits sel 15 8) (bits sel 18 16)
    | 6 =>
      let q := m.queue st (bits sel 15 4)
      match bits sel 17 16 with
      | 0 => q.empty.toNat
      | 1 => q.full.toNat
      | 2 => q.waves.toNat
      | _ => 0
    | _ => 0

/-- Q_STATE (Table 7.11): a request that has arrived waits for room from the cycle of its decision on. -/
def Mach.qStateValue (m : Mach) (st q : Nat) : Nat :=
  let x := m.queue st q
  pack [(0, 32, x.sideUsed), (32, 12, min 4095 (m.heldMsgs st q)), (44, 1, b2n (!x.siding.isEmpty)),
    (45, 1, b2n (x.reqs.any fun a => a.arrived && decide (a.adm ≤ m.clock st a.arc))), (46, 1, b2n (m.dev.waits.any fun e => e.2.empty == some (st * 4096 + q)))]

/-- Q_DATA0 to Q_DATA3, Q_STATE, Q_SPILLS and Q_BALANCE of the queue that Q_SEL names (R201). -/
def Mach.qWindow (m : Mach) (st o : Nat) : Nat :=
  let q := m.raw (Reg.qSel st) % 4096
  let x := m.queue st q
  let v := match (o - 0x110) / 8 with
    | 0 => m.qWord st q 0
    | 1 => x.head % 2 ^ 32 + x.tail % 2 ^ 32 * 2 ^ 32
    | 2 => m.qWord st q 2
    | 3 => m.qWord st q 3
    | 4 => m.qStateValue st q
    | 5 => x.spills.toNat
    | _ => x.balance.toNat
  half v o

/-- TK_STATUS (Table 8.9). -/
def Mach.tkStatusValue (m : Mach) (st : Nat) : Nat :=
  let ts := (List.range 48).map (m.token st)
  let n := fun (p : Token → Bool) => (ts.filter p).length
  pack [(0, 6, n fun t => t.state != .unassigned), (6, 6, n fun t => t.state == .poisoned),
    (12, 6, n fun t => t.state == .stabled), (18, 6, (ts.map fun t => (t.waiters.filter fun w => w.pkt.isSome).length).sum)]

/-- ST_RMT_STATUS (Table 10.20). -/
def Mach.rmtStatusValue (m : Mach) (st : Nat) : Nat :=
  let es := (m.dev.rem.filter fun (e : Nat × RemEntry) => e.1 / 65536 == st).map fun (e : Nat × RemEntry) => e.2
  let w := (es.filter fun e => isWriteOp e.op).length
  pack [(4, 11, w), (15, 10, es.length - w)] + m.raw (Reg.rmtStatus st)

/-- ST_SLAB_SCRUB_STATUS (Table 5.10). -/
def Mach.scrubValue (m : Mach) (st : Nat) : Nat :=
  let s := m.stn st
  let held := m.consistRuns st
  pack [(0, 1, b2n (s.scrubOn && !held && decide (pwrWarm ≤ m.pwr st))), (1, 1, b2n (s.scrubOn && held))] +
    m.raw (Reg.scrubStatus st)

/-- The registers of a Matrix Unit that show its state (Tables 2.10 to 2.12), by offset in the bay's block. -/
def Mach.muValue (m : Mach) (st b o : Nat) : Option Nat :=
  let u := m.muOf st b
  let code := fun (x : Slot) => match x.state with | .free => 0 | .live => 1 | .draining => 2
  let slot := u.slotAt (m.cyc st)
  if o = 4 then
    some (pack [(0, 1, b2n u.run.isSome), (1, 1, b2n u.faulted), (2, 1, b2n u.initWait), (4, 5, u.curDesc),
      (9, 5, ((List.range 16).filter fun k => (slot k).state != .free).length)] + m.raw (Reg.muStatus st b))
  else if o = 8 then some (pack ((List.range 16).map fun k => (2 * k, 2, code (slot k))))
  else if 0x40 ≤ o ∧ o < 0x80 then
    let x := slot ((o - 0x40) / 4)
    some (if x.state = .free then 0 else pack [(0, 24, x.tag), (24, 1, b2n x.int), (30, 2, code x)])
  else none

/-- The registers of a vector unit that show its state (Tables 4.8 and 4.9), by offset in its block. -/
def Mach.vuValue (m : Mach) (st v o : Nat) : Option Nat :=
  let u := m.vuOf st v
  if o = 4 then
    let s := m.stn st
    let full := u.comps.any fun (c : Nat × List FtRow) => !c.2.isEmpty
    some (pack [(0, 1, b2n u.run.isSome), (1, 1, b2n u.faulted), (3, 8, u.curInst),
      (11, 1, b2n (s.armed && bit s.vuWait v && u.run.isNone && full))] + m.raw (Reg.vuStatus st v))
  else if 0x200 ≤ o ∧ o < 0x220 then
    let rows := (fget [] u.comps ((o - 0x200) / 4) : List FtRow).filter fun x => x.ready ≤ m.cyc st + 1
    some (match rows with
      | [] => 0
      | x :: _ => pack [(0, 6, rows.length), (6, 1, b2n x.int), (8, 24, x.tag)])
  else none

/-- The plane that BAR0 shows of a plane register: the active plane of its bay, of its vector unit, or of the station
(R62, R109, R133, R167). -/
def Mach.planeShown (m : Mach) (st o : Nat) : Bool :=
  if 0x20000 ≤ o ∧ o < 0x30000 then m.bayPlane st ((o - 0x20000) / 0x100)
  else if 0x40000 ≤ o ∧ o < 0x80000 then m.vuPlane st ((o - 0x40000) / 0x2000)
  else if 0x80000 ≤ o then m.bayPlane st ((o - 0x80000) / 0x800)
  else (m.stn st).plane

/-- The 32 bits at an offset of a station's block. -/
def Mach.stationRead (m : Mach) (st o : Nat) : Nat :=
  match planeReg o with
  | some (_, k) => half (m.planeWord (planeKey st (m.planeShown st o) kReg k)) (o - k)
  | none =>
    let stored := m.word32 (stBase st + o)
    if o < 0x1000 then
      if o = 4 then m.stStatusValue st
      else if o / 8 = 1 then half (m.cyc st) o
      else if o = 0x10 then m.waveStatusValue st
      else if o = 0x14 then m.waveSrcValue st
      else if o = 0x40 then m.stRepairValue st
      else if o = 0x64 then m.sbStatusValue st
      else if o / 8 = 17 then half (m.tblValue st) o
      else if o = 0x108 then
        match m.stnJob st with
        | some (_, j) => pack [(0, 13, j.quorum), (13, 1, b2n (!j.spills.isEmpty))] + stored
        | none => stored
      else if 0x110 ≤ o ∧ o < 0x148 then m.qWindow st o
      else if o = 0x204 then m.tkStatusValue st
      else if 0x800 ≤ o ∧ o < 0xE00 then m.slotWord st ((o - 0x800) / 32) (o % 32 / 4)
      else stored
    else if o < 0x20000 then
      if o < 0x1200 ∧ o % 0x40 = 0 then m.meStatusValue st ((o - 0x1000) / 0x40)
      else if o = 0x3000 then m.rmtStatusValue st
      else if o = 0x1F000 then m.scrubValue st
      else stored
    else if o < 0x30000 then
      if o % 0x100 = 4 then stored + 2 * (m.slabCtrl st ((o - 0x20000) / 0x100) % 2) else stored
    else if o < 0x40000 then
      let b := (o - 0x30000) / 0x100
      if o % 0x100 = 0 then
        stored + ((List.range 16).map fun e => 2 ^ (e + 1) * b2n (m.ptHolds st b e)).sum
      else stored
    else if o < 0x80000 then (m.vuValue st ((o - 0x40000) / 0x2000) (o % 0x2000)).getD stored
    else (m.muValue st ((o - 0x80000) / 0x800) (o % 0x800)).getD stored

/-! ### Reads -/

/-- The 32 bits of BAR0 at an aligned offset. -/
def Mach.read32 (m : Mach) (o : Nat) : Nat :=
  let stored := m.word32 o
  if m.bar0Open o = false ∨ 0x4000000 ≤ o then 0
  else if o < 0x100000 then
    if 0x100 ≤ o ∧ o < 0x140 then m.stnMapValue ((o - 0x100) / 4)
    else if 0x140 ≤ o ∧ o < 0x150 then m.dieRepairValue ((o - 0x140) / 4)
    else if o = 0x150 then m.portMapValue
    else if o / 8 = 44 then half m.distValue o
    else if o / 8 = 6 then half m.now o
    else if o = Reg.gangStatus then m.gangStatusValue
    else if o = Reg.gangInterval then voted m.dev.gang.interval % 65536
    else if o / 8 = Reg.gangCursor / 8 then half (voted m.dev.gang.cursor % 2 ^ 32) o
    else if o = Reg.clkStatus then m.clkStatusValue
    else if o = Reg.pwrStatus then m.pwrStatusValue
    else if 0x3100 ≤ o ∧ o < 0x3118 then m.sideValue (o - 0x3100)
    else if o = Reg.tkoStatus then m.tkoStatusValue
    else stored
  else if o < 0x200000 then stored
  else if o < 0x400000 then
    if o = Reg.ttStatus then m.ttStatusValue
    else if ttBase + 0x80 ≤ o ∧ o < ttBase + 0xC0 then m.ttStnValue ((o - ttBase - 0x80) / 4)
    else if ttBase + 0x100 ≤ o ∧ o < ttBase + 0x180 then
      half (nth 0 ((m.dev.tt.inForce.map (·.pools)).getD []) ((o - ttBase - 0x100) / 8)) o
    else if ttBase + 0x10000 ≤ o ∧ o < ttBase + 0x30000 then m.ttEntryValue (o - ttBase - 0x10000)
    else stored
  else if o < 0x800000 then (m.ilValue (o - ilBase)).getD stored
  else if o < 0x900000 then if o % 0x10000 = 4 then m.dmStatusValue ((o - 0x800000) / 0x10000) else stored
  else if o < 0x1000000 then
    if o = Reg.epStatus then
      stored + ((List.range 6).map fun l => if m.portState (m.physPort l) = psUp then 2 ^ (l + 1) else 0).sum
    else if portBase 0 ≤ o ∧ o % 0x10000 = 4 then m.portStatusValue ((o - portBase 0) / 0x10000)
    else stored
  else if o < 0x2000000 then m.stationRead (o / 0x100000 - 16) (o % 0x100000)
  else if o < 0x3000000 then (m.secValue (o - secBase)).getD stored
  else 0

/-- The registers outside the station blocks (Tables 1.5, 8.11, 9.15, 10.11, 10.12, 11.12, 12.8, 13.18, 15.13, 16.6, 17.7
and 18.5). -/
def globalMap : List RegRow :=
  [ { base := 0x10, count := 2 }, { base := 0x18, width := 8 }, { base := 0x20, count := 3, stride := 8, width := 8 },
    { base := 0x100, count := 16 }, { base := 0x140, count := 5 }, { base := 0x158 }, { base := 0x160, width := 8 },
    { base := 0x1000, count := 16, stride := 0x40, width := 24 }, { base := 0x2000, count := 2 },
    { base := 0x2008, count := 5, stride := 8, width := 8 }, { base := 0x2030 }, { base := 0x2100 },
    { base := Reg.clkStatus, count := 6 }, { base := Reg.clkStatus + 0x18, width := 16 }, { base := Reg.sbTemp, count := 6 },
    { base := 0x4000 }, { base := 0x4008 }, { base := 0x4010, width := 8 },
    { base := 0x4100, count := 64, stride := 16, width := 12 },
    { base := 0x100000, width := 20 }, { base := 0x100018, width := 8 }, { base := 0x101000, width := 12 },
    { base := 0x101010, width := 16 }, { base := 0x102000, width := 2048, stride := 2048 },
    { base := ttBase, width := 28, stride := 28 }, { base := ttBase + 0x20, count := 5, stride := 8, width := 8 },
    { base := ttBase + 0x80, count := 16 }, { base := ttBase + 0x100, count := 16, stride := 8, width := 8 },
    { base := ttBase + 0x10000, width := 0x20000, stride := 0x20000 },
    { base := ilBase, width := 56, stride := 56 }, { base := ilBase + 0x40, width := 12, stride := 12 },
    { base := ilBase + 0x50, count := 3, stride := 8, width := 8 }, { base := ilBase + 0x80, count := 17 },
    { base := ilBase + 0xC8, width := 8 },
    { base := dmBase 0, count := 16, stride := 0x10000, width := 8 },
    { base := dmBase 0 + 0xC, count := 16, stride := 0x10000, width := 84 }, { base := 0x900000, width := 8 },
    { base := epBase, width := 36, stride := 36 }, { base := epBase + 0x28, count := 3, stride := 8, width := 8 },
    { base := portBase 0, count := 8, stride := 0x10000, width := 84 },
    { base := secBase, count := 7 }, { base := secBase + 0x40, count := 48 }, { base := secBase + 0x200, count := 16 },
    { base := secBase + 0x1000, count := 648 }, { base := secBase + 0x2000, count := 4, stride := 0x1000, width := 2592 },
    { base := 0x3000000, count := 16, stride := 0x1000, width := 4 } ]

/-- The registers of a station block (Tables 1.5, 2.8, 3.7, 4.6, 5.5, 6.12, 7.5, 8.7, 9.8 and 10.9). -/
def stationMap : List RegRow :=
  [ { base := 0, count := 6 }, { base := 0x18, count := 2, stride := 8, width := 8 }, { base := 0x38, count := 2, stride := 8 },
    { base := 0x60, count := 2 }, { base := 0x80 }, { base := 0x88, width := 8 },
    { base := 0xC0, count := 7, stride := 8, width := 8 }, { base := 0x100, count := 4 },
    { base := 0x110, count := 7, stride := 8, width := 8 }, { base := 0x150, count := 6, stride := 8, width := 8 },
    { base := 0x200, count := 3 }, { base := 0x210, count := 2, stride := 8, width := 8 }, { base := 0x800, count := 384 },
    { base := 0x1000, count := 8, stride := 0x40, width := 32 }, { base := 0x1400, count := 2 },
    { base := 0x1408, count := 2, stride := 8, width := 8 }, { base := 0x2000, count := 256, stride := 8, width := 8 },
    { base := 0x3000 }, { base := 0x3008, width := 8 }, { base := 0x10000, count := 8192 }, { base := 0x1F000 },
    { base := 0x1F008, width := 8 },
    { base := 0x20000, count := 256, stride := 0x100, width := 40 },
    { base := 0x20080, count := 256, stride := 0x100, width := 128 },
    { base := 0x30000, count := 256, stride := 0x100, width := 12 },
    { base := 0x30010, count := 256, stride := 0x100, width := 24 },
    { base := 0x40000, count := 32, stride := 0x2000, width := 8 },
    { base := 0x40010, count := 32, stride := 0x2000, width := 24 },
    { base := 0x40100, count := 32, stride := 0x2000, width := 40 },
    { base := 0x40200, count := 32, stride := 0x2000, width := 32 },
    { base := 0x40400, count := 32, stride := 0x2000, width := 512 },
    { base := 0x41000, count := 32, stride := 0x2000, width := 4096 },
    { base := 0x80000, count := 256, stride := 0x800, width := 20 },
    { base := 0x80018, count := 256, stride := 0x800, width := 32 },
    { base := 0x80040, count := 256, stride := 0x800, width := 64 },
    { base := 0x80080, count := 256, stride := 0x800, width := 128 },
    { base := 0x80400, count := 256, stride := 0x800, width := 1024 } ]

/-- Whether a BAR0 offset reaches a register. -/
def Mach.regAt (m : Mach) (o : Nat) : Bool :=
  if 0x1000000 ≤ o ∧ o < 0x2000000 then decide (o / 0x100000 - 16 < m.stations) && stationMap.any (·.holds (o % 0x100000))
  else globalMap.any (·.holds o)

/-- A BAR0 read: aligned accesses of 32 and 64 bits alone; none is Unsupported Request (R11). -/
def Mach.bar0Read (m : Mach) (o size : Nat) : Option Nat :=
  if size = 4 ∧ o % 4 = 0 then some (m.read32 o)
  else if size = 8 ∧ o % 8 = 0 then some (m.read32 o + m.read32 (o + 4) * 2 ^ 32)
  else none

/-- A word of a result window's header or record (Table 13.14). -/
def Window.word (x : Window) (o : Nat) : Nat :=
  if o = 0 then pack [(0, 16, x.status), (16, 12, x.job)]
  else if o / 8 = 1 then half x.seq o
  else if o = 0x10 then x.winLen
  else if 0x80 ≤ o ∧ o < 0x100 then (if x.status = scNotReady then 0 else leNat x.record (o - 0x80) 4)
  else 0

/-- The 32 bits of BAR4 at an aligned offset (R344, R359). Result data are the DDR bytes of the moment. -/
def Mach.bar4Read (m : Mach) (o : Nat) : Nat :=
  if o < 0x400 then m.msixWord (o / 4)
  else if o / 8 = 0x200 then half m.dev.host.msixPend o
  else if 0x100000 ≤ o ∧ o < 0x1000000 then
    let x := m.window ((o - 0x100000) / 0x10000)
    let k := o % 0x10000
    if k < 0x100 then x.word k
    else if x.winLen ≤ k - 0x100 ∨ x.status ≠ scOk then 0
    else leNat ((m.ddrRead (x.result + (k - 0x100)) 4).take (x.winLen - (k - 0x100))) 0 4
  else 0

/-- A host read of n bytes of a result window's data from offset k (R359): 0 beyond WIN_LEN and while STATUS is not OK, else
the DDR bytes of the moment under the outcomes of Table 13.4. From the boot ROM it is unsupported (R404). The opcode table
has no row for a read of BAR4, so no command calls it (log 92). -/
def Mach.resultRead (m : Mach) (w k n : Nat) : Mach :=
  let x := m.window w
  let held := min n (x.winLen - k)
  if m.dev.boot.fw = false then m.emit (.bar2 [] false true)
  else if x.status ≠ scOk ∨ held = 0 then m.emit (.bar2 (zeros n) false false)
  else m.hostDdrRead (x.result + k) held (n - held)

/-- Whether a 64-bit register of a station's block begins at a local offset, a multiple of 8. -/
def wideStation (o : Nat) : Bool :=
  if o < 0x1000 then
    [0x08, 0x18, 0x20, 0x28, 0x88, 0x210, 0x218].contains o || (decide (0xC0 ≤ o) && decide (o < 0xF8))
      || (decide (0x110 ≤ o) && decide (o < 0x148)) || (decide (0x150 ≤ o) && decide (o < 0x180))
  else if o < 0x2000 then (decide (o < 0x1200) && o % 0x40 != 0 && decide (o % 0x40 < 0x20)) || o == 0x1408 || o == 0x1410
  else if o < 0x20000 then decide (o < 0x2800) || o == 0x3008 || o == 0x1F008
  else if o < 0x30000 then [0x10, 0x18, 0x20].contains (o % 0x100) || decide (0x80 ≤ o % 0x100)
  else if o < 0x40000 then [0x10, 0x18, 0x20].contains (o % 0x100)
  else if o < 0x80000 then [0x10, 0x18, 0x20, 0x118, 0x120].contains (o % 0x2000)
  else [0x18, 0x20, 0x28, 0x30].contains (o % 0x800)

/-- Whether a 64-bit register begins at an offset of BAR0, a multiple of 8. -/
def wideAt (o : Nat) : Bool :=
  if o < 0x100000 then
    [0x18, 0x20, 0x28, 0x30, 0x160, 0x2008, 0x2010, 0x2018, 0x2020, 0x2028, 0x3018, 0x3020, 0x4010].contains o
      || (decide (0x1000 ≤ o) && decide (o < 0x1400) && decide (o % 0x40 < 0x10))
      || (decide (0x4100 ≤ o) && decide (o < 0x4500) && o % 16 == 0)
  else if o < 0x200000 then [0x100000, 0x100018, 0x101010, 0x101018].contains o
  else if o < 0x400000 then
    [0x08, 0x10, 0x20, 0x28, 0x30, 0x38, 0x40].contains (o - ttBase)
      || (decide (ttBase + 0x100 ≤ o) && decide (o < ttBase + 0x180))
  else if o < 0x800000 then [0x10, 0x18, 0x20, 0x28, 0x30, 0x40, 0x50, 0x58, 0x60, 0xC8].contains (o - ilBase)
  else if o < 0x900000 then decide (0x10 ≤ o % 0x10000) && decide (o % 0x10000 < 0x60)
  else if o < 0x1000000 then
    o == 0x900000 || [0x28, 0x30, 0x38].contains (o - epBase)
      || (decide (portBase 0 ≤ o) && decide (8 ≤ o % 0x10000) && decide (o % 0x10000 < 0x50))
  else if o < 0x2000000 then wideStation (o % 0x100000)
  else o == secBase + 8

/-- READ_COUNTERS' read of an offset: one access of the register's width; 0 where the offset is not aligned to it or not
in BAR0 (R353). -/
def Mach.counterRead (m : Mach) (o : Nat) : Nat :=
  if 0x4000000 ≤ o ∨ o % 4 ≠ 0 then 0
  else if wideAt (o - o % 8) then (if o % 8 = 0 then m.read32 o + m.read32 (o + 4) * 2 ^ 32 else 0)
  else m.read32 o

/-- The requests that stand before a host's read of an offset are decided: those for a ticket counter (R217, R222). -/
def Mach.settleRead (m : Mach) (o : Nat) : Mach :=
  if 0x4100 ≤ o ∧ o < 0x4500 ∧ o % 16 < 8 then m.settleCounter ((o - 0x4100) / 16) else m

/-! ### Writes -/

/-- CO_PWR_CAP_WRITE (R434). -/
def effCoPwrCapWrite (v : W32) (m : Mach) : Mach :=
  let w := v.toNat % 4096
  if m.bar0Open Reg.pwrCap = false then m
  else if w < 400 ∨ 2400 < w ∨ w < bits (m.raw Reg.pwrAdmit) 11 0 ∨ w < ((m.dev.tt.pending.map (·.power)).getD 0) then
    m.setBit Reg.pwrStatus 12
  else m.setRaw Reg.pwrCap w

/-- EP_TOPOLOGY_WRITE: 0 EP_DEVICE_ID, 1 EP_TORUS, 2 EP_DIM_MAP (R287). -/
def effEpTopologyWrite (which : Nat) (v : W32) (m : Mach) : Mach :=
  let (o, mask) := match which with
    | 0 => (Reg.epDeviceId, 0x8003FFFF)
    | 1 => (Reg.epTorus, 0x7F7F7F)
    | _ => (Reg.epDimMap, 0x3FFFF)
  if m.bar0Open o = false then m
  else if (List.range 8).any fun p => m.portState p != psClosed && m.portState p != psFailed then m.setBit Reg.epStatus 0
  else m.setRaw o (v.toNat &&& mask)

/-- A write to EP_PORT_CTRL (R287). -/
def Mach.portCtrlWrite (m : Mach) (p v : Nat) : Mach :=
  if m.portState p ≠ psClosed ∧ m.portState p ≠ psFailed then m.setBit (Reg.portStatus p) 12
  else m.setRaw (Reg.portCtrl p) (v &&& 0xF1)

/-- The alerts whose condition holds are set (Table 18.6). -/
def Mach.alerts (m : Mach) : Mach :=
  let t := toSigned 8 (bits (m.raw Reg.sbTemp) 7 0)
  let w := m.raw Reg.sbPower
  let warm := decide ((bits (m.raw Reg.sbTwarn) 7 0 : Int) ≤ t)
  let high := decide (2400 < bits w 23 12)
  let peak := decide (2700 < bits w 11 0) || decide (10 < m.dev.side.hotMs)
  m.setRaw Reg.sbAlert (m.raw Reg.sbAlert ||| pack [(0, 1, b2n warm), (1, 1, b2n high), (2, 1, b2n peak)])

/-- A write to a sideband register, from BAR0 or I3C, by offset in the block (R450). A flag that is cleared while its
condition holds sets again. -/
def Mach.sideWrite (m : Mach) (o v : Nat) : Mach :=
  if o = 8 then
    (m.setRaw Reg.sbAlert (m.raw Reg.sbAlert - (m.raw Reg.sbAlert &&& (v &&& 7)))).alerts
  else if o = 0xC then m.setRaw Reg.sbAlertEn (v % 64)
  else if o = 0x10 then (if 60 ≤ v % 256 ∧ v % 256 ≤ 110 then (m.setRaw Reg.sbTwarn (v % 256)).alerts else m)
  else m

/-- Fields of a register after a write of 32 bits at offset o: `old` is the whole register, `k` its first byte. -/
def writtenHalf (row : RegRow) (old o v : Nat) : Nat :=
  if row.width = 4 then hostWritten row old v
  else if o % 8 = 0 then hostWritten row old (((old &&& row.rw) / 2 ^ 32) * 2 ^ 32 + v)
  else hostWritten row old ((old &&& row.rw) % 2 ^ 32 + v * 2 ^ 32)

/-- A write to a register whose fields act alone. A flag that an operation has raised in the same ARCLK cycle reads 1
after a clear (R84, R86). -/
def Mach.rowWrite (m : Mach) (row : RegRow) (k o v : Nat) : Mach :=
  m.setRaw k (writtenHalf row (m.raw k) o v ||| (m.raw k &&& m.raisedNow k))

/-- Where a discarded write to a plane register is shown (R62, R109, R133, R167). -/
def droppedAt (st o : Nat) : Nat × Nat :=
  if 0x20000 ≤ o ∧ o < 0x30000 then (Reg.slabStatus st ((o - 0x20000) / 0x100), 0)
  else if 0x40000 ≤ o ∧ o < 0x80000 then (Reg.vuStatus st ((o - 0x40000) / 0x2000), 2)
  else if 0x80000 ≤ o then (Reg.muStatus st ((o - 0x80000) / 0x800), 3)
  else (Reg.stStatus st, 3)

/-- Writes 32 bits of a plane word under the mask of its RW bits, unless a consist is loaded on the station. -/
def Mach.planeWrite (m : Mach) (st k mask o v : Nat) (dropped : Nat × Nat) : Mach :=
  if m.stLoaded st then m.setBit dropped.1 dropped.2
  else
    let here := mask &&& (0xFFFFFFFF * 2 ^ (8 * (o % 8)))
    let old := m.planeWord k
    m.setPlane k (old - (old &&& here) + (v * 2 ^ (8 * (o % 8)) &&& here))

/-- A write of 1s to a clear register. -/
def Mach.clearBits (m : Mach) (v : Nat) (l : List (Nat × (Mach → Mach))) : Mach :=
  l.foldl (fun m e => if bit v e.1 then e.2 m else m) m

/-- A write of 32 bits in a station's block. -/
def Mach.stationWrite (m : Mach) (st o v : Nat) : Mach :=
  match planeReg o with
  | some (row, k) =>
    m.planeWrite st (planeKey st (m.planeShown st o) kReg k) row.rw (o - k) v (droppedAt st o)
  | none =>
    let plain := fun (rows : List RegRow) (base : Nat) (l : Nat) =>
      match findRow rows l with
      | some (row, k) => m.rowWrite row (base + k) o v
      | none => m
    if o / 8 = 17 then
      let sel := m.raw (Reg.tblSel st)
      match tblEntry sel with
      | some k => m.planeWrite st (planeKey st (m.tblPlane st sel) kTbl k) (tableMask k) o v (Reg.stStatus st, 3)
      | none => m
    else if 0x110 ≤ o ∧ o < 0x130 then
      let q := m.raw (Reg.qSel st) % 4096
      let w := (o - 0x110) / 8
      if w = 1 then m
      else m.planeWrite st (planeKey st (m.bayPlane st (m.qBay st q)) kQd (4 * q + w)) (qdescMask w) o v (Reg.stStatus st, 3)
    else if o = 0x10C then
      m.clearBits v [(0, effQClrLenerr st), (1, effQClrSat st), (2, effQClrLeftover st), (3, effQClrRefused st),
        (4, effQClrQsel st)]
    else if o = 0x208 then m.clearBits v [(0, effTkClrLost st)]
    else if o = 0x1404 then (effMeClrMerged st (v % 256) m).clearBits v [(8, effMeClrRls st)]
    else if o < 0x20000 then
      let engErr := decide (0x1000 ≤ o) && decide (o < 0x1200) && o % 0x40 == 4 && bit v 31
      let m' := plain stationRows (stBase st) o
      if engErr then m'.setRaw (Reg.meErrAddr st ((o - 0x1000) / 0x40)) 0 else m'
    else if o < 0x30000 then
      let b := (o - 0x20000) / 0x100
      if o % 0x100 = 0xC then
        m.clearBits v [(0, effSlabClrCe st b), (1, effSlabClrUe st b), (2, effSlabClrConf st b), (3, effSlabClrUnsched st b)]
      else plain stationRows (stBase st) o
    else if o < 0x40000 then
      let b := (o - 0x30000) / 0x100
      if o % 0x100 = 8 then m.clearBits v [(0, effPtClrOvf st b), (1, effPtClrBadtag st b)]
      else plain stationRows (stBase st) o
    else if o < 0x80000 then
      let u := (o - 0x40000) / 0x2000
      if o % 0x2000 = 0x114 then m.clearBits v [(0, effVuClrSat st u), (1, effVuClrNan st u), (2, effVuClrAmax st u)]
      else plain vuRows (vuBase st u) (o % 0x2000)
    else
      let b := (o - 0x80000) / 0x800
      if o % 0x800 = 0x10 then m.clearBits v [(0, effMuClrSat st b), (1, effMuClrCe st b)]
      else plain muRows (muBase st b) (o % 0x800)

/-- A write of 32 bits in the blocks of the Control Office below the timetable. -/
def Mach.officeWrite (m : Mach) (o v : Nat) : Mach :=
  let w : W32 := BitVec.ofNat 32 v
  let r := (o - 0x1000) / 0x40
  if o = Reg.coHifCntClear then m.clearBits v [(0, effCoClrBar2), (1, effCoClrEvlost)]
  else if 0x1000 ≤ o ∧ o < 0x1400 ∧ o % 0x40 < 0x10 then
    if bit (m.raw (Reg.ringCtrl r)) 0 then m.setBit (Reg.ringStatus r) 14
    else
      m.rowWrite { base := 0, width := 8, rw := if o % 0x40 < 8 then 2 ^ 64 - 64 else 2 ^ 64 - 32 } (o - o % 8) o v
  else if 0x1000 ≤ o ∧ o < 0x1400 ∧ o % 0x40 = 0x10 then effRingCtrlWrite r w m
  else if o = Reg.gangInterval then
    if bit (m.raw Reg.gangStatus) 0 then m.setBit Reg.gangStatus 2
    else
      let i := v % 65536
      { m with dev := { m.dev with gang := { m.dev.gang with interval := [i, i, i], wantInterval := i } } }
  else if o = Reg.gangCntClear then m.clearBits v [(0, effGangClrRepairs), (1, effGangClrVotes)]
  else if o = Reg.pwrCap then effCoPwrCapWrite w m
  else if o = Reg.cdcCntClear then m.clearBits v [(0, effCdcClrOverruns), (1, effCdcClrTimeouts)]
  else if 0x3100 ≤ o ∧ o < 0x3118 then m.sideWrite (o - 0x3100) v
  else if o = Reg.tkoCntClear then m.clearBits v [(0, effTkoClrPlain)]
  else if 0x4100 ≤ o ∧ o < 0x4500 ∧ o % 16 < 8 then
    let k := (o - 0x4100) / 16
    let old := m.raw (Reg.tkoValue k)
    effTkoValueWrite k (BitVec.ofNat 64 (if o % 8 = 0 then old / 2 ^ 32 * 2 ^ 32 + v else old % 2 ^ 32 + v * 2 ^ 32)) m
  else if o / 8 = Reg.evqBase / 8 then
    if bit (m.raw Reg.evqCtrl) 0 then m
    else m.rowWrite { base := 0, width := 8, rw := 2 ^ 64 - 32 } Reg.evqBase o v
  else if o = Reg.evqCtrl then effEvqCtrlWrite w m
  else if o = Reg.evqHead then effEvqHeadWrite w m
  else if o = Reg.faultHead then effFaultHeadWrite w m
  else if o = Reg.faultCntClear then m.clearBits v [(0, effFaultClrLost), (1, effFaultClrDrain)]
  else
    match findRow globalRows o with
    | some (row, k) => m.rowWrite row k o v
    | none => m

/-- A write of 32 bits in the blocks from the timetable to the fabric, and the security block. -/
def Mach.blockWrite (m : Mach) (o v : Nat) : Mach :=
  let w : W32 := BitVec.ofNat 32 v
  let plain := match findRow blockRows o with
    | some (row, k) => m.rowWrite row k o v
    | none => m
  if o = Reg.ttCntClear then m.clearBits v [(0, effTtClrStable), (1, effTtClrAbort), (2, effTtClrMiss)]
  else if o = Reg.ilCmd then (if bit v 0 then effRelease m else m)
  else if o = Reg.ilCntClear then m.clearBits v [(0, effIlClrRefusals)]
  else if o = Reg.ilErr + 4 ∧ bit v 31 then plain.setRaw Reg.ilErrDetail 0
  else if o < 0x800000 then plain
  else if o < 0x900000 ∧ o % 0x10000 = 0xC then
    let c := (o - 0x800000) / 0x10000
    m.clearBits v [(0, effDmClrCe c), (1, effDmClrUe c), (2, effDmClrTt c)]
  else if o = Reg.epDeviceId then effEpTopologyWrite 0 w m
  else if o = Reg.epTorus then effEpTopologyWrite 1 w m
  else if o = Reg.epDimMap then effEpTopologyWrite 2 w m
  else if o = Reg.epAccess then
    m.setRaw o (if m.lifeCycle < 2 then v % 4 else v % 2 + 2 * bits (m.raw o) 1 1)
  else if o = Reg.epCntClear then m.clearBits v [(0, effEpClrTimeouts), (1, effEpClrLate), (2, effEpClrTarget)]
  else if portBase 0 ≤ o ∧ o < portBase 8 then
    let p := (o - portBase 0) / 0x10000
    if o % 0x10000 = 0 then m.portCtrlWrite p v
    else if o % 0x10000 = 0x50 then m.clearBits v [(0, effEpClrErr p), (1, effEpClrDiscard p)]
    else plain
  else if o = Reg.secBootDeadline then effSecBootDeadlineWrite w m
  else if o = Reg.secCmd then m.secCommand v
  else if secBase + 0x1000 ≤ o ∧ o < secBase + 0x1A20 then (if m.lifeCycle < 2 then m.setRaw o v else m)
  else if o = Reg.secStatus ∧ bit v 1 then plain.setField Reg.secStatus 3 2 0
  else plain

/-- A write of 32 bits to BAR0 at an aligned offset, under the access codes of Table 0.6. -/
def Mach.write32 (m : Mach) (o v : Nat) : Mach :=
  if m.bar0Open o = false then m
  else if o < 0x200000 then m.officeWrite o v
  else if o < 0x1000000 then m.blockWrite o v
  else if o < 0x2000000 then m.stationWrite (o / 0x100000 - 16) (o % 0x100000) v
  else if o < 0x3000000 then m.blockWrite o v
  else if o < 0x3010000 ∧ o % 0x1000 = 0 then effDoorbellWrite ((o - 0x3000000) / 0x1000) (BitVec.ofNat 32 v) m
  else m

/-- A BAR0 write: any size or alignment but aligned 32 and 64 bits is discarded (R11). -/
def Mach.bar0Write (m : Mach) (o size v : Nat) : Mach :=
  if size = 4 ∧ o % 4 = 0 then m.write32 o (v % 2 ^ 32)
  else if size = 8 ∧ o % 8 = 0 then (m.write32 o (v % 2 ^ 32)).write32 (o + 4) (v / 2 ^ 32 % 2 ^ 32)
  else m

/-- A write of 32 bits to BAR4: the MSI-X table alone takes writes (R344). A vector that is unmasked while it is pending
is sent. -/
def Mach.msixWrite (m : Mach) (o v : Nat) : Mach :=
  if 0x400 ≤ o then m
  else
    let i := o / 4
    let v := if i % 4 = 3 then v % 2 else v
    let m := { m with dev := { m.dev with host := { m.dev.host with msix := fput m.dev.host.msix i (BitVec.ofNat 32 v) } } }
    if i % 4 = 3 ∧ v = 0 ∧ bit m.dev.host.msixPend (i / 4) then
      let m := { m with dev := { m.dev with host := { m.dev.host with msixPend := setBits m.dev.host.msixPend (i / 4) (i / 4) 0 } } }
      m.msix (i / 4)
    else m

/-- REGISTER_WRITE (R8, R11, R344, R404). -/
def effRegisterWrite (bar o size : Nat) (v : W64) (m : Mach) : Mach :=
  if bar = 0 then m.bar0Write o size v.toNat
  else if size = 4 ∧ o % 4 = 0 then m.msixWrite o (v.toNat % 2 ^ 32)
  else if size = 8 ∧ o % 8 = 0 then (m.msixWrite o (v.toNat % 2 ^ 32)).msixWrite (o + 4) (v.toNat / 2 ^ 32)
  else m

/-- READ_COUNTERS (R353). -/
def effReadCounters (r : Nat) (offsets : HostData) (m : Mach) : Mach :=
  m.hostCommand r 0x51 fun c m =>
    let n := c.p 1
    if n < 1 ∨ 4096 < n then m.badParam r 1
    else
      match offsets with
      | none => m.badParam r 0
      | some b =>
        if b.length < 8 * n then m.badParam r 0
        else
          let at_ := fun i => leNat b (8 * i) 8
          let m := (List.range n).foldl (fun m i => m.settleRead (at_ i)) m
          let vs := (List.range n).map fun i => m.counterRead (at_ i)
          (m.hostWrite (c.p 2) (vs.flatMap (toLe 8))).accept r n

/-! ### The commands -/

def execCoPwrCapWrite (v : W32) (s : State) := act .run (.coPwrCapWrite v) s (effCoPwrCapWrite v)
def execEpTopologyWrite (w : Nat) (v : W32) (s : State) := act .run (.epTopologyWrite w v) s (effEpTopologyWrite w v)
def execRegisterWrite (bar o size : Nat) (v : W64) (s : State) :=
  act .run (.registerWrite bar o size v) s (effRegisterWrite bar o size v)
def execReadCounters (r : Nat) (b : HostData) (s : State) := act .run (.readCounters r b) s (effReadCounters r b)

end Sys2Proof.Machine
end

