-- ==== Sys2Proof/Machine/Package.lean ====
section
/-! DEFINITION. The package's own inputs (R448 to R452): die sensors, the thermal trip, the I3C target, and the test access
port. -/

namespace Sys2Proof.Machine
open Sys2Proof

def Mach.setSide (m : Mach) (x : Side) : Mach := { m with dev := { m.dev with side := x } }

/-! ### Sensors (R450, R451) -/

/-- THERMAL_TRIP: every clock but AONCLK stops; the trip is latched until cold reset. -/
def effThermalTrip (m : Mach) : Mach :=
  { m with dev := { m.dev with clk := { m.dev.clk with
      tripped := true, arclkOn := false, hclkOn := false, dclk := 0, fbclk := 0 } } }

/-- The highest of some temperatures. -/
def hottest (ts : List Int) : Int := ts.foldl (fun a t => if a < t then t else a) (ts.headD 0)

/-- SENSOR_UPDATE: the registers of temperature and power, the alerts, and the trip of a sensor that reads 120 °C or more.
Where several sensors read the highest temperature, the one that SENSOR names is a free value. -/
def effSensorUpdate (ts : List Int) (avg1 avg100 : Nat) (m : Mach) : Mach :=
  let top := hottest ts
  let at_ := (List.range ts.length).filter fun i => nth 0 ts i == top
  let (v, m) := m.freeVal
  let sensor := nth 0 at_ (v.toNat % at_.length)
  let m := m.setRaw Reg.sbTemp (pack [(0, 8, ofSigned 8 top), (8, 3, sensor)])
  let m := m.setRaw Reg.sbPower (pack [(0, 12, avg1), (12, 12, avg100)])
  let m := (m.setSide { m.dev.side with hotMs := if 2400 < avg1 then m.dev.side.hotMs + 1 else 0 }).alerts
  if ts.any fun t => decide (120 ≤ t) then effThermalTrip m else m

/-! ### I3C (R449) -/

/-- I3C_PRIVATE_WRITE: one byte sets the register offset, four bytes go to the register there. A target without a dynamic
address takes no transfer (log 8). -/
def effI3cPrivateWrite (data : Bytes) (m : Mach) : Mach :=
  if m.dev.side.dynAddr.isNone then m
  else if data.length = 1 then m.setSide { m.dev.side with offset := leNat data 0 1 }
  else if data.length = 4 then m.sideWrite m.dev.side.offset (leNat data 0 4)
  else m

/-- I3C_PRIVATE_READ. -/
def effI3cPrivateRead (m : Mach) : Mach :=
  if m.dev.side.dynAddr.isNone then m
  else
    let o := m.dev.side.offset
    m.emit (.i3c (toLe 4 (if o % 4 = 0 then m.sideValue o else 0)))

/-- SETDASA and ENTDAA assign a dynamic address to a target that has none; RSTDAA takes it away. -/
def effSetdasa (a : Nat) (m : Mach) : Mach :=
  if m.dev.side.dynAddr.isSome then m else m.setSide { m.dev.side with dynAddr := some a }
def effEntdaa (a : Nat) (m : Mach) : Mach :=
  if m.dev.side.dynAddr.isSome then m else m.setSide { m.dev.side with dynAddr := some a }
def effRstdaa (m : Mach) : Mach := m.setSide { m.dev.side with dynAddr := none }

/-- ENEC and DISEC set and clear the enables of target events. -/
def effEnec (e : Nat) (m : Mach) : Mach := m.setSide { m.dev.side with events := m.dev.side.events ||| e }
def effDisec (e : Nat) (m : Mach) : Mach := m.setSide { m.dev.side with events := m.dev.side.events - (m.dev.side.events &&& e) }

/-- GETPID and GETSTATUS. -/
def effGetpid (m : Mach) : Mach := if m.dev.side.dynAddr.isNone then m else m.emit (.i3c Config.i3cPid)
def effGetstatus (m : Mach) : Mach :=
  if m.dev.side.dynAddr.isNone then m
  else
    let k := m.dev.free
    ({ m with dev := { m.dev with free := k + 1 } } : Mach).emit (.i3c (Config.i3cStatus k))

/-! ### The test access port (R452) -/

/-- Selects a JTAG instruction: 0 BYPASS, 1 IDCODE, 2 SAMPLE/PRELOAD, 3 EXTEST. -/
def Mach.jtag (m : Mach) (i : Nat) (drive : Bool) : Mach := m.setSide { m.dev.side with jtag := i, driving := drive }

/-- BYPASS: the bypass register of one bit lies between TDI and TDO. -/
def effBypass (m : Mach) : Mach := (m.jtag 0 false).emit (.tdo 0 1)

/-- IDCODE of the part. -/
def Mach.idcode (m : Mach) : Nat :=
  pack [(0, 1, 1), (1, 11, 0x2C7), (12, 16, pciDevice m.dev.chip.grade), (28, 4, m.dev.chip.stepping)]

/-- IDCODE. -/
def effIdcode (m : Mach) : Mach := (m.jtag 1 false).emit (.tdo (BitVec.ofNat 64 m.idcode) 32)

/-- SAMPLE/PRELOAD: the pins are sampled, and the boundary register takes what is shifted in. -/
def effSamplePreload (pins load : W64) (m : Mach) : Mach :=
  let m := m.jtag 2 false
  (m.setSide { m.dev.side with boundary := load }).emit (.tdo pins 64)

/-- EXTEST: the boundary register drives the pins while PERST_N is low; otherwise it acts as BYPASS. -/
def effExtest (m : Mach) : Mach := if m.dev.clk.perst then m.jtag 3 true else effBypass m

/-! ### The commands -/

def execThermalTrip (s : State) := act .aon .thermalTrip s effThermalTrip
def execSensorUpdate (ts : Temps) (a b : Nat) (s : State) := act .aon (.sensorUpdate ts a b) s (effSensorUpdate ts a b)
def execI3cPrivateWrite (d : Bytes) (s : State) := act .aon (.i3cPrivateWrite d) s (effI3cPrivateWrite d)
def execI3cPrivateRead (s : State) := act .aon .i3cPrivateRead s effI3cPrivateRead
def execSetdasa (a : Nat) (s : State) := act .aon (.setdasa a) s (effSetdasa a)
def execEntdaa (a : Nat) (s : State) := act .aon (.entdaa a) s (effEntdaa a)
def execRstdaa (s : State) := act .aon .rstdaa s effRstdaa
def execEnec (e : Nat) (s : State) := act .aon (.enec e) s (effEnec e)
def execDisec (e : Nat) (s : State) := act .aon (.disec e) s (effDisec e)
def execGetpid (s : State) := act .aon .getpid s effGetpid
def execGetstatus (s : State) := act .aon .getstatus s effGetstatus
def execBypass (s : State) := act .aon .bypass s effBypass
def execIdcode (s : State) := act .aon .idcode s effIdcode
def execSamplePreload (pins load : W64) (s : State) := act .aon (.samplePreload pins load) s (effSamplePreload pins load)
def execExtest (s : State) := act .aon .extest s effExtest

end Sys2Proof.Machine
end

