-- ==== Sys2Proof/Machine/Remote.lean ====
section
/-! DEFINITION. Remote operations (R272 to R283): the signal-box operations 0x30 to 0x36, what each packet does at its
target, responses and acknowledgements, and timeouts. -/

namespace Sys2Proof.Machine
open Sys2Proof

/-! ### At the issuing signal box (R275 to R278, Table 10.6) -/

/-- The place of a signal box's stall request for a remote response: no queue, so that ST_WAVE_SRC shows 4,095 (Table
6.16). -/
def noQueue : Nat := 2 ^ 40

/-- The signal box waits for an issue entry: a local wait, counted as "remote" (R277). -/
def Mach.waitEntry (m : Mach) (st : Nat) : Mach := m.wait (sbUnit st) { cause := 5 }

/-- An operation of the signal box that needs a write entry only: it is issued, and the next instruction follows. -/
def Mach.sbIssue (m : Mach) (st h op addr arg : Nat) (data : Bytes) (len : Nat) : Mach :=
  if m.remFree st op then
    ((m.flagJob h fgRemote).remIssue st { op := op, size := len, addr := addr, job := h } arg data len).sbWaited st
  else m.waitEntry st

/-- An operation of the signal box that waits for its response. In the cycle after its issue the wait begins and raises a
stall request of cause "remote" (R277, Table 10.10). -/
def Mach.sbAsk (m : Mach) (st code : Nat) (reads : Nat → List Nat) (op : Nat)
    (f : SigBox → Nat → RemEntry × Nat × Nat) : Mach :=
  match (m.sb st).wait with
  | .remote _ =>
    match m.liveJob st with
    | some (h, _) =>
      if m.sbCan st code (fun _ => []) then (m.wait (sbUnit st) { cause := 5 }).raiseStall h (sbUnit st) noQueue 5 else m
    | none => m
  | _ =>
    m.sbRun st code reads fun h _ i m =>
      if m.remFree st op = false then m.waitEntry st
      else
        let tag := m.remTag
        let (e, arg, len) := f (m.sb st) i
        let m := (m.flagJob h fgRemote).remIssue st { e with op := op, job := h } arg [] len
        (m.modSb st fun s => { s with wait := .remote tag, next := m.cyc st + 1 }).work st

/-- The operand in sB, where a B field of 0 gives 1. -/
def SigBox.operandB (s : SigBox) (i : Nat) : Nat := if insB i = 0 then 1 else s.reg (insB i)

/-- RLD. -/
def effSbRld (st : Nat) (m : Mach) : Mach :=
  m.sbAsk st 0x30 (fun i => [insA i]) opLoad fun s i =>
    let n := if bit (insImm i) 0 then 8 else 4
    ({ rd := insD i, size := n, addr := s.reg (insA i) }, 0, n)

/-- RST. -/
def effSbRst (st : Nat) (m : Mach) : Mach :=
  m.sbRun st 0x31 (fun i => [insA i, insB i]) fun h _ i m =>
    let s := m.sb st
    let n := if bit (insImm i) 0 then 8 else 4
    m.sbIssue st h opStore (s.reg (insA i)) 0 (toLe n (s.reg (insB i))) n

/-- RSIG. -/
def effSbRsig (st : Nat) (m : Mach) : Mach :=
  m.sbRun st 0x32 (fun i => [insA i, insB i]) fun h _ i m =>
    let s := m.sb st
    m.sbIssue st h opSignal (s.reg (insA i)) (s.operandB i % 2 ^ 32) [] 1

/-- RWAIT. -/
def effSbRwait (st : Nat) (m : Mach) : Mach :=
  m.sbAsk st 0x33 (fun i => [insA i, insB i]) opWait fun s i =>
    ({ addr := s.reg (insA i) },
      pack [(0, 32, s.operandB i), (32, 2, bits (insImm i) 13 12), (34, 1, bits (insImm i) 14 14)], 1)

/-- RTKT. -/
def effSbRtkt (st : Nat) (m : Mach) : Mach :=
  m.sbAsk st 0x34 (fun i => [insA i, insB i]) opTicket fun s i =>
    ({ rd := insD i, addr := s.reg (insA i) }, s.operandB i, 1)

/-- RMSG: sends the next message of a local queue. Its wait on that queue is local. -/
def effSbRmsg (st : Nat) (m : Mach) : Mach :=
  m.sbRun st 0x35 (fun i => [insA i]) fun h _ i m =>
    let q := insImm i % 4096
    let op := if bit (insImm i) 12 then opCombine else opMessage
    if m.remFree st op = false then m.waitEntry st
    else
      match m.take st q with
      | (some (bs, _), m) => m.sbIssue st h op ((m.sb st).reg (insA i)) 0 bs bs.length
      | (none, m) => m.wait (sbUnit st) { cause := 1, empty := some (st * 4096 + q) }

/-- RSTAT. -/
def effSbRstat (st : Nat) (m : Mach) : Mach :=
  m.sbRun st 0x36 (fun _ => []) fun _ j i m =>
    let m := m.sbWrite j st (insD i) (m.rmtStatusValue st) Config.sbAlu
    (if bit (insImm i) 0 then m.setField (Reg.rmtStatus st) 0 0 0 else m).sbDone st

/-! ### At the target (R273, R276, R279, R280) -/

/-- Whether a DDR channel holds a range's unscheduled requests, or is offline (R249, R251): a request that waits there keeps
its input pool (R269). -/
def Mach.rangeHeld (m : Mach) (off n : Nat) : Bool :=
  (linesOf off n).any fun p =>
    let s := (m.ch (chanOf p.1)).service
    s == svOffline || (s == svTimetabled && bit (m.raw (Reg.dmCtrl (chanOf p.1))) 0)

/-- Whether a register offset lies in the security and life-cycle block, or the space is not open for an access: `b` is
the bit of EP_ACCESS (Table 10.5). -/
def Mach.regDenied (m : Mach) (off b : Nat) : Bool :=
  !bit (m.raw Reg.epAccess) b || (decide (0x2000000 ≤ off) && decide (off < 0x3000000))

/-- REMOTE_LOAD: DDR and scratchpad loads are sent to their channels and slab ports as unscheduled accesses; a token's PROD,
a counter and a register are answered at once. -/
def effRemoteLoad (id : Nat) (m : Mach) : Mach :=
  match m.request id opLoad with
  | none => m
  | some k =>
    let off := gaOffset k.addr
    let n := k.len
    let fail := fun c => m.answer id c 0 []
    let small := n == 4 || n == 8
    match gaSpace k.addr with
    | 0 =>
      if k.misaligned ∨ m.ddrReachable off n = false ∨ m.rangeLost off n then fail ocAddr
      else
        let held := m.rangeHeld off n
        let m := (m.takePacket id (linesOf off n).length).ddrPostRead (.remote id) none off n
        if held then m else m.passOn id
    | 1 =>
      if k.misaligned ∨ m.slabExists off n = false then fail ocAddr
      else
        let parts := linesOf off n
        let m := (m.takePacket id parts.length).passOn id
        parts.foldl (fun m p => m.slabPost (spStn off) (spBay off)
          { order := 4, user := .remote id, addr := spAddr p.1, len := p.2, due := m.now, arc := true }) m
    | 2 =>
      match m.tokenAt off with
      | none => fail ocAddr
      | some (st, t) =>
        if small = false ∨ k.misaligned then fail ocAddr
        else m.loadToken id st t
    | 3 =>
      match m.counterRequest id with
      | none => fail ocAddr
      | some (c, _) => m.counterGo id c k
    | 4 =>
      if m.regDenied off 0 then fail ocDenied
      else if m.regAt off = false ∨ small = false ∨ off % n ≠ 0 then fail ocAddr
      else m.answer id ocOk 0 (toLe n ((m.bar0Read off n).getD 0))
    | _ => fail ocAddr

/-- REMOTE_STORE. -/
def effRemoteStore (id : Nat) (m : Mach) : Mach :=
  match m.request id opStore with
  | none => m
  | some k =>
    let off := gaOffset k.addr
    let n := k.data.length
    let fail := fun c => m.answer id c 0 []
    let small := n == 4 || n == 8
    match gaSpace k.addr with
    | 0 =>
      if k.misaligned ∨ m.ddrReachable off n = false ∨ m.rangeLost off n then fail ocAddr
      else
        let held := m.rangeHeld off n
        let m := (m.takePacket id (linesOf off n).length).ddrPostWrite (.remote id) none off k.data
        if held then m else m.passOn id
    | 1 =>
      if k.misaligned ∨ m.slabExists off n = false ∨ off % 4 ≠ 0 ∨ n % 4 ≠ 0 then fail ocAddr
      else
        let parts := linesOf off n
        let m := (m.takePacket id parts.length).passOn id
        parts.foldl (fun m p => m.slabPost (spStn off) (spBay off)
          { order := 4, user := .remote id, write := true, addr := spAddr p.1, len := p.2
            words := lineWords [(p.1, slice k.data (p.1 - off) p.2)], due := m.now, arc := true }) m
    | 3 =>
      match m.counterRequest id with
      | none => fail ocAddr
      | some (c, _) => m.counterGo id c k
    | 4 =>
      if m.regDenied off 1 then fail ocDenied
      else if m.regAt off = false ∨ small = false ∨ off % n ≠ 0 then fail ocAddr
      else (m.bar0Write off n (leNat k.data 0 n)).answer id ocOk 0 []
    | _ => fail ocAddr

/-- A message for a queue of a station goes to its station router, if a running consist has the station and the queue is of
a kind that takes messages; otherwise it is refused (Table 10.7, R337). -/
def Mach.deliverRemote (m : Mach) (id : Nat) (k : Packet) (combine : Bool) : Mach :=
  let a := k.addr % 2 ^ 46
  let st := bits a 15 12
  let q0 := bits a 11 0
  let idx := bits a 21 16
  let fail := m.answer id ocRefused 0 []
  if 2 ^ 22 ≤ a ∨ (combine = false ∧ idx ≠ 0) ∨ m.stations ≤ st then fail
  else
    m.inQueue st q0 fun m =>
      let refuse := (m.stat (Reg.qRefused st) 1).answer id ocRefused 0 []
      let runs := match m.stnJob st with
        | some (_, j) => j.started && j.phase == .running
        | none => false
      let d := m.qdesc st q0
      let q := if combine then d.srcQ + idx else q0
      let takes := if combine then d.combines && decide (idx < d.senders) else d.kind == 1 || d.kind == 2
      if runs = false ∨ takes = false then refuse
      else
        let m := m.takePacket id 1
        m.modQueue st q fun x => { x with
          reqs := x.reqs ++ [{ due := m.now, arc := true, key := 8, router := true, st := bits k.ctx 19 16, pkt := some id
                               len := k.data.length, bytes := k.data }] }

/-- REMOTE_MESSAGE. -/
def effRemoteMessage (id : Nat) (m : Mach) : Mach :=
  match m.request id opMessage with
  | none => m
  | some k => m.deliverRemote id k false

/-- REMOTE_COMBINE: the contribution goes to the input that its sender index names (R188). -/
def effRemoteCombine (id : Nat) (m : Mach) : Mach :=
  match m.request id opCombine with
  | none => m
  | some k => m.deliverRemote id k true

/-! ### Back at the source (R278, R281 to R283) -/

/-- The entry that a response or acknowledgement answers. -/
def Mach.remFor (m : Mach) (k : Packet) : Option (Nat × RemEntry) :=
  m.dev.rem.find? fun (e : Nat × RemEntry) => e.1 % 65536 == k.tag && e.2.addr == k.addr && isWriteOp e.2.op == (k.op == opAck)

/-- Frees an entry. -/
def Mach.dropRem (m : Mach) (key : Nat) : Mach := { m with dev := { m.dev with rem := fdel m.dev.rem key } }

/-- The value that an operation of the signal box writes to sD. -/
def remValue (e : RemEntry) (k : Packet) : Nat :=
  if k.status ≠ ocOk then 0
  else if e.op = opLoad then
    let v := if k.data.isEmpty then k.arg.toNat else leNat k.data 0 e.size
    v % 2 ^ (8 * e.size)
  else k.arg.toNat

/-- An operation of the signal box ends (R281). -/
def Mach.sbResponse (m : Mach) (st tag : Nat) (e : RemEntry) (k : Packet) : Mach :=
  m.inJob st e.job fun m =>
    let m :=
      if k.status = ocOk then m
      else
        let r := Reg.rmtStatus st
        let m := ((m.setField r 0 0 1).setField r 3 1 k.status).setRaw (Reg.rmtErrAddr st) e.addr
        m.event { addr := r, bit := 0, info := e.addr % 2 ^ 32 }
    if (m.sb st).wait = .remote tag ∧ (m.stn st).job = some e.job then
      let m := m.clearStall e.job (sbUnit st) noQueue
      let m := m.modSb st fun s =>
        let s := { s with wait := .none }
        if e.op = opWait then s else s.setReg e.rd (remValue e k) (m.cyc st)
      m.sbWaited st
    else m

/-- An operation of an engine ends: a store has taken effect, a line has come, or the engine fails under Table 9.3. -/
def Mach.engResponse (m : Mach) (st tag : Nat) (e : RemEntry) (k : Packet) : Mach :=
  let n := e.unit - 1
  let key := st * 65536 + tag
  if e.op = opStore then
    if k.status = ocOk then (m.engStored st n e.piece).engPump st n
    else m.engPieceFail e.job st n e.piece causeRemote (some e.addr)
  else if e.fill then
    match ffind m.dev.fills key with
    | none => m
    | some f =>
      if k.status = ocOk then
        { m with dev := { m.dev with fills := fput m.dev.fills key { f with data := some (padTo 128 k.data) } } }
      else
        let m := { m with dev := { m.dev with fills := fdel m.dev.fills key } }
        f.waiters.foldl (fun m w => m.engPieceFail (m.engine st w.1).job st w.1 w.2 causeRemote (some e.addr)) m
  else if k.status = ocOk then (m.engData st n e.piece e.addr (padTo 128 k.data) m.now true).engPump st n
  else m.engPieceFail e.job st n e.piece causeRemote (some e.addr)

/-- REMOTE_RESPONSE: the entry is freed and its unit takes the outcome. One that comes after its entry timed out is
discarded and counted (R283). -/
def effRemoteResponse (id : Nat) (m : Mach) : Mach :=
  match ffind m.dev.pkts id with
  | none => m
  | some k =>
    if k.arrived = false ∨ k.cls = 0 ∨ m.pktHead id k = false then m
    else
      let m := m.dropPacket id
      match m.remFor k with
      | none => m.stat Reg.epLate 1
      | some (key, e) =>
        let m := m.dropRem key
        let st := key / 65536
        if e.unit = 0 then m.sbResponse st (key % 65536) e k
        else m.inJob st e.job fun m => m.engResponse st (key % 65536) e k

/-- REMOTE_TIMEOUT: the timer of an entry has expired. Its unit faults and stops; where the job's record already waits for
the entry, or the job has ended, only EP_TIMEOUTS advances (R283, R385). -/
def effRemoteTimeout (st tag : Nat) (m : Mach) : Mach :=
  let key := st * 65536 + tag
  match ffind m.dev.rem key with
  | none => m
  | some e =>
    if 65536 ≤ tag ∨ m.now < e.issued + e.limit then m
    else
      let m := (m.dropRem key).stat Reg.epTimeouts 1
      let m := { m with dev := { m.dev with fills := if e.fill then fdel m.dev.fills key else m.dev.fills } }
      match m.job e.job with
      | none => m
      | some j =>
        if j.phase == .finishing || j.phase == .ended then m
        else
          m.inJob st e.job fun m =>
            if e.unit = 0 then
              let m := if (m.stn st).job = some e.job then m.modSb st fun s => { s with running := false, wait := .none } else m
              (m.unwait (sbUnit st)).fault 8 (sbUnit st) (some e.job) e.addr
            else
              let n := e.unit - 1
              let m := if (m.engine st n).job = e.job then (m.modEngine st n fun x => { x with halted := true }).engRest st n
                else m
              m.fault 8 (engUnit st n) (some e.job) e.addr

/-! ### The commands -/

def execSbRld (st : Nat) (s : State) := act .run (.sbRld st) s (effSbRld st)
def execSbRst (st : Nat) (s : State) := act .run (.sbRst st) s (effSbRst st)
def execSbRsig (st : Nat) (s : State) := act .run (.sbRsig st) s (effSbRsig st)
def execSbRwait (st : Nat) (s : State) := act .run (.sbRwait st) s (effSbRwait st)
def execSbRtkt (st : Nat) (s : State) := act .run (.sbRtkt st) s (effSbRtkt st)
def execSbRmsg (st : Nat) (s : State) := act .run (.sbRmsg st) s (effSbRmsg st)
def execSbRstat (st : Nat) (s : State) := act .run (.sbRstat st) s (effSbRstat st)
def execRemoteLoad (pkt : Nat) (s : State) := act .run (.remoteLoad pkt) s (effRemoteLoad pkt)
def execRemoteStore (pkt : Nat) (s : State) := act .run (.remoteStore pkt) s (effRemoteStore pkt)
def execRemoteMessage (pkt : Nat) (s : State) := act .run (.remoteMessage pkt) s (effRemoteMessage pkt)
def execRemoteCombine (pkt : Nat) (s : State) := act .run (.remoteCombine pkt) s (effRemoteCombine pkt)
def execRemoteResponse (pkt : Nat) (s : State) := act .run (.remoteResponse pkt) s (effRemoteResponse pkt)
def execRemoteTimeout (st tag : Nat) (s : State) := act .run (.remoteTimeout st tag) s (effRemoteTimeout st tag)

end Sys2Proof.Machine
end

