-- ==== Sys2Proof/Machine/Dispatch.lean ====
section
/-! DEFINITION. One arm for each command: a direct call of its meaning. -/

namespace Sys2Proof.Machine
open Sys2Proof

/-- The effect of a command on everything but the queue of waiting commands. -/
def exec (i : Instr) (s : State) : Host.Outcome State Fault Refusal :=
  match i with
  | .negotiate ring => Sys2Proof.Machine.execNegotiate ring s
  | .identify ring => Sys2Proof.Machine.execIdentify ring s
  | .loadFirmware ring image => Sys2Proof.Machine.execLoadFirmware ring image s
  | .loadConsist ring image pass2 patch => Sys2Proof.Machine.execLoadConsist ring image pass2 patch s
  | .loadPartial ring image => Sys2Proof.Machine.execLoadPartial ring image s
  | .unloadConsist ring => Sys2Proof.Machine.execUnloadConsist ring s
  | .setTimetable ring image => Sys2Proof.Machine.execSetTimetable ring image s
  | .submitJob ring args => Sys2Proof.Machine.execSubmitJob ring args s
  | .cancelJob ring => Sys2Proof.Machine.execCancelJob ring s
  | .releaseResult ring => Sys2Proof.Machine.execReleaseResult ring s
  | .dumpTokens ring => Sys2Proof.Machine.execDumpTokens ring s
  | .readCounters ring offsets => Sys2Proof.Machine.execReadCounters ring offsets s
  | .startMaintenance ring => Sys2Proof.Machine.execStartMaintenance ring s
  | .stopMaintenance ring => Sys2Proof.Machine.execStopMaintenance ring s
  | .sampleScratchpad ring => Sys2Proof.Machine.execSampleScratchpad ring s
  | .resetDomain ring => Sys2Proof.Machine.execResetDomain ring s
  | .portClose ring => Sys2Proof.Machine.execPortClose ring s
  | .portOpen ring => Sys2Proof.Machine.execPortOpen ring s
  | .attest ring nonce => Sys2Proof.Machine.execAttest ring nonce s
  | .lifecycleAdvance ring record => Sys2Proof.Machine.execLifecycleAdvance ring record s
  | .wipe ring => Sys2Proof.Machine.execWipe ring s
  | .commandFetch ring packet => Sys2Proof.Machine.execCommandFetch ring packet s
  | .doorbellWrite ring value => Sys2Proof.Machine.execDoorbellWrite ring value s
  | .ringCtrlWrite ring value => Sys2Proof.Machine.execRingCtrlWrite ring value s
  | .evqCtrlWrite value => Sys2Proof.Machine.execEvqCtrlWrite value s
  | .evqHeadWrite value => Sys2Proof.Machine.execEvqHeadWrite value s
  | .faultHeadWrite value => Sys2Proof.Machine.execFaultHeadWrite value s
  | .release => Sys2Proof.Machine.execRelease s
  | .burn value => Sys2Proof.Machine.execBurn value s
  | .burnDone => Sys2Proof.Machine.execBurnDone s
  | .revoke value => Sys2Proof.Machine.execRevoke value s
  | .tkoValueWrite k value => Sys2Proof.Machine.execTkoValueWrite k value s
  | .coPwrCapWrite value => Sys2Proof.Machine.execCoPwrCapWrite value s
  | .epTopologyWrite which value => Sys2Proof.Machine.execEpTopologyWrite which value s
  | .secBootDeadlineWrite value => Sys2Proof.Machine.execSecBootDeadlineWrite value s
  | .registerWrite bar offset size value => Sys2Proof.Machine.execRegisterWrite bar offset size value s
  | .muClrSat st bay => Sys2Proof.Machine.execMuClrSat st bay s
  | .muClrCe st bay => Sys2Proof.Machine.execMuClrCe st bay s
  | .vuClrSat st vu => Sys2Proof.Machine.execVuClrSat st vu s
  | .vuClrNan st vu => Sys2Proof.Machine.execVuClrNan st vu s
  | .vuClrAmax st vu => Sys2Proof.Machine.execVuClrAmax st vu s
  | .slabClrCe st bay => Sys2Proof.Machine.execSlabClrCe st bay s
  | .slabClrUe st bay => Sys2Proof.Machine.execSlabClrUe st bay s
  | .slabClrConf st bay => Sys2Proof.Machine.execSlabClrConf st bay s
  | .slabClrUnsched st bay => Sys2Proof.Machine.execSlabClrUnsched st bay s
  | .ptClrOvf st bay => Sys2Proof.Machine.execPtClrOvf st bay s
  | .ptClrBadtag st bay => Sys2Proof.Machine.execPtClrBadtag st bay s
  | .qClrLenerr st => Sys2Proof.Machine.execQClrLenerr st s
  | .qClrSat st => Sys2Proof.Machine.execQClrSat st s
  | .qClrLeftover st => Sys2Proof.Machine.execQClrLeftover st s
  | .qClrRefused st => Sys2Proof.Machine.execQClrRefused st s
  | .qClrQsel st => Sys2Proof.Machine.execQClrQsel st s
  | .tkClrLost st => Sys2Proof.Machine.execTkClrLost st s
  | .tkoClrPlain => Sys2Proof.Machine.execTkoClrPlain s
  | .meClrMerged st mask => Sys2Proof.Machine.execMeClrMerged st mask s
  | .meClrRls st => Sys2Proof.Machine.execMeClrRls st s
  | .dmClrCe ch => Sys2Proof.Machine.execDmClrCe ch s
  | .dmClrUe ch => Sys2Proof.Machine.execDmClrUe ch s
  | .dmClrTt ch => Sys2Proof.Machine.execDmClrTt ch s
  | .epClrTimeouts => Sys2Proof.Machine.execEpClrTimeouts s
  | .epClrLate => Sys2Proof.Machine.execEpClrLate s
  | .epClrTarget => Sys2Proof.Machine.execEpClrTarget s
  | .epClrErr port => Sys2Proof.Machine.execEpClrErr port s
  | .epClrDiscard port => Sys2Proof.Machine.execEpClrDiscard port s
  | .ilClrRefusals => Sys2Proof.Machine.execIlClrRefusals s
  | .ttClrStable => Sys2Proof.Machine.execTtClrStable s
  | .ttClrAbort => Sys2Proof.Machine.execTtClrAbort s
  | .ttClrMiss => Sys2Proof.Machine.execTtClrMiss s
  | .coClrBar2 => Sys2Proof.Machine.execCoClrBar2 s
  | .coClrEvlost => Sys2Proof.Machine.execCoClrEvlost s
  | .gangClrRepairs => Sys2Proof.Machine.execGangClrRepairs s
  | .gangClrVotes => Sys2Proof.Machine.execGangClrVotes s
  | .faultClrLost => Sys2Proof.Machine.execFaultClrLost s
  | .faultClrDrain => Sys2Proof.Machine.execFaultClrDrain s
  | .cdcClrOverruns => Sys2Proof.Machine.execCdcClrOverruns s
  | .cdcClrTimeouts => Sys2Proof.Machine.execCdcClrTimeouts s
  | .bar2Read addr len => Sys2Proof.Machine.execBar2Read addr len s
  | .bar2Write addr data => Sys2Proof.Machine.execBar2Write addr data s
  | .pcieConfigRequest write reg value => Sys2Proof.Machine.execPcieConfigRequest write reg value s
  | .sbNop st => Sys2Proof.Machine.execSbNop st s
  | .sbEnd st => Sys2Proof.Machine.execSbEnd st s
  | .sbJmp st => Sys2Proof.Machine.execSbJmp st s
  | .sbBnz st => Sys2Proof.Machine.execSbBnz st s
  | .sbLoop st => Sys2Proof.Machine.execSbLoop st s
  | .sbLi st => Sys2Proof.Machine.execSbLi st s
  | .sbLih st => Sys2Proof.Machine.execSbLih st s
  | .sbAlu st => Sys2Proof.Machine.execSbAlu st s
  | .sbFpu st => Sys2Proof.Machine.execSbFpu st s
  | .sbRecv st => Sys2Proof.Machine.execSbRecv st s
  | .sbSend st => Sys2Proof.Machine.execSbSend st s
  | .sbCtl st => Sys2Proof.Machine.execSbCtl st s
  | .sbMugo st => Sys2Proof.Machine.execSbMugo st s
  | .sbVugo st => Sys2Proof.Machine.execSbVugo st s
  | .sbJoin st => Sys2Proof.Machine.execSbJoin st s
  | .sbSig st => Sys2Proof.Machine.execSbSig st s
  | .sbWait st => Sys2Proof.Machine.execSbWait st s
  | .sbFence st => Sys2Proof.Machine.execSbFence st s
  | .sbTkrd st => Sys2Proof.Machine.execSbTkrd st s
  | .sbTicket st => Sys2Proof.Machine.execSbTicket st s
  | .sbTkld st => Sys2Proof.Machine.execSbTkld st s
  | .sbTkst st => Sys2Proof.Machine.execSbTkst st s
  | .sbMgo st => Sys2Proof.Machine.execSbMgo st s
  | .sbMgor st => Sys2Proof.Machine.execSbMgor st s
  | .sbMjoin st => Sys2Proof.Machine.execSbMjoin st s
  | .sbMstat st => Sys2Proof.Machine.execSbMstat st s
  | .sbRld st => Sys2Proof.Machine.execSbRld st s
  | .sbRst st => Sys2Proof.Machine.execSbRst st s
  | .sbRsig st => Sys2Proof.Machine.execSbRsig st s
  | .sbRwait st => Sys2Proof.Machine.execSbRwait st s
  | .sbRtkt st => Sys2Proof.Machine.execSbRtkt st s
  | .sbRmsg st => Sys2Proof.Machine.execSbRmsg st s
  | .sbRstat st => Sys2Proof.Machine.execSbRstat st s
  | .sbStop st => Sys2Proof.Machine.execSbStop st s
  | .sbMilepost st => Sys2Proof.Machine.execSbMilepost st s
  | .unitCompletionSeen st kind unit => Sys2Proof.Machine.execUnitCompletionSeen st kind unit s
  | .muStart st bay => Sys2Proof.Machine.execMuStart st bay s
  | .weightBlockLoad st bay => Sys2Proof.Machine.execWeightBlockLoad st bay s
  | .rowIssue st bay => Sys2Proof.Machine.execRowIssue st bay s
  | .accumulatorUpdate st bay => Sys2Proof.Machine.execAccumulatorUpdate st bay s
  | .slotDrain st bay => Sys2Proof.Machine.execSlotDrain st bay s
  | .vuStart st vu => Sys2Proof.Machine.execVuStart st vu s
  | .vuNop st vu => Sys2Proof.Machine.execVuNop st vu s
  | .vuCopy st vu => Sys2Proof.Machine.execVuCopy st vu s
  | .vuAdd st vu => Sys2Proof.Machine.execVuAdd st vu s
  | .vuSub st vu => Sys2Proof.Machine.execVuSub st vu s
  | .vuMul st vu => Sys2Proof.Machine.execVuMul st vu s
  | .vuFma st vu => Sys2Proof.Machine.execVuFma st vu s
  | .vuMin st vu => Sys2Proof.Machine.execVuMin st vu s
  | .vuMax st vu => Sys2Proof.Machine.execVuMax st vu s
  | .vuAbs st vu => Sys2Proof.Machine.execVuAbs st vu s
  | .vuNeg st vu => Sys2Proof.Machine.execVuNeg st vu s
  | .vuCmplt st vu => Sys2Proof.Machine.execVuCmplt st vu s
  | .vuSel st vu => Sys2Proof.Machine.execVuSel st vu s
  | .vuDiv st vu => Sys2Proof.Machine.execVuDiv st vu s
  | .vuSqrt st vu => Sys2Proof.Machine.execVuSqrt st vu s
  | .vuRcp st vu => Sys2Proof.Machine.execVuRcp st vu s
  | .vuRcpe st vu => Sys2Proof.Machine.execVuRcpe st vu s
  | .vuRsqe st vu => Sys2Proof.Machine.execVuRsqe st vu s
  | .vuExp st vu => Sys2Proof.Machine.execVuExp st vu s
  | .vuLog st vu => Sys2Proof.Machine.execVuLog st vu s
  | .vuRowsum st vu => Sys2Proof.Machine.execVuRowsum st vu s
  | .vuRowmax st vu => Sys2Proof.Machine.execVuRowmax st vu s
  | .vuRowamax st vu => Sys2Proof.Machine.execVuRowamax st vu s
  | .vuCvt st vu => Sys2Proof.Machine.execVuCvt st vu s
  | .vuScalesel st vu => Sys2Proof.Machine.execVuScalesel st vu s
  | .vuResultWrite st vu => Sys2Proof.Machine.execVuResultWrite st vu s
  | .elasticResultDue st => Sys2Proof.Machine.execElasticResultDue st s
  | .slabAccess st bay => Sys2Proof.Machine.execSlabAccess st bay s
  | .slabScrubRead st => Sys2Proof.Machine.execSlabScrubRead st s
  | .messageOffer st bay route => Sys2Proof.Machine.execMessageOffer st bay route s
  | .admissionRequest st q => Sys2Proof.Machine.execAdmissionRequest st q s
  | .admission st q => Sys2Proof.Machine.execAdmission st q s
  | .admissionGrant st bay route => Sys2Proof.Machine.execAdmissionGrant st bay route s
  | .wordSend st bay route => Sys2Proof.Machine.execWordSend st bay route s
  | .wordArrival st q => Sys2Proof.Machine.execWordArrival st q s
  | .queueRead st q => Sys2Proof.Machine.execQueueRead st q s
  | .pointsDecision st bay entry => Sys2Proof.Machine.execPointsDecision st bay entry s
  | .epochEnd st bay entry => Sys2Proof.Machine.execEpochEnd st bay entry s
  | .combination st q => Sys2Proof.Machine.execCombination st q s
  | .freezeBegin job => Sys2Proof.Machine.execFreezeBegin job s
  | .freezeEnd job => Sys2Proof.Machine.execFreezeEnd job s
  | .quorumFire job => Sys2Proof.Machine.execQuorumFire job s
  | .spillDone job => Sys2Proof.Machine.execSpillDone job s
  | .tokenOpArrival st slot => Sys2Proof.Machine.execTokenOpArrival st slot s
  | .waiterWake st => Sys2Proof.Machine.execWaiterWake st s
  | .ticketRequestArrival k => Sys2Proof.Machine.execTicketRequestArrival k s
  | .ticketReply st => Sys2Proof.Machine.execTicketReply st s
  | .engineStart st e => Sys2Proof.Machine.execEngineStart st e s
  | .engineRequest st e => Sys2Proof.Machine.execEngineRequest st e s
  | .rlsFill st tag => Sys2Proof.Machine.execRlsFill st tag s
  | .descriptorComplete st e => Sys2Proof.Machine.execDescriptorComplete st e s
  | .ddrRequest ch => Sys2Proof.Machine.execDdrRequest ch s
  | .ddrReadData ch => Sys2Proof.Machine.execDdrReadData ch s
  | .ddrReorderServe ch pick => Sys2Proof.Machine.execDdrReorderServe ch pick s
  | .refreshGap ch rank => Sys2Proof.Machine.execRefreshGap ch rank s
  | .ddrWriteBack ch => Sys2Proof.Machine.execDdrWriteBack ch s
  | .ddrScrubRead ch => Sys2Proof.Machine.execDdrScrubRead ch s
  | .ddrRetrainDone ch => Sys2Proof.Machine.execDdrRetrainDone ch s
  | .ddrTrainingDone trained capacity => Sys2Proof.Machine.execDdrTrainingDone trained capacity s
  | .portTrainingDone port => Sys2Proof.Machine.execPortTrainingDone port s
  | .ident port device torus dir versions => Sys2Proof.Machine.execIdent port device torus dir versions s
  | .noSignal port => Sys2Proof.Machine.execNoSignal port s
  | .hostReadCompletion tag data => Sys2Proof.Machine.execHostReadCompletion tag data s
  | .completionTimeout tag => Sys2Proof.Machine.execCompletionTimeout tag s
  | .flitReceive port flit fec => Sys2Proof.Machine.execFlitReceive port flit fec s
  | .nak port seq => Sys2Proof.Machine.execNak port seq s
  | .linkAckDue port => Sys2Proof.Machine.execLinkAckDue port s
  | .laneLockLoss port => Sys2Proof.Machine.execLaneLockLoss port s
  | .ackTimeout port => Sys2Proof.Machine.execAckTimeout port s
  | .retrainAttemptDone port ok => Sys2Proof.Machine.execRetrainAttemptDone port ok s
  | .packetTransit pkt => Sys2Proof.Machine.execPacketTransit pkt s
  | .remoteLoad pkt => Sys2Proof.Machine.execRemoteLoad pkt s
  | .remoteStore pkt => Sys2Proof.Machine.execRemoteStore pkt s
  | .remoteMessage pkt => Sys2Proof.Machine.execRemoteMessage pkt s
  | .remoteCombine pkt => Sys2Proof.Machine.execRemoteCombine pkt s
  | .remoteTokenSignal pkt => Sys2Proof.Machine.execRemoteTokenSignal pkt s
  | .remoteTokenWait pkt => Sys2Proof.Machine.execRemoteTokenWait pkt s
  | .remoteTicketFetch pkt => Sys2Proof.Machine.execRemoteTicketFetch pkt s
  | .remoteResponse pkt => Sys2Proof.Machine.execRemoteResponse pkt s
  | .remoteTimeout st tag => Sys2Proof.Machine.execRemoteTimeout st tag s
  | .portDrainDone port => Sys2Proof.Machine.execPortDrainDone port s
  | .slotBoundary => Sys2Proof.Machine.execSlotBoundary s
  | .runEnd job => Sys2Proof.Machine.execRunEnd job s
  | .installationStart job => Sys2Proof.Machine.execInstallationStart job s
  | .installFrameWrite job => Sys2Proof.Machine.execInstallFrameWrite job s
  | .bayPlaneSwitch st bay => Sys2Proof.Machine.execBayPlaneSwitch st bay s
  | .vuPlaneSwitch st vu => Sys2Proof.Machine.execVuPlaneSwitch st vu s
  | .sbPlaneTakeup st => Sys2Proof.Machine.execSbPlaneTakeup st s
  | .consistTimeZero job => Sys2Proof.Machine.execConsistTimeZero job s
  | .jobEnd job => Sys2Proof.Machine.execJobEnd job s
  | .completionRecord job => Sys2Proof.Machine.execCompletionRecord job s
  | .quiescence job => Sys2Proof.Machine.execQuiescence job s
  | .stablingDone job => Sys2Proof.Machine.execStablingDone job s
  | .restoreDone job => Sys2Proof.Machine.execRestoreDone job s
  | .jobFaultStop job => Sys2Proof.Machine.execJobFaultStop job s
  | .drainForced fn st unit => Sys2Proof.Machine.execDrainForced fn st unit s
  | .eventTaken => Sys2Proof.Machine.execEventTaken s
  | .cdcOverrun far => Sys2Proof.Machine.execCdcOverrun far s
  | .cdcTimeout far idx => Sys2Proof.Machine.execCdcTimeout far idx s
  | .pllLockLoss far idx => Sys2Proof.Machine.execPllLockLoss far idx s
  | .sysclkLoss => Sys2Proof.Machine.execSysclkLoss s
  | .gangerFrameCheck => Sys2Proof.Machine.execGangerFrameCheck s
  | .stationWake st => Sys2Proof.Machine.execStationWake st s
  | .powerTransitionDone st => Sys2Proof.Machine.execPowerTransitionDone st s
  | .domainReset kind idx => Sys2Proof.Machine.execDomainReset kind idx s
  | .stationWipeDone st => Sys2Proof.Machine.execStationWipeDone st s
  | .coldReset => Sys2Proof.Machine.execColdReset s
  | .warmDeviceReset => Sys2Proof.Machine.execWarmDeviceReset s
  | .perstNDeassert => Sys2Proof.Machine.execPerstNDeassert s
  | .pcieHotReset => Sys2Proof.Machine.execPcieHotReset s
  | .bootDeadline => Sys2Proof.Machine.execBootDeadline s
  | .railExcursion => Sys2Proof.Machine.execRailExcursion s
  | .thermalTrip => Sys2Proof.Machine.execThermalTrip s
  | .sensorUpdate temps avg1 avg100 => Sys2Proof.Machine.execSensorUpdate temps avg1 avg100 s
  | .i3cPrivateWrite data => Sys2Proof.Machine.execI3cPrivateWrite data s
  | .i3cPrivateRead => Sys2Proof.Machine.execI3cPrivateRead s
  | .setdasa addr => Sys2Proof.Machine.execSetdasa addr s
  | .entdaa addr => Sys2Proof.Machine.execEntdaa addr s
  | .rstdaa => Sys2Proof.Machine.execRstdaa s
  | .enec events => Sys2Proof.Machine.execEnec events s
  | .disec events => Sys2Proof.Machine.execDisec events s
  | .getpid => Sys2Proof.Machine.execGetpid s
  | .getstatus => Sys2Proof.Machine.execGetstatus s
  | .samplePreload pins load => Sys2Proof.Machine.execSamplePreload pins load s
  | .bypass => Sys2Proof.Machine.execBypass s
  | .idcode => Sys2Proof.Machine.execIdcode s
  | .extest => Sys2Proof.Machine.execExtest s
  | .lossOfPower => Sys2Proof.Machine.execLossOfPower s
  | .linkEntryIntoL0 => Sys2Proof.Machine.execLinkEntryIntoL0 s

end Sys2Proof.Machine
end

