-- ==== Sys2Proof/Safety.lean ====
section
/-! DEFINITION. The terms that claims are stated in: what a state reads as, when the block can carry a command out, what
a safe step is, and the named changes of a state that commands make. -/

namespace Sys2Proof.Machine
open Sys2Proof

/-! ### Reading a state -/

/-- The machine as a command finds it. -/
def State.view (s : State) : Mach := { mem := s.mem, dev := s.dev }

/-- The stored bits of a register, by BAR0 offset. -/
def State.reg (s : State) (o : Nat) : Nat := (storeGet regReset s.mem.regs o).toNat
/-- A byte of the scratchpad and of DDR space. -/
def State.slabAt (s : State) (a : Nat) : Byte := storeGet memReset s.mem.slab a
def State.ddrAt (s : State) (a : Nat) : Byte := storeGet memReset s.mem.ddr a
/-- A word of plane storage. -/
def State.planeAt (s : State) (k : Nat) : Nat := (storeGet planeReset s.mem.plane k).toNat

/-- The state that a command leaves which made the machine `m` of the state `s`: its writes are committed. -/
def State.after (s : State) (m : Mach) : State := { mem := s.mem.commit m.log, dev := m.dev, pending := s.pending }

/-! ### What a command leaves alone -/

/-- The scratchpad, DDR space, the planes, every register but those of `l`, and the queue of commands read as before. -/
def State.KeepsBut (s t : State) (l : List Nat) : Prop :=
  (∀ o, o ∉ l → t.reg o = s.reg o) ∧ (∀ a, t.slabAt a = s.slabAt a) ∧ (∀ a, t.ddrAt a = s.ddrAt a) ∧
    (∀ k, t.planeAt k = s.planeAt k) ∧ t.pending = s.pending

/-- `t` is `s` but for the registers of `l`, which read the values given there. -/
def State.RegsBecome (s t : State) (l : List (Nat × Nat)) : Prop :=
  s.KeepsBut t (l.map (·.1)) ∧ ∀ p ∈ l, t.reg p.1 = p.2

/-! ### When a command can act -/

/-- The device has a defined state, is powered and out of PERST_N, and its clocks run. -/
abbrev State.Ready (s : State) : Prop := s.dev.clk.undef = false ∧ s.dev.runs .run = true

/-- The device has a defined state and is powered: what the always-on domain needs. -/
abbrev State.Powered (s : State) : Prop := s.dev.clk.undef = false ∧ s.dev.clk.powered = true

/-- What a command needs, by its constructor: power or its loss, the always-on domain, or the running device. -/
def needOf : Instr → Need
  | .coldReset | .lossOfPower => .always
  | .perstNDeassert | .railExcursion | .sysclkLoss | .thermalTrip | .warmDeviceReset | .sensorUpdate _ _ _
  | .i3cPrivateWrite _ | .i3cPrivateRead | .setdasa _ | .entdaa _ | .rstdaa | .enec _ | .disec _ | .getpid | .getstatus
  | .samplePreload _ _ | .bypass | .idcode | .extest => .aon
  | _ => .run

/-- No request for ticket counter `k` has reached it and not been decided. -/
abbrev State.CounterQuiet (s : State) (k : Nat) : Prop :=
  s.view.ticketsAt k = [] ∧ ∀ e ∈ s.dev.pkts, ∀ x, s.view.counterRequest e.1 = some x → x.1 ≠ k

/-! ### Commands of the rings -/

/-- Command `c` of an opcode is in progress on ring `r`, has not begun, need not wait for one that was fetched before,
passes the gates, and can answer. -/
abbrev State.Serves (s : State) (r op : Nat) (c : Cmd) : Prop :=
  (s.view.ring r).cmd = some c ∧ c.opcode = op ∧ c.begun = false ∧ s.view.waitsTurn r c = false ∧
    s.view.gate op = none ∧ s.view.busMaster = true

/-- The command `c` of ring `r` has been answered (R349): the ring is free, every other ring is as it was, and after the
outputs `made` (newest first) the reply went out as its two posted writes, followed by the ring's vector at most. -/
def State.Replied (s t : State) (r : Nat) (c : Cmd) (made : List Output) (status detail value : Nat) : Prop :=
  let a := s.reg (Reg.ringRplBase r) + 32 * c.entry
  (t.view.ring r).cmd = none ∧ (∀ r', r' ≠ r → t.view.ring r' = s.view.ring r') ∧
    bit (t.reg (Reg.ringStatus r)) 12 = false ∧
    ∃ vec, (c.irq = false → vec = []) ∧ (∀ o ∈ vec, o = Output.msix (bits (s.reg (Reg.ringCtrl r)) 10 5)) ∧
      t.dev.out = vec ++
        [.hostWrite (a + 28) (toLe 4 (pack [(0, 12, c.entry), (31, 1, b2n (bit (t.reg (Reg.ringStatus r)) 13))])),
          .hostWrite a (toLe 2 status ++ toLe 2 c.opcode ++ toLe 4 c.tag ++ toLe 8 detail ++ toLe 8 value ++ zeros 4)] ++
        made ++ s.dev.out

/-- Beside the reply's own marks and the registers of `l`, nothing has changed. -/
def State.RepliesAlone (s t : State) (r : Nat) (l : List Nat) : Prop :=
  s.KeepsBut t (Reg.ringStatus r :: l) ∧
    t.dev = { s.dev with
      host := { s.dev.host with rings := t.dev.host.rings, msixPend := t.dev.host.msixPend }
      out := t.dev.out }

/-! ### Instructions of a signal box -/

/-- The signal box of a station issues the instruction `i` for the job `j` of handle `h`: the job's units act, the program
runs and waits for nothing, its last issue is old enough, none of its sends is held, and every register of `reads` may be
used (R152). -/
abbrev State.Issues (s : State) (st h : Nat) (j : Job) (i : Nat) (reads : List Nat) : Prop :=
  let b := s.view.sb st
  s.view.liveJob st = some (h, j) ∧ b.running = true ∧ b.wait = .none ∧ b.next ≤ j.cyc ∧ s.view.sbInstr st b.pc = i ∧
    s.view.senderBlocked st sbBay (sbUnit st) = false ∧ ∀ r ∈ reads, r = 0 ∨ fget 0 b.ready r ≤ j.cyc

/-- Beside results noted for an elastic run, nothing but the signal box of a station, which is now `b`, and its waits has
changed. -/
def State.SbBecomes (s t : State) (st : Nat) (b : SigBox) : Prop :=
  t.mem = s.mem ∧ t.pending = s.pending ∧
    t.view.stn st = { s.view.stn st with sb := b, work := true, late := (t.view.stn st).late } ∧
    (∀ n, n ≠ st → t.view.stn n = s.view.stn n) ∧
    (∀ k, k ≠ waitKey (sbUnit st) → ffind t.dev.waits k = ffind s.dev.waits k) ∧
    t.dev = { s.dev with stn := t.dev.stn, waits := t.dev.waits, age := t.dev.age }

/-- An instruction of a station's signal box is done: the next one is at `pc` and issues in consist cycle `next` at the
earliest; register `d` of `w` holds a new value, usable from a cycle on; the registers of `regs` become what is given
there; beside results noted for an elastic run and the cycle in which a flag was raised nothing else has changed. -/
def State.SbStep (s t : State) (st pc next : Nat) (w : Option (Nat × Nat × Nat)) (regs : List (Nat × Nat)) : Prop :=
  let b := s.view.sb st
  let b' := t.view.sb st
  b' = { b with pc := pc, next := next, regs := b'.regs, ready := b'.ready } ∧
    (∀ r, b'.reg r = match w with
      | some (d, v, _) => if r = d ∧ d ≠ 0 then v else b.reg r
      | none => b.reg r) ∧
    (∀ r, fget 0 b'.ready r = match w with
      | some (d, _, c) => if r = d ∧ d ≠ 0 then c else fget 0 b.ready r
      | none => fget 0 b.ready r) ∧
    s.RegsBecome t regs ∧
    t.view.stn st = { s.view.stn st with sb := b', work := true, late := (t.view.stn st).late } ∧
    (∀ n, n ≠ st → t.view.stn n = s.view.stn n) ∧
    (∀ k, k ≠ waitKey (sbUnit st) → ffind t.dev.waits k = ffind s.dev.waits k) ∧
    t.dev = { s.dev with stn := t.dev.stn, waits := t.dev.waits, age := t.dev.age, raised := t.dev.raised }

/-! ### Units that act for a station's present job -/

/-- A bay, a vector unit or a queue's home bay works for the present job of its station: no job before it, still ending
there, holds its plane (R327). -/
abbrev State.BayIsPresent (s : State) (st b : Nat) : Prop :=
  ((s.view.stn st).prev.any fun p => s.view.bayPlane st b == p.plane) = false
abbrev State.VuIsPresent (s : State) (st v : Nat) : Prop :=
  ((s.view.stn st).prev.any fun p => s.view.vuPlane st v == p.plane) = false
abbrev State.QueueIsPresent (s : State) (st q : Nat) : Prop :=
  ((s.view.stn st).prev.any fun p =>
    s.view.bayPlane st (bits (s.view.planeWord (planeKey st (s.view.stn st).plane kQd (4 * q))) 12 5) == p.plane) = false

/-! ### Heads of queues -/

/-- A receiver that takes the message at the head of a queue, whatever its storage, now gets the bytes and the valid bit, and
leaves the queue as `x` (R178, R194). -/
abbrev State.HeadHas (s : State) (st q : Nat) (bs : Bytes) (v : Bool) (x : Queue) : Prop :=
  (s.view.take st q).1 = some (bs, v) ∧ (s.view.take st q).2.queue st q = x

/-- No Matrix Unit and no vector unit takes a message at the head of one of these queues in this cycle (R171). -/
abbrev State.ArraysPass (s : State) (st : Nat) (qs : List Nat) : Prop := ∀ q ∈ qs, s.view.arrayWants st q = false

/-! ### Instructions of a vector unit -/

/-- The station, the vector unit and the OP of each command that issues a vector-unit instruction (Table 4.3). -/
def vuIssueOf : Instr → Option (Nat × Nat × Nat)
  | .vuNop st v => some (st, v, 0x00)
  | .vuCopy st v => some (st, v, 0x01)
  | .vuAdd st v => some (st, v, 0x02)
  | .vuSub st v => some (st, v, 0x03)
  | .vuMul st v => some (st, v, 0x04)
  | .vuFma st v => some (st, v, 0x05)
  | .vuMin st v => some (st, v, 0x06)
  | .vuMax st v => some (st, v, 0x07)
  | .vuAbs st v => some (st, v, 0x08)
  | .vuNeg st v => some (st, v, 0x09)
  | .vuCmplt st v => some (st, v, 0x0A)
  | .vuSel st v => some (st, v, 0x0B)
  | .vuDiv st v => some (st, v, 0x10)
  | .vuSqrt st v => some (st, v, 0x11)
  | .vuRcp st v => some (st, v, 0x12)
  | .vuRcpe st v => some (st, v, 0x13)
  | .vuRsqe st v => some (st, v, 0x14)
  | .vuExp st v => some (st, v, 0x15)
  | .vuLog st v => some (st, v, 0x16)
  | .vuRowsum st v => some (st, v, 0x18)
  | .vuRowmax st v => some (st, v, 0x19)
  | .vuRowamax st v => some (st, v, 0x1A)
  | .vuCvt st v => some (st, v, 0x20)
  | .vuScalesel st v => some (st, v, 0x21)
  | _ => none

/-- A vector unit issues its next elements now, in run state `r` of the job `j` of handle `h`: it works for the station's
present job, runs, has waited for what it must, its sends are not held, the lines of its slab sources have come, and it has
read the rows of its other sources, which made the machine `m`. -/
abbrev State.VuIssues (s : State) (st v h : Nat) (j : Job) (r : VuRun) (m : Mach) : Prop :=
  let u := s.view.vuOf st v
  let p := s.view.vuPlan st v r.inst
  s.VuIsPresent st v ∧ s.view.liveJob st = some (h, j) ∧ u.run = some r ∧ u.faulted = false ∧ u.ended = false ∧
    r.next ≤ j.cyc ∧ (s.view.vuMustWait j st v r = true → s.view.vuWriting st v = false ∧ u.lastWrite < j.cyc) ∧
    s.view.senderBlocked st (vuUnit st v).bay (vuUnit st v) = false ∧
    s.view.vuHasLines st v (p.upTo (r.tick + 1)) = true ∧
    s.view.vuReadRows h st v p r.elem (p.upTo (r.tick + 1)) = (true, m)

/-- A vector unit has put results on their way as the write `w`, where there is one, followed by a row sum's (`red`) at most.
Where the streams of its instruction overlap as R93 does not allow (`free`), the values, but not the empty places, are
open. -/
def State.VuSends (s t : State) (st v red : Nat) (w : VuWrite) (cells : List (Option W64)) (free : Bool) : Prop :=
  ∃ l extra, (t.view.vuOf st v).writes =
      (s.view.vuOf st v).writes ++ (if cells = [] then [] else [{ w with cells := l }]) ++ extra ∧
    (free = false → l = cells) ∧ l.map Option.isSome = cells.map Option.isSome ∧
    (red = 0 → extra = []) ∧ ∀ x ∈ extra, x.desc = red ∧ x.inst = w.inst ∧ w.due ≤ x.due

/-! ### The Ermus fabric -/

/-- Port `p` has gone to a state with a cause; its clock is recovered from TRAINING on, but not in RETRAIN (Table 17.1); of
the registers only the port's status, the marks of its event's crossing and those of `l` may have changed (R261, R262,
R436). -/
def State.PortGoes (s t : State) (p state cause : Nat) (l : List Nat) : Prop :=
  t.view.portState p = state ∧ bits (t.reg (Reg.portStatus p)) 5 3 = cause ∧
    bit t.dev.clk.fbclk p = (state == psTraining || state == psIdent || state == psUp || state == psDraining) ∧
    s.KeepsBut t (Reg.portStatus p :: Reg.cdcStatus :: Reg.cdcOverruns :: l)

/-- The PORT_OPEN or PORT_CLOSE that waits for port `p`, if one does, has been answered OK with a value (R262, R285). -/
def State.PortAnswers (s t : State) (p value : Nat) : Prop :=
  (t.view.ep p).ring = none ∧ ((s.view.ep p).ring = none → t.dev.out = s.dev.out) ∧
    ∀ r c, (s.view.ep p).ring = some r → (s.view.ring r).cmd = some c → s.view.busMaster = true →
      s.Replied t r c [] scOk 0 value

/-- The status register of the ring whose command waits for port `p`. -/
def State.portRing (s : State) (p : Nat) : List Nat := ((s.view.ep p).ring.toList).map Reg.ringStatus

/-- Packet `id`, a request `k`, has been answered: it is gone, and the next packet is its response or acknowledgement
(R280). -/
def State.AnsweredPacket (s t : State) (id : Nat) (k : Packet) (status arg : Nat) (data : Bytes) : Prop :=
  (id ≠ s.dev.pktNext → ffind t.dev.pkts id = none) ∧ t.dev.pktNext = s.dev.pktNext + 1 ∧
    ffind t.dev.pkts s.dev.pktNext = some
      { op := if isWriteOp k.op then opAck else opResponse, status := status, src := s.view.deviceId, dest := k.src
        ctx := k.ctx, addr := k.addr, tag := k.tag, len := data.length, arg := BitVec.ofNat 64 arg, data := data
        arrived := k.src == s.view.deviceId }

/-- A signal box has issued a remote operation to a device of the torus: the entry with its time limit, and the packet
that leaves (R274, R278, R282), and the waybill flag of its job (Table 14.1). -/
def State.IssuedRemote (s t : State) (st h : Nat) (e : RemEntry) (arg : Nat) (data : Bytes) (len : Nat) : Prop :=
  let us := bits (s.reg (if e.op = opWait then Reg.epTimeoutWait else Reg.epTimeoutAcc)) 19 0
  ffind t.dev.rem (st * 65536 + s.view.remTag) = some { e with
    job := h, issued := s.view.now, limit := (if us = 0 then 1048576 else us) * 1900, order := s.dev.remNext } ∧
  t.dev.remNext = s.dev.remNext + 1 ∧ t.dev.pktNext = s.dev.pktNext + 1 ∧
    ffind t.dev.pkts s.dev.pktNext = some
      { op := e.op, src := s.view.deviceId, dest := gaDevice e.addr, ctx := ctxId (some h) (sbUnit st), addr := e.addr
        tag := s.view.remTag, len := len, arg := BitVec.ofNat 64 arg, data := data
        arrived := gaDevice e.addr == s.view.deviceId } ∧
    ((t.view.job h).map fun j => bit j.flags fgRemote) = some true

/-! ### Jobs -/

/-- A job is the only one that the device has, and no timetable is in force or pending. -/
abbrev State.OnlyJob (s : State) (h : Nat) (j : Job) : Prop :=
  s.dev.jobs = [(h, j)] ∧ s.dev.tt.inForce = none ∧ s.dev.tt.pending = none

/-! ### Counters -/

/-- What a statistic counter reads after n more events (R64). -/
def statAfter : Nat → Nat → Nat
  | 0, x => x
  | n + 1, x => statAfter n (statBump x % 2 ^ 64)

/-! ### Safe steps -/

/-- A step that answers a next state: neither a fault nor a refusal. -/
def Answers (o : Host.Outcome State Fault Refusal) : Prop := ∃ t, o = .next t

/-- The canonical form of a state's stores: addresses strictly rising, no entry that equals what an unlisted address reads
as. -/
abbrev State.Wf (s : State) : Prop := s.mem.wf

/-! ### The counters of the clear commands -/

/-- The clear register and the counters of each clear command (Tables 2.15, 3.10, 5.9, 6.26, 7.9, 8.10, 8.13, 9.14,
9.19, 10.17 and the register tables of chapters 11 to 13, 15 and 17). -/
def clearOf : Instr → Option (Nat × List Nat)
  | .muClrSat st b => some (Reg.muCntClear st b, [Reg.muSat st b])
  | .muClrCe st b => some (Reg.muCntClear st b, [Reg.muCe st b])
  | .vuClrSat st v => some (Reg.vuNumClear st v, [Reg.vuSat st v])
  | .vuClrNan st v => some (Reg.vuNumClear st v, [Reg.vuNan st v])
  | .vuClrAmax st v => some (Reg.vuNumClear st v, [Reg.vuAmax st v 0, Reg.vuAmax st v 1, Reg.vuAmax st v 2, Reg.vuAmax st v 3])
  | .slabClrCe st b => some (Reg.slabCntClear st b, [Reg.slabCe st b])
  | .slabClrUe st b => some (Reg.slabCntClear st b, [Reg.slabUe st b])
  | .slabClrConf st b => some (Reg.slabCntClear st b, (List.range 16).map (Reg.slabConf st b))
  | .slabClrUnsched st b => some (Reg.slabCntClear st b, [Reg.slabUnsched st b])
  | .ptClrOvf st b => some (Reg.swCntClear st b, [Reg.ptOverflow st b])
  | .ptClrBadtag st b => some (Reg.swCntClear st b, [Reg.ptBadtag st b])
  | .qClrLenerr st => some (Reg.qCntClear st, [Reg.qLenerr st])
  | .qClrSat st => some (Reg.qCntClear st, [Reg.qSat st])
  | .qClrLeftover st => some (Reg.qCntClear st, [Reg.qLeftover st])
  | .qClrRefused st => some (Reg.qCntClear st, [Reg.qRefused st])
  | .tkClrLost st => some (Reg.tkCntClear st, [Reg.tkSigLost st])
  | .tkoClrPlain => some (Reg.tkoCntClear, [Reg.tkoPlainSt])
  | .meClrRls st => some (Reg.meCntClear st, [Reg.rlsHits st, Reg.rlsMisses st])
  | .meClrMerged st mask => some (Reg.meCntClear st, (maskBits mask 8).map (Reg.meMerged st))
  | .dmClrCe c => some (Reg.dmCntClear c, [Reg.dmCe c])
  | .dmClrUe c => some (Reg.dmCntClear c, [Reg.dmUe c])
  | .dmClrTt c => some (Reg.dmCntClear c, [Reg.dmTtSlip c, Reg.dmUnsched c, Reg.dmForcedRef c])
  | .epClrTimeouts => some (Reg.epCntClear, [Reg.epTimeouts])
  | .epClrLate => some (Reg.epCntClear, [Reg.epLate])
  | .epClrTarget => some (Reg.epCntClear, [Reg.epTargetErr])
  | .epClrErr p => some (Reg.portCntClear p, [Reg.portFecCorr p, Reg.portFecUncorr p, Reg.portCrcErr p, Reg.portReplays p, Reg.portRetrains p])
  | .epClrDiscard p => some (Reg.portCntClear p, [Reg.portDiscard p])
  | .ilClrRefusals => some (Reg.ilCntClear, [Reg.ilRefusals])
  | .ttClrStable => some (Reg.ttCntClear, [Reg.ttStablings, Reg.ttRestores])
  | .ttClrAbort => some (Reg.ttCntClear, [Reg.ttAborts])
  | .ttClrMiss => some (Reg.ttCntClear, [Reg.ttMisses])
  | .coClrBar2 => some (Reg.coHifCntClear, [Reg.coBar2Err])
  | .coClrEvlost => some (Reg.coHifCntClear, [Reg.evLost])
  | .gangClrRepairs => some (Reg.gangCntClear, [Reg.gangRepairs])
  | .gangClrVotes => some (Reg.gangCntClear, [Reg.gangVotes])
  | .faultClrLost => some (Reg.faultCntClear, [Reg.faultLost])
  | .faultClrDrain => some (Reg.faultCntClear, [Reg.drainForced])
  | .cdcClrOverruns => some (Reg.cdcCntClear, [Reg.cdcOverruns])
  | .cdcClrTimeouts => some (Reg.cdcCntClear, [Reg.cdcTimeouts])
  | _ => none

end Sys2Proof.Machine
end

