-- ==== Sys2Proof/Certificates/Slice0/Obligations.lean ====
section
/-! DEFINITION. The statements for the provers. Every statement about a command says what it answers on a device that can
carry the command out (`State.Ready`, `State.Powered`), what the state that it leaves reads, and what it leaves alone. -/

section Statements
open Sys2Proof Sys2Proof.Machine

/-! ### The frame of every command -/

/-- A step takes the command at the front of the queue and carries it out with the rest of the queue. -/
def Obligations.StepTakesTheFrontCommand : Prop :=
  ∀ (c : Instr) (s : State) (rest : List Instr), s.pending = c :: rest → step s = exec c { s with pending := rest }

/-- A step on an empty queue answers a next state whose queue is empty (the model's choice, log 18): one ARCLK cycle
passes where ARCLK runs. With no load in progress the scratchpad and the planes read as before, and where no channel has a
write under way DDR space does too. -/
def Obligations.EmptyQueueLetsOneCyclePass : Prop :=
  ∀ s : State, s.pending = [] → ∃ t, step s = .next t ∧ t.pending = [] ∧ t.dev.chip = s.dev.chip ∧
    (s.dev.load = none → (∀ a, t.slabAt a = s.slabAt a) ∧ (∀ k, t.planeAt k = s.planeAt k) ∧
      ((∀ c r, r ∈ (s.view.ch c).served → r.write = false) → ∀ a, t.ddrAt a = s.ddrAt a)) ∧
    (s.dev.clk.undef = false → s.dev.clk.powered = true → s.dev.clk.arclkOn = true → s.dev.clk.tripped = false →
      t.dev.clk.arclk = s.dev.clk.arclk + 1)

/-- A well-formed command never stops a device of defined state, and it touches no other command of the queue.
Nothing but a command that names no part of the device is refused, and nothing but a device of undefined state
faults.
A device without power, in PERST_N, tripped or without ARCLK changes nothing on a command that needs it running; the
commands of the always-on domain need power alone.
A rail that leaves its tolerance while PERST_N is deasserted leaves the device without a defined state: no command
but COLD_RESET, which R445 demands before further use, and the loss of power has an effect from then on.
Completes: railExcursion. -/
def Obligations.WhenCommandsAct : Prop :=
  (∀ (c : Instr) (s : State), s.dev.clk.undef = false → c.wellFormed = true →
     ∃ t, exec c s = .next t ∧ t.pending = s.pending) ∧
  (∀ (c : Instr) (s : State),
     ((∃ f, exec c s = .fault f) ↔ s.dev.clk.undef = true ∧ c ≠ .coldReset ∧ c ≠ .lossOfPower) ∧
     ((∃ r, exec c s = .refused r) ↔ c.wellFormed = false ∧ s.dev.clk.undef = false)) ∧
  (∀ (c : Instr) (s : State), s.dev.clk.undef = false → c.wellFormed = true → s.dev.runs (needOf c) = false →
     exec c s = .next s) ∧
  ((∀ s : State, s.Powered → s.dev.clk.perst = false →
     exec .railExcursion s = .next { s with dev := { s.dev with clk := { s.dev.clk with undef := true } } }) ∧
   (∀ s : State, s.Powered → s.dev.clk.perst = true → exec .railExcursion s = .next s) ∧
   ∀ (s : State) (c : Instr), s.dev.clk.undef = true → c ≠ .coldReset → c ≠ .lossOfPower →
     exec c s = .fault .undefinedState)

/-- Every step keeps the canonical form of the scratchpad, DDR space, the registers and the configuration planes. -/
def Obligations.StepKeepsCanonicalStores : Prop :=
  ∀ s t : State, s.Wf → step s = .next t → t.Wf

/-- The state after reset has the canonical form, nothing waits in its queue, and no consist, job or token is there. -/
def Obligations.ResetIsCanonicalAndEmpty : Prop :=
  State.reset.Wf ∧ State.reset.pending = [] ∧ State.reset.dev.consists = [] ∧ State.reset.dev.jobs = [] ∧
    State.reset.dev.tokens = [] ∧ State.reset.dev.clk.perst = true ∧
    (∀ a, State.reset.slabAt a = 0) ∧ (∀ a, State.reset.ddrAt a = 0)

/-- The Reset values of the register tables that are not 0. -/
def Obligations.ResetRegisterValues : Prop :=
  (∀ o, State.reset.reg o = (regReset o).toNat) ∧
    State.reset.reg Reg.pwrCap = 2400 ∧ State.reset.reg Reg.sbTwarn = 106 ∧ State.reset.reg Reg.sbAlertEn = 0x37 ∧
    State.reset.reg Reg.secBootDeadline = 10 ∧ State.reset.reg Reg.gangInterval = 256 ∧
    State.reset.reg Reg.ttCtrl = 3 ∧ State.reset.reg Reg.ilCtrl = 1 ∧ State.reset.reg Reg.epTimeoutAcc = 1000 ∧
    State.reset.reg Reg.epTimeoutWait = 1000 ∧ State.reset.reg Reg.coSeqNext = 1 ∧
    (∀ n, n < 16 → State.reset.reg (Reg.stPwrStatus n) = 5) ∧
    (∀ c, c < 16 → State.reset.reg (Reg.dmCtrl c) = 0x45) ∧
    (∀ r, r < 16 → State.reset.reg (Reg.ringStatus r) = 0x2000)

/-! ### Clears of counters -/

/-- Each clear command whose register BAR0 reaches sets its counters, COUNT and OVF, to 0 and changes nothing else; where
BAR0 does not reach the register, it changes nothing.
Completes: muClrSat, muClrCe, vuClrSat, vuClrNan, vuClrAmax, slabClrCe, slabClrUe, slabClrConf, slabClrUnsched,
ptClrOvf, ptClrBadtag, qClrLenerr, qClrSat, qClrLeftover, qClrRefused, tkClrLost, tkoClrPlain, meClrMerged, meClrRls,
dmClrCe, dmClrUe, dmClrTt, epClrTimeouts, epClrLate, epClrTarget, epClrErr, epClrDiscard, ilClrRefusals, ttClrStable,
ttClrAbort, ttClrMiss, coClrBar2, coClrEvlost, gangClrRepairs, gangClrVotes, faultClrLost, faultClrDrain,
cdcClrOverruns, cdcClrTimeouts.
A clear written in the same ARCLK cycle as a counted event leaves the counter at 0: whatever was counted beside a clear
is gone when the cycle ends.
Q_CNT_CLEAR.CLR_QSEL sets the spill count and the balance of the queue that Q_SEL names to 0, and nothing else.
Completes: qClrQsel. -/
def Obligations.CounterClears : Prop :=
  (∀ (c : Instr) (s : State) (o : Nat) (l : List Nat), clearOf c = some (o, l) → s.Ready → c.wellFormed = true →
     ∃ t, exec c s = .next t ∧ s.KeepsBut t l ∧
       (s.view.bar0Open o = true →
         t.dev = { s.dev with cleared := s.dev.cleared ++ l } ∧ ∀ r ∈ l, t.reg r = 0) ∧
       (s.view.bar0Open o = false → t = s)) ∧
  (∀ s : State, s.Ready → s.pending = [] → s.dev.load = none → ∃ t, step s = .next t ∧ t.dev.cleared = [] ∧ t.dev.raised = [] ∧
     (∀ r ∈ s.dev.cleared, r < 2 ^ 35 → t.reg r = 0) ∧
     ∀ st q, st < 16 → q < 4096 → queueClearKey st q ∈ s.dev.cleared →
       (t.view.queue st q).spills = 0 ∧ (t.view.queue st q).balance = 0) ∧
  (∀ (s : State) (st : Nat), s.Ready → st < 16 → s.view.bar0Open (Reg.qCntClear st) = true →
     ∃ t, exec (.qClrQsel st) s = .next t ∧ t.mem = s.mem ∧
       t.dev = { s.dev with
         queues := t.dev.queues
         cleared := s.dev.cleared ++ [queueClearKey st (s.reg (Reg.qSel st) % 4096)] } ∧
       (∀ k, k ≠ st * 4096 + s.reg (Reg.qSel st) % 4096 → fget {} t.dev.queues k = (fget {} s.dev.queues k : Queue)) ∧
       fget {} t.dev.queues (st * 4096 + s.reg (Reg.qSel st) % 4096) =
         { (fget {} s.dev.queues (st * 4096 + s.reg (Reg.qSel st) % 4096) : Queue) with spills := 0, balance := 0 })

/-! ### Register writes -/

/-- A doorbell write of t sets TAIL of a ring that runs to t, stops the ring with cause TAIL where t is at or beyond the
ring size, and is discarded where ENABLE is 0 or the ring has stopped.
Completes: doorbellWrite.
A write to CO_RINGr_CTRL: ENABLE is taken as it stands before the write. Enabled, SIZE_LOG2 is ignored and a differing
field sets HOSTWR_DROPPED; disabled, the whole register is written, and setting ENABLE with 2^4 to 2^12 entries sets HEAD
and TAIL to 0 and the reply phase to 1, with any other size it stops the ring with cause SIZE.
Completes: ringCtrlWrite.
CO_EVQ_CTRL, CO_EVQ_HEAD and CO_FAULT_HEAD: no write of the host lets the device write outside its rings.
Completes: evqCtrlWrite, evqHeadWrite, faultHeadWrite. -/
def Obligations.RingRegisterWrites : Prop :=
  (∀ (s : State) (r : Nat) (v : W32), s.Ready → r < 16 →
     let tail := v.toNat % 4096
     let size := 2 ^ bits (s.reg (Reg.ringCtrl r)) 4 1
     let runs := s.view.bar0Open (Reg.doorbell r) = true ∧ bit (s.reg (Reg.ringCtrl r)) 0 = true ∧
       bit (s.reg (Reg.ringStatus r)) 15 = false
     ∃ t, exec (.doorbellWrite r v) s = .next t ∧ t.pending = s.pending ∧
       (¬runs → t = s) ∧
       (runs → tail < size → t.mem = s.mem ∧ t.dev = { s.dev with host := { s.dev.host with
         rings := fput s.dev.host.rings r { s.view.ring r with tail := tail } } }) ∧
       (runs → size ≤ tail → t.dev = s.dev ∧ s.KeepsBut t [Reg.ringStatus r] ∧
         bit (t.reg (Reg.ringStatus r)) 15 = true ∧ bits (t.reg (Reg.ringStatus r)) 18 16 = 1 ∧
         bits (t.reg (Reg.ringStatus r)) 11 0 = bits (s.reg (Reg.ringStatus r)) 11 0)) ∧
  (∀ (s : State) (r : Nat) (v : W32), s.Ready → r < 16 →
     let o := Reg.ringCtrl r
     let st := Reg.ringStatus r
     let old := s.reg o
     let new := v.toNat % 2 ^ 11
     let fits := 4 ≤ bits new 4 1 ∧ bits new 4 1 ≤ 12
     ∃ t, exec (.ringCtrlWrite r v) s = .next t ∧ t.pending = s.pending ∧
       (s.view.bar0Open o = false → t = s) ∧
       (s.view.bar0Open o = true → s.KeepsBut t [o, st] ∧
         t.dev = { s.dev with host := { s.dev.host with rings := t.dev.host.rings } } ∧
         (∀ k, k ≠ r → t.view.ring k = s.view.ring k) ∧ (t.view.ring r).cmd = (s.view.ring r).cmd ∧
         (bit old 0 = true → t.dev = s.dev ∧ t.reg o = setBits new 4 1 (bits old 4 1) ∧
           t.reg st = if bits new 4 1 = bits old 4 1 then s.reg st else s.reg st ||| 2 ^ 14) ∧
         (bit old 0 = false → t.reg o = new) ∧
         (bit old 0 = false → bit new 0 = false → t.dev = s.dev ∧ t.reg st = s.reg st) ∧
         (bit old 0 = false → bit new 0 = true → (t.view.ring r).tail = 0 ∧ bits (t.reg st) 11 0 = 0 ∧
           bit (t.reg st) 13 = true ∧ (fits → bit (t.reg st) 15 = false) ∧
           (¬fits → bit (t.reg st) 15 = true ∧ bits (t.reg st) 18 16 = 3)))) ∧
  (∀ (s : State) (v : W32), s.Ready →
     (let old := s.reg Reg.evqCtrl
      let new := v.toNat % 2 ^ 11
      let fits := 4 ≤ bits new 4 1 ∧ bits new 4 1 ≤ 12
      ∃ t, exec (.evqCtrlWrite v) s = .next t ∧ s.KeepsBut t [Reg.evqCtrl, Reg.evqHead, Reg.evqStatus] ∧
       (s.view.bar0Open Reg.evqCtrl = false → t = s) ∧
       (s.view.bar0Open Reg.evqCtrl = true →
         (bit old 0 = true → t.dev = s.dev ∧ t.reg Reg.evqHead = s.reg Reg.evqHead ∧
           t.reg Reg.evqCtrl = setBits new 4 1 (bits old 4 1) ∧
           let kept := if bit new 0 then s.reg Reg.evqStatus else setBits (s.reg Reg.evqStatus) 12 12 0
           t.reg Reg.evqStatus = if bits new 4 1 = bits old 4 1 then kept else kept ||| 2 ^ 13) ∧
         (bit old 0 = false → bit new 0 = false → t.dev = s.dev ∧ s.RegsBecome t [(Reg.evqCtrl, new)]) ∧
         (bit old 0 = false → bit new 0 = true → ¬fits → t.dev = s.dev ∧ t.reg Reg.evqHead = s.reg Reg.evqHead ∧
           bit (t.reg Reg.evqCtrl) 0 = false ∧ bit (t.reg Reg.evqStatus) 14 = true) ∧
         (bit old 0 = false → bit new 0 = true → fits → t.reg Reg.evqCtrl = new ∧ t.reg Reg.evqHead = 0 ∧
           bits (t.reg Reg.evqStatus) 11 0 = 0 ∧ bit (t.reg Reg.evqStatus) 14 = false ∧
           t.dev = { s.dev with host := { s.dev.host with evPhase := true } }))) ∧
     (let h := v.toNat % 4096
      let size := 2 ^ bits (s.reg Reg.evqCtrl) 4 1
      let head := bits (s.reg Reg.evqHead) 11 0
      let write := bits (s.reg Reg.evqStatus) 11 0
      let taken := h < size ∧ (h + size - head) % size ≤ (write + size - head) % size
      ∃ t, exec (.evqHeadWrite v) s = .next t ∧ t.dev = s.dev ∧ s.KeepsBut t [Reg.evqHead, Reg.evqStatus] ∧
       (s.view.bar0Open Reg.evqHead = false → t = s) ∧
       (s.view.bar0Open Reg.evqHead = true →
         (taken → t.reg Reg.evqHead = h ∧ t.reg Reg.evqStatus = setBits (s.reg Reg.evqStatus) 12 12
           (b2n (bit (s.reg Reg.evqCtrl) 0 && (write + size - h) % size == size - 1))) ∧
         (¬taken → s.RegsBecome t [(Reg.evqStatus, s.reg Reg.evqStatus ||| 2 ^ 13)]))) ∧
     (let h := v.toNat % 64
      let head := s.reg Reg.faultHead % 64
      let write := bits (s.reg Reg.faultStatus) 5 0
      let taken := (h + 64 - head) % 64 ≤ (write + 64 - head) % 64
      ∃ t, exec (.faultHeadWrite v) s = .next t ∧ t.dev = s.dev ∧ s.KeepsBut t [Reg.faultHead, Reg.faultStatus] ∧
       (s.view.bar0Open Reg.faultHead = false → t = s) ∧
       (s.view.bar0Open Reg.faultHead = true →
         (taken → t.reg Reg.faultHead = h ∧
           t.reg Reg.faultStatus = setBits (s.reg Reg.faultStatus) 6 6 (b2n ((write + 64 - h) % 64 == 63))) ∧
         (¬taken → s.RegsBecome t [(Reg.faultStatus, s.reg Reg.faultStatus ||| 2 ^ 7)]))))

/-- A write to CO_PWR_CAP takes a limit from 400 to 2,400 W that is not below the admitted power nor the pending table's;
any other is discarded and sets CO_PWR_STATUS.HOSTWR_DROPPED. The new cap applies to the next SET_TIMETABLE, none of whose
entries may need more, and to the wakes of stations, which wait while they do not fit.
Completes: coPwrCapWrite. -/
def Obligations.PowerCapWrite : Prop :=
  ∀ (s : State) (v : W32), s.Ready → s.view.bar0Open Reg.pwrCap = true →
    let w := v.toNat % 4096
    let need := max (bits (s.reg Reg.pwrAdmit) 11 0) ((s.dev.tt.pending.map (·.power)).getD 0)
    (w < 400 ∨ 2400 < w ∨ w < need → ∃ t, exec (.coPwrCapWrite v) s = .next t ∧ t.dev = s.dev ∧
      s.RegsBecome t [(Reg.pwrStatus, s.reg Reg.pwrStatus ||| 2 ^ 12)]) ∧
    (400 ≤ w → w ≤ 2400 → need ≤ w → ∃ t, exec (.coPwrCapWrite v) s = .next t ∧ t.dev = s.dev ∧
      s.RegsBecome t [(Reg.pwrCap, w)] ∧
      (∀ b n x, t.view.checkTable b n = .ok x → ∀ e, e < x.entries.length → t.view.entryPower x e ≤ w) ∧
      ∀ st, st < 16 → (t.view.stn st).pwrDue = none → t.view.pwr st ≠ 0 → t.view.pwr st < t.view.pwrGoal st →
        w < t.view.pwrAdmitted (some st) →
        ∃ u, exec (.stationWake st) t = .next u ∧ bit (u.reg (Reg.stPwrStatus st)) 4 = true ∧
          u.view.pwr st = t.view.pwr st ∧ u.view.pwrTarget st = t.view.pwrTarget st)

/-- EP_DEVICE_ID, EP_TORUS and EP_DIM_MAP take a write while every port is CLOSED or FAILED, EP_PORT_CTRL while its own is;
otherwise it is discarded and sets HOSTWR_DROPPED. PORT_OPEN answers BAD_PARAM while the device's ID is not valid, or a ring
size is 0 or not greater than the device's own coordinate.
Completes: epTopologyWrite. -/
def Obligations.TopologyWrite : Prop :=
  (∀ (s : State) (which : Nat) (v : W32), s.Ready → which < 3 →
    let o := nth 0 [Reg.epDeviceId, Reg.epTorus, Reg.epDimMap] which
    s.view.bar0Open o = true →
      ((∀ p, p < 8 → s.view.portState p = psClosed ∨ s.view.portState p = psFailed) →
        ∃ t, exec (.epTopologyWrite which v) s = .next t ∧ t.dev = s.dev ∧
          s.RegsBecome t [(o, v.toNat &&& nth 0 [0x8003FFFF, 0x7F7F7F, 0x3FFFF] which)]) ∧
      ((∃ p, p < 8 ∧ s.view.portState p ≠ psClosed ∧ s.view.portState p ≠ psFailed) →
        ∃ t, exec (.epTopologyWrite which v) s = .next t ∧ t.dev = s.dev ∧
          s.RegsBecome t [(Reg.epStatus, s.reg Reg.epStatus ||| 1)])) ∧
  (∀ (s : State) (p : Nat) (v : W64), s.Ready → p < 8 → s.view.bar0Open (Reg.portCtrl p) = true →
    (s.view.portState p = psClosed ∨ s.view.portState p = psFailed →
      ∃ t, exec (.registerWrite 0 (Reg.portCtrl p) 4 v) s = .next t ∧ t.dev = s.dev ∧
        s.RegsBecome t [(Reg.portCtrl p, v.toNat % 2 ^ 32 &&& 0xF1)]) ∧
    (s.view.portState p ≠ psClosed → s.view.portState p ≠ psFailed →
      ∃ t, exec (.registerWrite 0 (Reg.portCtrl p) 4 v) s = .next t ∧ t.dev = s.dev ∧
        s.RegsBecome t [(Reg.portStatus p, s.reg (Reg.portStatus p) ||| 2 ^ 12)])) ∧
  ∀ (s : State) (r : Nat) (c : Cmd), s.Ready → r < 16 → s.Serves r 0x81 c →
    let id := s.reg Reg.epDeviceId
    let torus := s.reg Reg.epTorus
    (bit id 31 = false ∨ bits torus 6 0 = 0 ∨ bits torus 6 0 ≤ bits id 5 0 ∨ bits torus 14 8 = 0 ∨
        bits torus 14 8 ≤ bits id 11 6 ∨ bits torus 22 16 = 0 ∨ bits torus 22 16 ≤ bits id 17 12) →
      ∃ t, exec (.portOpen r) s = .next t ∧ s.Replied t r c [] scBadParam 16 0 ∧ s.RepliesAlone t r []

/-- A host write of a ticket-office counter, before which no request for it stands, is discarded, with
TKO_STATUS.HOSTWR_DROPPED, where the counter is assigned, and sets its value where it is not.
Completes: tkoValueWrite.
IL_CMD.RELEASE while CFG_ERR_N is asserted deasserts it and sets OUT_EN; while it is deasserted it has no effect.
Completes: release.
The load deadline: the write of SEC_BOOT_DEADLINE, the first entry of the link into L0, and the deadline itself, after
which the boot ROM records FAILED with cause 1.
Completes: secBootDeadlineWrite, bootDeadline, linkEntryIntoL0.
A host write to BAR0: any size or alignment but aligned 32 and 64 bits is discarded, as is one that BAR0 does not
reach; the fields of a register whose fields act alone take the write under their access codes, RW bits as written and
RW1C bits cleared by 1. A write to BAR4 outside the MSI-X table is discarded, one in it is held.
Completes: registerWrite. -/
def Obligations.ConditionalRegisterWrites : Prop :=
  (∀ (s : State) (k : Nat) (v : W64), s.Ready → k < 64 →
     (s.view.bar0Open (Reg.tkoValue k) = false → exec (.tkoValueWrite k v) s = .next s) ∧
     (s.view.bar0Open (Reg.tkoValue k) = true → s.CounterQuiet k →
       ∃ t, exec (.tkoValueWrite k v) s = .next t ∧ t.dev = s.dev ∧
         s.RegsBecome t [if bit (s.reg (Reg.tkoOwner k)) 12 then (Reg.tkoStatus, s.reg Reg.tkoStatus ||| 2 ^ 7)
           else (Reg.tkoValue k, v.toNat)])) ∧
  ((∀ s : State, s.Ready → s.view.bar0Open Reg.ilCmd = true → bit (s.reg Reg.ilStatus) 1 = true →
     s.dev.host.heldOut = [] → ∃ t, exec .release s = .next t ∧ s.KeepsBut t [Reg.ilStatus] ∧ t.dev = s.dev ∧
       bit (t.reg Reg.ilStatus) 1 = false ∧ bit (t.reg Reg.ilStatus) 0 = true) ∧
   ∀ s : State, s.Ready → bit (s.reg Reg.ilStatus) 1 = false → exec .release s = .next s) ∧
  ((∀ (s : State) (v : W32), s.Ready → s.view.bar0Open Reg.secBootDeadline = true → s.dev.boot.rom = false →
     ∃ t, exec (.secBootDeadlineWrite v) s = .next t ∧ t.dev = s.dev ∧
       s.RegsBecome t [(Reg.secBootDeadline, v.toNat % 256)]) ∧
   (∀ s : State, s.Ready → s.dev.boot.rom = true → s.dev.boot.deadlineFrom = none →
     exec .linkEntryIntoL0 s =
       .next { s with dev := { s.dev with boot := { s.dev.boot with deadlineFrom := some s.dev.clk.aon } } }) ∧
   (∀ (s : State) (f : Nat), s.Ready → s.dev.boot.rom = true → s.dev.boot.fetched = false → s.view.aonLost = false →
     bits (s.reg Reg.secBootStatus) 1 0 = 0 → s.dev.boot.deadlineFrom = some f →
     let n := bits (s.reg Reg.secBootDeadline) 7 0
     (f + 25000000 * (if n = 0 then 256 else n) ≤ s.dev.clk.aon → ∃ t, exec .bootDeadline s = .next t ∧ t.dev = s.dev ∧
       s.KeepsBut t [Reg.secBootStatus] ∧ bits (t.reg Reg.secBootStatus) 1 0 = 3 ∧
       bits (t.reg Reg.secBootStatus) 4 2 = 1) ∧
     (s.dev.clk.aon < f + 25000000 * (if n = 0 then 256 else n) → exec .bootDeadline s = .next s)) ∧
   ∀ s : State, s.Ready → s.dev.boot.fetched = true → exec .bootDeadline s = .next s) ∧
  ((∀ (s : State) (o size : Nat) (v : W64), s.Ready → ¬(size = 4 ∧ o % 4 = 0) → ¬(size = 8 ∧ o % 8 = 0) →
     exec (.registerWrite 0 o size v) s = .next s ∧ exec (.registerWrite 4 o size v) s = .next s) ∧
   (∀ (s : State) (o : Nat) (v : W64), s.Ready → o % 4 = 0 → s.view.bar0Open o = false →
     exec (.registerWrite 0 o 4 v) s = .next s) ∧
   (∀ (s : State) (v : W64), s.Ready → s.view.bar0Open Reg.sbAlertEn = true →
     ∃ t, exec (.registerWrite 0 Reg.sbAlertEn 4 v) s = .next t ∧ t.dev = s.dev ∧
       s.RegsBecome t [(Reg.sbAlertEn, v.toNat % 64)]) ∧
   (∀ (s : State) (v : W64), s.Ready → s.view.bar0Open Reg.cdcStatus = true →
     ∃ t, exec (.registerWrite 0 Reg.cdcStatus 4 v) s = .next t ∧ t.dev = s.dev ∧ s.KeepsBut t [Reg.cdcStatus] ∧
       ∀ i, bit (t.reg Reg.cdcStatus) i = (bit (s.reg Reg.cdcStatus) i && !(decide (i < 5) && bit v.toNat i))) ∧
   (∀ (s : State) (o : Nat) (v : W64), s.Ready → o % 4 = 0 → 0x400 ≤ o →
     exec (.registerWrite 4 o 4 v) s = .next s) ∧
   (∀ (s : State) (i : Nat) (v : W64), s.Ready → i < 256 → i % 4 ≠ 3 →
     ∃ t, exec (.registerWrite 4 (4 * i) 4 v) s = .next t ∧ t.mem = s.mem ∧ t.view.msixWord i = v.toNat % 2 ^ 32 ∧
       (∀ j, j ≠ i → t.view.msixWord j = s.view.msixWord j) ∧
       t.dev = { s.dev with host := { s.dev.host with msix := t.dev.host.msix } }))

/-- BURN is accepted only in PROVISIONED and only to a slot that is not burnt, and then BUSY is 1; at its end the stored
key is read back and compared. REVOKE is accepted in PROVISIONED and in DEPLOYED. A command written while BUSY is 1 is
discarded and sets OP_ERR.
Completes: burn, burnDone, revoke.
ATTEST writes the report of Table 16.3, whose length is 7,475 bytes and 136 for each resident consist, under the
identity key; without an identity key it answers NOT_READY. LIFECYCLE_ADVANCE is refused while a job exists or for a step
that the state does not allow; otherwise an authorised record begins the transition and closes every port, any other is
refused with SIGNATURE, and the nonce is drawn afresh in every case.
Completes: attest, lifecycleAdvance. -/
def Obligations.KeysAttestAndLifeCycle : Prop :=
  ((∀ (s : State) (v : W32), s.Ready → s.view.bar0Open Reg.secCmd = true → bits v.toNat 3 2 = 1 →
     let slot := v.toNat % 4
     (s.dev.sec.burning = none → s.view.lifeCycle = 1 → bit s.dev.chip.burnt slot = false →
       ∃ t, exec (.burn v) s = .next t ∧ s.KeepsBut t [Reg.secStatus] ∧ bit (t.reg Reg.secStatus) 0 = true ∧
         t.dev = { s.dev with sec := { s.dev.sec with burning := some (slot, s.view.stagedKey) } }) ∧
     (s.dev.sec.burning.isSome = true ∨ s.view.lifeCycle ≠ 1 ∨ bit s.dev.chip.burnt slot = true →
       ∃ t, exec (.burn v) s = .next t ∧ t.dev = s.dev ∧ s.KeepsBut t [Reg.secStatus] ∧
         bit (t.reg Reg.secStatus) 1 = true)) ∧
   (∀ (s : State) (slot : Nat) (key : Bytes), s.Ready → s.dev.sec.burning = some (slot, key) → slot < 4 →
     let held := blow (fget [] s.dev.chip.okey slot) key
     ∃ t, exec .burnDone s = .next t ∧ s.KeepsBut t [Reg.secStatus] ∧ bit (t.reg Reg.secStatus) 0 = false ∧
       t.dev.sec.burning = none ∧ fget [] t.dev.chip.okey slot = held ∧
       t.dev = { s.dev with sec := t.dev.sec, chip := { s.dev.chip with okey := t.dev.chip.okey, burnt := t.dev.chip.burnt } } ∧
       (held = key → t.dev.chip.burnt = s.dev.chip.burnt ||| 2 ^ slot) ∧
       (held ≠ key → t.dev.chip.burnt = s.dev.chip.burnt ∧ bit (t.reg Reg.secStatus) 1 = true ∧
         bits (t.reg Reg.secStatus) 3 2 = 2)) ∧
   (∀ (s : State) (v : W32), s.Ready → s.view.bar0Open Reg.secCmd = true → bits v.toNat 3 2 = 2 →
     (s.dev.sec.burning = none → s.view.lifeCycle = 1 ∨ s.view.lifeCycle = 2 →
       exec (.revoke v) s = .next { s with dev := { s.dev with chip := { s.dev.chip with
         revoked := s.dev.chip.revoked ||| 2 ^ (v.toNat % 4) } } }) ∧
     (s.dev.sec.burning.isSome = true ∨ (s.view.lifeCycle ≠ 1 ∧ s.view.lifeCycle ≠ 2) →
       ∃ t, exec (.revoke v) s = .next t ∧ t.dev = s.dev ∧ s.KeepsBut t [Reg.secStatus] ∧
         bit (t.reg Reg.secStatus) 1 = true))) ∧
  ((∀ (s : State) (r : Nat) (c : Cmd) (key nonce : Bytes), s.Ready → r < 16 → s.Serves r 0x90 c →
     s.view.idKey = some key → 7475 + 136 * s.dev.consists.length ≤ c.p 2 →
     ∃ t report, exec (.attest r (some nonce)) s = .next t ∧
       report = s.view.attestBody nonce key ++ s.view.idSign (s.view.attestBody nonce key) ∧
       s.Replied t r c [.hostWrite (c.p 1) report] scOk 0 (7475 + 136 * s.dev.consists.length) ∧
       s.RepliesAlone t r []) ∧
   (∀ (s : State) (r : Nat) (c : Cmd) (nonce : HostData), s.Ready → r < 16 → s.Serves r 0x90 c → s.view.idKey = none →
     ∃ t, exec (.attest r nonce) s = .next t ∧ s.Replied t r c [] scNotReady 0 0 ∧ s.RepliesAlone t r []) ∧
   (∀ (s : State) (r : Nat) (c : Cmd) (b : Bytes), s.Ready → r < 16 → s.Serves r 0xA0 c → s.dev.boot.lcTarget = none →
     let now := s.view.lifeCycle
     let target := c.p 0 % 4
     (∀ h, s.view.anyJob = some h → ∃ t, exec (.lifecycleAdvance r (some b)) s = .next t ∧
       s.Replied t r c [] scBusy (busyDetail 0x40 0 h) 0 ∧ t.dev.sec.draws = s.dev.sec.draws + 1 ∧
       t.dev.boot = s.dev.boot) ∧
     (s.view.anyJob = none →
       ¬(now = 0 ∧ target = 1 ∨ now = 1 ∧ target = 2 ∨ (now = 1 ∨ now = 2) ∧ target = 3) →
       ∃ t, exec (.lifecycleAdvance r (some b)) s = .next t ∧ s.Replied t r c [] scBadParam 16 0 ∧
         t.dev.sec.draws = s.dev.sec.draws + 1 ∧ t.dev.boot = s.dev.boot) ∧
     (s.view.anyJob = none → now = 0 ∧ target = 1 ∨ now = 1 ∧ target = 2 ∨ (now = 1 ∨ now = 2) ∧ target = 3 →
       ∃ t, exec (.lifecycleAdvance r (some b)) s = .next t ∧ t.dev.sec.draws = s.dev.sec.draws + 1 ∧
         (t.view.ring r).cmd = none ∧ t.dev.chip = s.dev.chip ∧
         if s.view.authorised target b = true then
           t.dev.boot = { s.dev.boot with lcTarget := some target, owed := s.dev.boot.owed ++ [(3, 0)] } ∧
             bit (t.reg Reg.secBootStatus) 5 = true ∧ ∀ p, p < 8 → t.view.portState p = psClosed
         else t.dev.boot = s.dev.boot ∧ s.Replied t r c [] scSignature 0 0)))

/-! ### Commands of the rings -/

/-- COMMAND_FETCH takes the next entry of the ring whose turn it is: HEAD advances round the ring, the command is in
progress, and where its gates are open and its packet is well formed nothing is answered yet. A read that fails stops the
ring with cause 2, and a ring whose turn it is not is left alone.
Completes: commandFetch. -/
def Obligations.CommandFetchTakesTheTurn : Prop :=
  (∀ (s : State) (r : Nat) (b : Bytes), s.Ready → r < 16 → b.length = 64 → s.view.ringTurn = some r →
    s.view.busMaster = true →
    let c := parseCmd b (s.view.ringHead r) s.dev.host.fetches
    s.view.gate c.opcode = none → c.plen ≤ 48 → c.plen % 8 = 0 → opcodes.contains c.opcode = true →
    reservedAt c.opcode b c.params = none →
    ∃ t, exec (.commandFetch r (some b)) s = .next t ∧ s.KeepsBut t [Reg.ringStatus r] ∧
      (t.view.ring r).cmd = some c ∧ (∀ r', r' ≠ r → t.view.ring r' = s.view.ring r') ∧
      t.view.ringHead r = (s.view.ringHead r + 1) % 2 ^ bits (s.reg (Reg.ringCtrl r)) 4 1 % 4096 ∧
      bit (t.reg (Reg.ringStatus r)) 12 = true ∧ t.dev.host.lastRing = r ∧
      t.dev.boot.fetched = (s.dev.boot.fetched || c.opcode == 0x10) ∧ t.dev.out = s.dev.out ∧
      t.dev = { s.dev with boot := { s.dev.boot with fetched := t.dev.boot.fetched }, host := { s.dev.host with
        lastRing := r, fetches := s.dev.host.fetches + 1, rings := t.dev.host.rings } }) ∧
  (∀ (s : State) (r : Nat), s.Ready → r < 16 → s.view.ringTurn = some r → s.view.busMaster = true →
    ∃ t, exec (.commandFetch r none) s = .next t ∧ s.KeepsBut t [Reg.ringStatus r] ∧ t.view.ringRuns r = false ∧
      bits (t.reg (Reg.ringStatus r)) 18 16 = 2 ∧ t.dev = { s.dev with host := { s.dev.host with lastRing := r } }) ∧
  ∀ (s : State) (r : Nat) (p : HostData), s.Ready → r < 16 → (∀ b, p = some b → b.length = 64) →
    s.view.ringTurn ≠ some r → exec (.commandFetch r p) s = .next s

/-- R405: the boot ROM fetches from ring 0 only; it takes IDENTIFY, which it answers with BOOT = 0, and LOAD_FIRMWARE;
NEGOTIATE and every other opcode complete with NOT_READY. -/
def Obligations.BootRomCommands : Prop :=
  (∀ (s : State) (r : Nat) (p : HostData), s.Ready → s.dev.boot.fw = false → r < 16 → r ≠ 0 →
    (∀ b, p = some b → b.length = 64) → exec (.commandFetch r p) s = .next s) ∧
  (∀ (s : State) (b : Bytes), s.Ready → s.dev.boot.fw = false → b.length = 64 → s.view.ringTurn = some 0 →
    s.view.busMaster = true →
    let c := parseCmd b (s.view.ringHead 0) s.dev.host.fetches
    (c.opcode ≠ 2 → c.opcode ≠ 0x10 → ∃ t, exec (.commandFetch 0 (some b)) s = .next t ∧
      s.Replied t 0 c [] scNotReady 0 0) ∧
    ((c.opcode = 2 ∨ c.opcode = 0x10) → s.view.bootFailed = false → c.plen ≤ 48 → c.plen % 8 = 0 →
      reservedAt c.opcode b c.params = none →
      ∃ t, exec (.commandFetch 0 (some b)) s = .next t ∧ (t.view.ring 0).cmd = some c ∧ t.dev.out = s.dev.out)) ∧
  (∀ (s : State) (c : Cmd), s.Ready → s.dev.boot.fw = false → s.Serves 0 2 c → c.p 0 % 8 = 0 →
    ∃ t rec, exec (.identify 0) s = .next t ∧ leNat rec 2 1 = 0 ∧ rec.length = 128 ∧
      s.Replied t 0 c [.hostWrite (c.p 0) rec] scOk 0 (s.view.stations + 256 * s.dev.chip.stepping)) ∧
  ∀ s : State, s.dev.boot.fw = false → s.view.bootFailed = false → s.view.gate 0x10 = none

/-- LOAD_FIRMWARE makes the tests of Table 16.2 in order: the read, the form, the vendor key's digest, the code's digest,
the signature. The first that fails is the cause that SEC_BOOT_STATUS keeps with stage FAILED; an image that passes them
all starts the firmware, and DDR training begins.
Completes: loadFirmware. -/
def Obligations.FirmwareLoadTests : Prop :=
  ∀ (s : State) (r : Nat) (c : Cmd), s.Ready → r < 16 → s.Serves r 0x10 c → s.dev.boot.fw = false →
    s.dev.host.heldOut = [] →
    (∃ t, exec (.loadFirmware r none) s = .next t ∧ bits (t.reg Reg.secBootStatus) 1 0 = 3 ∧
      bits (t.reg Reg.secBootStatus) 4 2 = 5 ∧ s.Replied t r c [] scBadParam 16 0 ∧
      s.RepliesAlone t r [Reg.secBootStatus]) ∧
    ∀ b : Bytes, c.p 1 ≤ b.length →
      let n := 2848 + leNat b 12 4
      let f := sha3 (b.take n)
      let cause :=
        if firmwareForm b (c.p 1) = false then some (4, scBadParam, 24)
        else if sha3 (slice b 256 2592) ≠ s.dev.chip.vkeyDigest then some (2, scSignature, 0)
        else if f ≠ slice b n 64 then some (3, scSignature, 0)
        else if Config.mldsaVerify (slice b 256 2592) f (slice b (n + 64) 4627) = false then some (3, scSignature, 0)
        else none
      ∃ t, exec (.loadFirmware r (some b)) s = .next t ∧
        match cause with
        | some (k, status, detail) =>
          bits (t.reg Reg.secBootStatus) 1 0 = 3 ∧ bits (t.reg Reg.secBootStatus) 4 2 = k ∧
            s.Replied t r c [] status detail 0 ∧ s.RepliesAlone t r [Reg.secBootStatus]
        | none =>
          bits (t.reg Reg.secBootStatus) 1 0 = 2 ∧ t.dev.boot = { s.dev.boot with
              rom := false, fw := true, fwKey := slice b 256 2592, fwVersion := leNat b 8 4, training := true } ∧
            (∀ w, w < 16 → t.reg (Reg.secFwDigest w) = leNat f (4 * w) 4) ∧ (t.view.ring r).cmd = none ∧
            bit (t.reg Reg.ilStatus) 0 = true ∧ bit (t.reg Reg.ilStatus) 1 = false

/-- NEGOTIATE chooses the highest version that the host's range and Table 13.12 share, and is refused where they share
none or while a job is queued, running or stabled. IDENTIFY writes its 128-byte record.
Completes: negotiate, identify.
DUMP_TOKENS writes a 32-byte record for each slot of the stations it names; READ_COUNTERS one 8-byte value for each
offset of its list, in list order.
Completes: dumpTokens, readCounters. -/
def Obligations.QueryCommands : Prop :=
  ((∀ (s : State) (r : Nat) (c : Cmd) (v : Nat), s.Ready → r < 16 → s.Serves r 1 c → s.view.anyJob = none →
     v ∈ ifVersions → bits (c.p 0) 15 0 ≤ v → v ≤ bits (c.p 0) 31 16 →
     (∀ u ∈ ifVersions, bits (c.p 0) 15 0 ≤ u → u ≤ bits (c.p 0) 31 16 → u ≤ v) →
     ∃ t, exec (.negotiate r) s = .next t ∧ t.view.version = v ∧ s.Replied t r c [] scOk 0 v ∧
       s.RepliesAlone t r [Reg.coIfVersion]) ∧
   (∀ (s : State) (r : Nat) (c : Cmd), s.Ready → r < 16 → s.Serves r 1 c → s.view.anyJob = none →
     (∀ u ∈ ifVersions, ¬(bits (c.p 0) 15 0 ≤ u ∧ u ≤ bits (c.p 0) 31 16)) →
     ∃ t, exec (.negotiate r) s = .next t ∧ s.Replied t r c [] scVersion 0 0 ∧ s.RepliesAlone t r []) ∧
   (∀ (s : State) (r : Nat) (c : Cmd) (h : Nat), s.Ready → r < 16 → s.Serves r 1 c → s.view.anyJob = some h →
     ∃ t, exec (.negotiate r) s = .next t ∧ s.Replied t r c [] scBusy (busyDetail 0x40 0 h) 0 ∧ s.RepliesAlone t r []) ∧
   (∀ (s : State) (r : Nat) (c : Cmd), s.Ready → r < 16 → s.Serves r 2 c → c.p 0 % 8 = 0 →
     ∃ t rec, exec (.identify r) s = .next t ∧ rec.length = 128 ∧
       s.Replied t r c [.hostWrite (c.p 0) rec] scOk 0 (s.view.stations + 256 * s.dev.chip.stepping) ∧
       s.RepliesAlone t r [] ∧ leNat rec 0 1 = s.view.stations % 256 ∧ leNat rec 1 1 = s.dev.chip.stepping % 256 ∧
       leNat rec 2 1 = b2n s.dev.boot.fw ∧ leNat rec 3 1 = s.view.lifeCycle ∧
       leNat rec 8 2 = s.view.version ∧ leNat rec 16 8 = s.view.capacity)) ∧
  ((∀ (s : State) (r : Nat) (c : Cmd), s.Ready → r < 16 → s.Serves r 0x50 c → c.p 0 < 2 ^ s.view.stations →
     c.p 1 % 32 = 0 →
     let sts := maskBits (c.p 0) 16
     ∃ t data, exec (.dumpTokens r) s = .next t ∧
       s.Replied t r c [.hostWrite (c.p 1) data] scOk 0 (48 * sts.length) ∧ s.RepliesAlone t r [] ∧
       data.length = 48 * 32 * sts.length ∧
       data = sts.flatMap fun st => (List.range 48).flatMap fun k => (List.range 8).flatMap fun w =>
         toLe 4 (s.view.slotWord st k w)) ∧
   (∀ (s : State) (r : Nat) (c : Cmd) (b : Bytes), s.Ready → r < 16 → s.Serves r 0x51 c → 1 ≤ c.p 1 → c.p 1 ≤ 4096 →
     8 * c.p 1 ≤ b.length → (∀ k, k < 64 → s.CounterQuiet k) →
     ∃ t data, exec (.readCounters r (some b)) s = .next t ∧ s.Replied t r c [.hostWrite (c.p 2) data] scOk 0 (c.p 1) ∧
       s.RepliesAlone t r [] ∧ data.length = 8 * c.p 1 ∧
       ∀ i, i < c.p 1 → slice data (8 * i) 8 = toLe 8 (s.view.counterRead (leNat b (8 * i) 8))) ∧
   ∀ (s : State) (r : Nat) (p : HostData), s.Ready → r < 16 → s.view.busMaster = false →
     exec (.dumpTokens r) s = .next s ∧ exec (.readCounters r p) s = .next s ∧ exec (.identify r) s = .next s)

/-- START_MAINTENANCE starts the activity that it names: configuration scrub, a patrol scrub on every station or channel of
its mask, the retrain of a channel in reordering service or of a port that is UP; a conflict refuses it with BUSY_CONFLICT,
and an activity or a target that does not exist with BAD_PARAM. STOP_MAINTENANCE stops a scrub and leaves a retrain alone.
Completes: startMaintenance, stopMaintenance.
WIPE writes 0 with valid codes over the range that it names, or all of DDR space outside the depot area, and nothing
else; it is refused while a job has a DDR window in the range. SAMPLE_SCRATCHPAD of a window, to a destination that nothing
claims, begins: the sample is held with every bay's reads to come, and its reply waits.
Completes: sampleScratchpad, wipe. -/
def Obligations.MaintenanceCommands : Prop :=
  (∀ (s : State) (r : Nat) (c : Cmd), s.Ready → r < 16 →
     let code := bits (c.p 0) 7 0
     let target := bits (c.p 0) 31 16
     let a : Activity := { code := code, target := target }
     let known := 1 ≤ code ∧ code ≤ 5 ∧ (code = 1 → target = 0) ∧ (code = 2 → target < 2 ^ s.view.stations) ∧
       (code = 4 → target < 16) ∧ (code = 5 → target < 6)
     let p := s.view.physPort target
     (s.Serves r 0x60 c → ∃ t, exec (.startMaintenance r) s = .next t ∧
       (¬known → s.Replied t r c [] scBadParam (if code < 1 ∨ 5 < code then 16 else 18) 0 ∧ s.RepliesAlone t r []) ∧
       (known → ∀ d, s.view.maintConflict a = some d → s.Replied t r c [] scBusy d 0 ∧ s.RepliesAlone t r []) ∧
       (known → s.view.maintConflict a = none → s.Replied t r c [] scOk 0 0 ∧
         (code = 1 → t.dev.maint = s.dev.maint ++ [a] ∧ bit (t.reg Reg.gangStatus) 0 = true ∧
           bit (t.reg Reg.gangStatus) 1 = false ∧ t.dev.gang.enable = [1, 1, 1] ∧
           s.KeepsBut t [Reg.ringStatus r, Reg.gangStatus] ∧ t.dev.stn = s.dev.stn ∧ t.dev.ddr = s.dev.ddr) ∧
         (code = 2 → s.KeepsBut t [Reg.ringStatus r] ∧
           t.dev.maint = (if target = 0 then s.dev.maint else s.dev.maint ++ [a]) ∧
           (∀ st, st < 16 → bit target st = true →
             t.view.stn st = { s.view.stn st with scrubOn := true, scrubNext := s.view.now }) ∧
           (∀ st, bit target st = false → t.view.stn st = s.view.stn st) ∧
           t.dev = { s.dev with host := t.dev.host, out := t.dev.out, maint := t.dev.maint, stn := t.dev.stn }) ∧
         (code = 3 → s.KeepsBut t [Reg.ringStatus r] ∧
           t.dev.maint = (if target = 0 then s.dev.maint else s.dev.maint ++ [a]) ∧
           (∀ k, k < 16 → bit target k = true →
             t.view.ch k = { s.view.ch k with scrubOn := true, scrubNext := s.view.now }) ∧
           (∀ k, bit target k = false → t.view.ch k = s.view.ch k) ∧
           t.dev = { s.dev with host := t.dev.host, out := t.dev.out, maint := t.dev.maint, ddr := t.dev.ddr }) ∧
         (code = 4 → s.KeepsBut t [Reg.ringStatus r] ∧ (∀ k, k ≠ target → t.view.ch k = s.view.ch k) ∧
           if (s.view.ch target).service = svReorder then
             t.dev.maint = s.dev.maint ++ [a] ∧
               t.view.ch target = { s.view.ch target with service := svOffline, retrain := some s.view.now }
           else t.dev.maint = s.dev.maint ∧ t.view.ch target = s.view.ch target) ∧
         (code = 5 → if s.view.portState p = psUp then t.dev.maint = s.dev.maint ++ [a] ∧ t.view.portState p = psRetrain
           else t.dev.maint = s.dev.maint ∧ t.view.portState p = s.view.portState p))) ∧
     (s.Serves r 0x61 c → ∃ t, exec (.stopMaintenance r) s = .next t ∧
       (¬known → s.Replied t r c [] scBadParam (if code < 1 ∨ 5 < code then 16 else 18) 0 ∧ s.RepliesAlone t r []) ∧
       (known → s.Replied t r c [] scOk 0 0 ∧
         (code = 1 → t.dev.maint = s.dev.maint.filter (fun x => x.code != 1) ∧ bit (t.reg Reg.gangStatus) 0 = false ∧
           s.KeepsBut t [Reg.ringStatus r, Reg.gangStatus]) ∧
         (code = 2 → s.KeepsBut t [Reg.ringStatus r] ∧ t.dev.maint = maintLeft s.dev.maint 2 target ∧
           (∀ st, st < 16 → bit target st = true → t.view.stn st = { s.view.stn st with scrubOn := false }) ∧
           (∀ st, bit target st = false → t.view.stn st = s.view.stn st)) ∧
         (code = 3 → s.KeepsBut t [Reg.ringStatus r] ∧ t.dev.maint = maintLeft s.dev.maint 3 target ∧
           (∀ k, k < 16 → bit target k = true → t.view.ch k = { s.view.ch k with scrubOn := false }) ∧
           (∀ k, bit target k = false → t.view.ch k = s.view.ch k)) ∧
         (4 ≤ code → s.RepliesAlone t r [])))) ∧
  ((∀ (s : State) (r : Nat) (c : Cmd), s.Ready → r < 16 → s.Serves r 0xB0 c →
     let all := c.p 0 = 1
     let lo := if all then 0 else c.p 1
     let hi := if all then s.view.depotBase else c.p 1 + c.p 2
     (¬all → c.p 1 % 65536 = 0 ∧ c.p 2 % 65536 = 0 ∧ s.view.ddrReachable lo (c.p 2) = true) →
     ∃ t, exec (.wipe r) s = .next t ∧
     (∀ h, s.view.windowJob lo hi = some h → s.Replied t r c [] scBusy (busyDetail 0x40 0 h) 0 ∧ s.RepliesAlone t r []) ∧
     (s.view.windowJob lo hi = none → (∀ a ∈ s.dev.maint, a.code ≠ 4) → s.dev.samples = [] →
       s.Replied t r c [] scOk 0 0 ∧
         (∀ a, lo ≤ a → a < hi → t.ddrAt a = 0 ∧ t.view.ddrByte a = 0) ∧
         (∀ a, a < lo ∨ hi ≤ a → t.ddrAt a = s.ddrAt a ∧ t.view.ddrByte a = s.view.ddrByte a) ∧
         (∀ k, lo ≤ k * 128 → k * 128 < hi → ffind t.dev.ddrErr k = none) ∧
         (∀ a, t.slabAt a = s.slabAt a) ∧ (∀ k, t.planeAt k = s.planeAt k) ∧
         (∀ o, o ≠ Reg.ringStatus r → t.reg o = s.reg o))) ∧
   (∀ (s : State) (r : Nat) (c : Cmd), s.Ready → r < 16 → s.Serves r 0x62 c → 0 < c.p 0 → c.p 0 < 2 ^ s.view.stations →
     let first := bits (c.p 1) 19 0
     let bytes := if bits (c.p 1) 39 20 = 0 then 4096 else bits (c.p 1) 39 20
     let size := 256 * bytes * popCount (c.p 0) 16
     first % 128 = 0 → bytes % 128 = 0 → first + bytes ≤ slabSize → c.p 2 % 4096 = 0 →
     s.view.ddrReachable (c.p 2) size = true → s.view.windowJob (c.p 2) (c.p 2 + size) = none →
     (∀ a ∈ s.dev.maint, a.code ≠ 4) → s.dev.samples = [] →
     ∃ t, exec (.sampleScratchpad r) s = .next t ∧ t.mem = s.mem ∧ t.dev.out = s.dev.out ∧
       (t.view.ring r).cmd = some { c with begun := true } ∧
       t.dev.samples = [(r, { mask := c.p 0, first := first, bytes := bytes, dest := c.p 2
                              left := 256 * popCount (c.p 0) 16 * (bytes / 128) })]))

/-- LOAD_CONSIST begins a load, which IL_STATUS shows; one that meets a load in progress is BUSY_CONFLICT and names it. When
the load ends (in the next ARCLK cycle, log 65), an image that passes every check makes its consist resident at the lowest
free index, with its tokens idle and its counters assigned, enables the outputs, and answers the index after the load report;
a refused one is recorded, counted, turns the outputs off and answers its status, and no consist changes. An image whose
first bytes cannot be read fails check 2. Completes: loadConsist. -/
def Obligations.LoadConsist : Prop :=
  (∀ (s : State) (r : Nat) (image pass2 patch : HostData) (c : Cmd), s.Ready → r < 16 → s.Serves r 0x20 c →
    let n := bits (c.p 4) 8 0
    let refused := fun (status detail : Nat) => ∃ t, exec (.loadConsist r image pass2 patch) s = .next t ∧
      s.Replied t r c [] status detail 0 ∧ s.RepliesAlone t r []
    (256 < n → refused scBadParam 48) ∧
    (n ≤ 256 → n ≠ 0 → (patch.getD []).length < 8 * n → refused scBadParam 40) ∧
    (n ≤ 256 → 8 * n ≤ (patch.getD []).length ∨ n = 0 →
      (∀ y, s.dev.load = some y → refused scBusy y.detail) ∧
      (s.dev.load = none → ∃ t, exec (.loadConsist r image pass2 patch) s = .next t ∧
        s.KeepsBut t [Reg.ilStatus] ∧ bit (t.reg Reg.ilStatus) 2 = true ∧ bit (t.reg Reg.ilStatus) 3 = false ∧
        (t.view.ring r).cmd = some { c with begun := true } ∧
        t.dev = { s.dev with
          load := some
            { ring := r, cmd := c, extent := s.view.goldenExtent ((image.getD []).take (c.p 1)) (c.p 1), image := image
              pass2 := pass2, patch := patch }
          host := { s.dev.host with rings := t.dev.host.rings } }))) ∧
  ∀ (s : State) (x : LoadRun) (c : Cmd), s.dev.load = some x → x.partialLoad = false → x.ring < 16 →
    (s.view.ring x.ring).cmd = some c → s.view.busMaster = true →
    let t := s.after s.view.loadEnd
    let len := x.cmd.p 1
    let m := (({ s.view with dev := { s.dev with load := none } } : Mach).setField Reg.ilStatus 2 2 0).freeVal
    let vals := (List.range (bits (x.cmd.p 4) 8 0)).map fun i => leNat (x.patch.getD []) (8 * i) 8
    let plan := m.2.planLoad x.extent ((x.image.getD []).take len) len (x.cmd.p 2) vals m.1.toNat
    let refused := fun (v : Verdict) => bit (s.reg Reg.ilCtrl) 0 = false →
      s.Replied t x.ring c [] v.status v.detail 0 ∧
        s.KeepsBut t [Reg.ringStatus x.ring, Reg.ilErr, Reg.ilErrDetail, Reg.ilRefusals, Reg.ilStatus] ∧
        t.dev.load = none ∧ t.dev.consists = s.dev.consists ∧ t.dev.tokens = s.dev.tokens ∧
        t.reg Reg.ilErr = pack [(0, 16, v.status), (16, 4, v.check), (24, 8, v.region.getD 0), (63, 1, 1)] ∧
        t.reg Reg.ilErrDetail = v.detail % 2 ^ 64 ∧
        t.reg Reg.ilRefusals = statBump (s.reg Reg.ilRefusals) % 2 ^ 64 ∧ bit (t.reg Reg.ilStatus) 0 = false ∧
        bit (t.reg Reg.ilStatus) 1 = true ∧ bit (t.reg Reg.ilStatus) 2 = false
    (∀ v, plan = .error v → v.status ≠ scBadParam → v.status ≠ scVersion → refused v) ∧
    (x.image = none → 0 < len → refused ⟨scFrame, 2, 0, none⟩) ∧
    (∀ p v, plan = .ok p → p.secondBad ((x.pass2.getD []).take len) = some v → v.status ≠ scBadParam →
      v.status ≠ scVersion → refused v) ∧
    ∀ p, plan = .ok p → p.secondBad ((x.pass2.getD []).take len) = none → s.dev.host.heldOut = [] →
      (∀ d ∈ p.consist.counters, d.phys < 64) →
        s.Replied t x.ring c [.hostWrite (x.cmd.p 5) (loadReport p.consist)] scOk 0 p.index ∧ t.dev.load = none ∧
        t.view.consist p.index = some p.consist ∧ (∀ k, k ≠ p.index → t.view.consist k = s.view.consist k) ∧
        (∀ d ∈ p.consist.tokens,
          (t.view.token d.st d.slot).state = .idle ∧ (t.view.token d.st d.slot).consist = p.index) ∧
        (∀ d ∈ p.consist.counters, bit (t.reg (Reg.tkoOwner d.phys)) 12 = true ∧
          bits (t.reg (Reg.tkoOwner d.phys)) 5 0 = p.index % 64) ∧
        t.reg Reg.ilLoads = (s.reg Reg.ilLoads + 1) % 2 ^ 64 ∧ bit (t.reg Reg.ilStatus) 0 = true ∧
        bit (t.reg Reg.ilStatus) 1 = false ∧ bit (t.reg Reg.ilStatus) 2 = false

/-- LOAD_PARTIAL begins the load of one region of a resident consist; a refused image marks the region's standby planes
invalid and changes no other consist, one that passes replaces the region's frames. The region that configuration scrub
checks next is BUSY_CONFLICT. UNLOAD_CONSIST frees what a consist holds, and is BUSY_CONFLICT while a job of it runs or is
stabled. An index of no consist is BAD_PARAM in both. Completes: loadPartial, unloadConsist. -/
def Obligations.PartialLoadAndUnload : Prop :=
  (∀ (s : State) (r : Nat) (image : HostData) (c : Cmd), s.Ready → r < 16 → s.Serves r 0x21 c →
    let i := c.p 2 % 64
    let target := leNat ((image.getD []).take (c.p 1)) 13 1
    let refused := fun (status detail : Nat) => ∃ t, exec (.loadPartial r image) s = .next t ∧
      s.Replied t r c [] status detail 0 ∧ s.RepliesAlone t r []
    (s.view.consist i = none → refused scBadParam 32) ∧
    ((s.view.consist i).isSome = true → s.view.gangRegion = some (i, target) → refused scBusy (0x60 + 2 ^ 16)) ∧
    ((s.view.consist i).isSome = true → s.view.gangRegion ≠ some (i, target) →
      (∀ y, s.dev.load = some y → refused scBusy y.detail) ∧
      (s.dev.load = none → ∃ t, exec (.loadPartial r image) s = .next t ∧
        s.KeepsBut t [Reg.ilStatus] ∧ bit (t.reg Reg.ilStatus) 2 = true ∧ bit (t.reg Reg.ilStatus) 3 = true ∧
        (t.view.ring r).cmd = some { c with begun := true } ∧
        t.dev = { s.dev with
          load := some { ring := r, cmd := c, partialLoad := true, consist := i, target := target, image := image }
          host := { s.dev.host with rings := t.dev.host.rings } }))) ∧
  (∀ (s : State) (x : LoadRun) (c : Cmd) (old : Consist), s.dev.load = some x → x.partialLoad = true → x.ring < 16 →
    (s.view.ring x.ring).cmd = some c → s.view.busMaster = true → s.view.consist x.consist = some old →
    let t := s.after s.view.loadEnd
    let i := x.consist
    let len := x.cmd.p 1
    let m := (({ s.view with dev := { s.dev with load := none } } : Mach).setField Reg.ilStatus 2 2 0).freeVal
    let plan := m.2.planPartial ((x.image.getD []).take len) len i old m.1.toNat
    (∀ v, plan = .error v → v.status ≠ scBadParam → v.status ≠ scVersion → bit (s.reg Reg.ilCtrl) 0 = false →
      s.Replied t x.ring c [] v.status v.detail 0 ∧
        s.KeepsBut t [Reg.ringStatus x.ring, Reg.ilErr, Reg.ilErrDetail, Reg.ilRefusals, Reg.ilStatus] ∧
        (∀ k, k ≠ i → t.view.consist k = s.view.consist k) ∧ t.view.consist i = some
          (if x.target < old.nRegions then { old with regInv := old.regInv ||| 2 ^ x.target } else old) ∧
        t.reg Reg.ilErr =
          pack [(0, 16, v.status), (16, 4, v.check), (20, 1, 1), (24, 8, v.region.getD x.target), (63, 1, 1)] ∧
        bit (t.reg Reg.ilStatus) 0 = bit (s.reg Reg.ilStatus) 0 ∧
        bit (t.reg Reg.ilStatus) 1 = bit (s.reg Reg.ilStatus) 1 ∧ bit (t.reg Reg.ilStatus) 2 = false) ∧
    (∀ p, plan = .ok p → (∀ e ∈ s.dev.jobs, e.2.consist = i → e.2.install = none) →
      s.Replied t x.ring c [] scOk 0 0 ∧ t.view.consist i = some p.1 ∧
        (∀ k, k ≠ i → t.view.consist k = s.view.consist k) ∧
        t.reg Reg.ilLoads = (s.reg Reg.ilLoads + 1) % 2 ^ 64 ∧ t.dev.jobs = s.dev.jobs ∧
        s.KeepsBut t [Reg.ringStatus x.ring, Reg.ilStatus, Reg.ilLoads])) ∧
  ∀ (s : State) (r : Nat) (c : Cmd), s.Ready → r < 16 → s.Serves r 0x22 c →
    let i := c.p 0 % 64
    (s.view.consist i = none → ∃ t, exec (.unloadConsist r) s = .next t ∧ s.Replied t r c [] scBadParam 16 0 ∧
      s.RepliesAlone t r []) ∧
    ∀ x, s.view.consist i = some x →
      (∀ h, s.view.runningOf i = some h → ∃ t, exec (.unloadConsist r) s = .next t ∧
        s.Replied t r c [] scBusy (busyDetail 0x40 0 h) 0 ∧ s.RepliesAlone t r []) ∧
      ((∀ e ∈ s.dev.jobs, e.2.consist ≠ i) → (∀ d ∈ x.tokens, (s.view.token d.st d.slot).waiters = []) →
        (∀ d ∈ x.counters, d.phys < 64) → ∃ t, exec (.unloadConsist r) s = .next t ∧ s.Replied t r c [] scOk 0 0 ∧
          t.dev.consists = fdel s.dev.consists i ∧ t.dev.jobs = s.dev.jobs ∧
          (∀ d ∈ x.tokens, t.view.token d.st d.slot = {}) ∧
          (∀ d ∈ x.counters, t.reg (Reg.tkoOwner d.phys) = 0) ∧ bit (t.reg Reg.goldenBad) i = false ∧
          s.KeepsBut t (Reg.ringStatus r :: Reg.goldenBad :: x.counters.map fun d => Reg.tkoOwner d.phys))

/-- SUBMIT_JOB takes the lowest free handle and the next sequence number, which it answers, and queues the job with what its
packet and argument block say; a result window is marked not ready. A consist that is not resident and a result address
that is not aligned are BAD_PARAM, a window whose job has not been released is BUSY_CONFLICT.
Completes: submitJob.
CANCEL_JOB of a job that has completed answers OK and changes nothing else; one of a running job is answered when the
job has ended, and marks it; one of a job that waits to start completes it with CONTEXT_FAULT. A handle of no job is
BAD_PARAM.
Completes: cancelJob.
RELEASE_RESULT frees the handle of a job that has completed and its window; the wrong sequence number is STALE_JOB with
the one of the handle's job, a handle of no job is STALE_JOB, a job that has not completed is NOT_READY. It waits
for a CANCEL_JOB of the handle that was fetched before it.
Completes: releaseResult. -/
def Obligations.JobCommands : Prop :=
  (∀ (s : State) (r : Nat) (args : HostData) (c : Cmd), s.Ready → r < 16 → s.Serves r 0x40 c →
     let w := c.p 0
     let win := if bit w 8 then some (bits w 18 11) else none
     let seq := s.reg Reg.coSeqNext
     let block := if c.p 4 = 0 then [] else (args.getD []).take 64
     (s.view.consist (bits w 5 0) = none → ∃ t, exec (.submitJob r args) s = .next t ∧
       s.Replied t r c [] scBadParam 16 0 ∧ s.RepliesAlone t r []) ∧
     ((s.view.consist (bits w 5 0)).isSome = true → bit w 9 = false →
       (bit w 8 = true → 0x301 ≤ s.view.version ∧ bits w 18 11 ≤ 239 ∧ c.p 2 % 4096 = 0 ∧ c.p 3 ≠ 0 ∧ c.p 3 ≤ 65280) →
       (bit w 8 = false → c.p 2 % 128 ≠ 0 → ∃ t, exec (.submitJob r args) s = .next t ∧
         s.Replied t r c [] scBadParam 32 0 ∧ s.RepliesAlone t r []) ∧
       ((bit w 8 = false → c.p 2 % 128 = 0) → (c.p 4 ≠ 0 → 64 ≤ (args.getD []).length) →
         (∀ k, win = some k → (s.view.window k).busy = true → ∃ t, exec (.submitJob r args) s = .next t ∧
           s.Replied t r c [] scBusy (busyDetail 0x40 0 (s.view.window k).job) 0 ∧ s.RepliesAlone t r []) ∧
         (∀ h, (∀ k, win = some k → (s.view.window k).busy = false) → bit w 6 = false → h < 4096 →
           s.view.job h = none → (∀ k, k < h → (s.view.job k).isSome = true) →
           (∀ e ∈ s.dev.jobs, e.2.rtWaits = false ∧ e.2.phase ≠ .running) →
           ∃ t, exec (.submitJob r args) s = .next t ∧ s.Replied t r c [] scOk seq h ∧
             s.KeepsBut t [Reg.ringStatus r, Reg.coSeqNext] ∧ t.reg Reg.coSeqNext = (seq + 1) % 2 ^ 64 ∧
             t.view.job h = some
               { consist := bits w 5 0, abortOk := bit w 7, window := win, recPhase := bit w 10
                 vector := if bit w 19 then some (bits w 25 20) else none
                 deadline := c.p 1, result := c.p 2, winLen := c.p 3
                 args := (List.range 8).map fun i => BitVec.ofNat 64 (leNat block (8 * i) 8)
                 argBytes := block, seq := seq } ∧
             (∀ k, k ≠ h → t.view.job k = s.view.job k) ∧
             ∀ k, t.view.window k = if win = some k then
                 { status := scNotReady, job := h, seq := seq, winLen := c.p 3, result := c.p 2, busy := true }
               else s.view.window k)))) ∧
  (∀ (s : State) (r : Nat) (c : Cmd), s.Ready → r < 16 → s.Serves r 0x41 c →
     let h := c.p 0 % 4096
     (s.view.job h = none → ∃ t, exec (.cancelJob r) s = .next t ∧ s.Replied t r c [] scBadParam 16 0 ∧
       s.RepliesAlone t r []) ∧
     ∀ j, s.view.job h = some j →
       (j.phase = .ended ∨ j.phase = .finishing → ∃ t, exec (.cancelJob r) s = .next t ∧
         s.Replied t r c [] scOk 0 0 ∧ s.RepliesAlone t r []) ∧
       (j.phase = .running → ∃ t, exec (.cancelJob r) s = .next t ∧ t.mem = s.mem ∧ t.dev.out = s.dev.out ∧
         (t.view.ring r).cmd = some { c with begun := true } ∧
         t.view.job h = some { j with
           cancel := true, rings := j.rings ++ [r]
           faultAt := if j.fault.isSome ∨ j.cancel then j.faultAt else s.view.now } ∧
         t.dev = { s.dev with jobs := t.dev.jobs, host := { s.dev.host with rings := t.dev.host.rings } }) ∧
       (j.phase = .queued → s.OnlyJob h j → j.window = none → j.vector = none → j.countersign = false →
         ∃ t made, exec (.cancelJob r) s = .next t ∧ s.Replied t r c made scOk 0 0 ∧ made.length = 3 ∧
           t.view.job h = some { j with status := scFault, phase := .ended, install := none })) ∧
  ((∀ (s : State) (r r' : Nat) (c d : Cmd), s.Ready → r < 16 → r' ≠ r → (s.view.ring r).cmd = some c → c.opcode = 0x42 →
     (s.view.ring r').cmd = some d → d.opcode = 0x41 → d.begun = false → d.order < c.order →
     d.p 0 % 4096 = c.p 0 % 4096 → exec (.releaseResult r) s = .next s) ∧
   ∀ (s : State) (r : Nat) (c : Cmd), s.Ready → r < 16 → s.Serves r 0x42 c →
     let h := c.p 0 % 4096
     (s.view.job h = none → ∃ t, exec (.releaseResult r) s = .next t ∧ s.Replied t r c [] scStale 0 0 ∧
       s.RepliesAlone t r []) ∧
     ∀ j, s.view.job h = some j →
       (j.seq ≠ c.p 1 → ∃ t, exec (.releaseResult r) s = .next t ∧ s.Replied t r c [] scStale j.seq 0 ∧
         s.RepliesAlone t r []) ∧
       (j.seq = c.p 1 → j.phase ≠ .ended → ∃ t, exec (.releaseResult r) s = .next t ∧
         s.Replied t r c [] scNotReady 0 0 ∧ s.RepliesAlone t r []) ∧
       (j.seq = c.p 1 → j.phase = .ended → ∃ t, exec (.releaseResult r) s = .next t ∧ s.Replied t r c [] scOk 0 0 ∧
         s.KeepsBut t [Reg.ringStatus r] ∧ t.dev.jobs = fdel s.dev.jobs h ∧
         ∀ k, t.view.window k = if j.window = some k then { s.view.window k with status := scStale, busy := false }
           else s.view.window k))

/-! ### The package and the resets -/

/-- The I3C target: SETDASA and ENTDAA give a dynamic address to a target that has none, RSTDAA takes it away; ENEC and
DISEC set and clear event enables; with a dynamic address, a private write of one byte sets the register offset, one of
four bytes writes the sideband register there, and a read returns four bytes.
Completes: i3cPrivateWrite, i3cPrivateRead, setdasa, entdaa, rstdaa, enec, disec, getpid, getstatus.
The test access port: IDCODE shifts out the part's code, BYPASS one bit, SAMPLE/PRELOAD the pins while it loads the
boundary register, and EXTEST drives the pins while PERST_N is low and is BYPASS otherwise.
Completes: samplePreload, bypass, idcode, extest.
A sensor update shows the highest temperature and both power averages, sets the alerts whose conditions hold, and trips
where a sensor reads 120 °C or more; a trip stops every clock but AONCLK.
Completes: thermalTrip, sensorUpdate. -/
def Obligations.PackageInterfaces : Prop :=
  ((∀ (s : State) (a : Nat), s.Powered → a < 128 → s.dev.side.dynAddr = none →
     exec (.setdasa a) s = .next { s with dev := { s.dev with side := { s.dev.side with dynAddr := some a } } } ∧
     exec (.entdaa a) s = .next { s with dev := { s.dev with side := { s.dev.side with dynAddr := some a } } }) ∧
   (∀ (s : State) (a b : Nat), s.Powered → a < 128 → s.dev.side.dynAddr = some b →
     exec (.setdasa a) s = .next s ∧ exec (.entdaa a) s = .next s) ∧
   (∀ s : State, s.Powered →
     exec .rstdaa s = .next { s with dev := { s.dev with side := { s.dev.side with dynAddr := none } } }) ∧
   (∀ (s : State) (e : Nat), s.Powered → e < 256 →
     ∃ t u, exec (.enec e) s = .next t ∧ exec (.disec e) s = .next u ∧
       t = { s with dev := { s.dev with side := { s.dev.side with events := t.dev.side.events } } } ∧
       u = { s with dev := { s.dev with side := { s.dev.side with events := u.dev.side.events } } } ∧
       ∀ i, bit t.dev.side.events i = (bit s.dev.side.events i || bit e i) ∧
         bit u.dev.side.events i = (bit s.dev.side.events i && !bit e i)) ∧
   (∀ (s : State) (b : Byte) (a : Nat), s.Powered → s.dev.side.dynAddr = some a →
     exec (.i3cPrivateWrite [b]) s =
       .next { s with dev := { s.dev with side := { s.dev.side with offset := b.toNat } } }) ∧
   (∀ (s : State) (d : Bytes) (a : Nat), s.Powered → s.dev.side.dynAddr = some a →
     ∃ t, exec (.i3cPrivateWrite d) s = .next t ∧ t.pending = s.pending ∧
       (d.length = 4 → s.dev.side.offset = 0xC → t.dev = s.dev ∧ s.RegsBecome t [(Reg.sbAlertEn, leNat d 0 4 % 64)]) ∧
       (d.length ≠ 1 → d.length ≠ 4 → t = s)) ∧
   (∀ (s : State) (a : Nat), s.Powered → s.dev.side.dynAddr = some a →
     exec .i3cPrivateRead s = .next { s with dev := { s.dev with
       out := .i3c (toLe 4 (if s.dev.side.offset % 4 = 0 then s.view.sideValue s.dev.side.offset else 0)) :: s.dev.out } }) ∧
   (∀ (s : State) (a : Nat), s.Powered → s.dev.side.dynAddr = some a →
     exec .getpid s = .next { s with dev := { s.dev with out := .i3c Config.i3cPid :: s.dev.out } } ∧
     exec .getstatus s = .next { s with dev := { s.dev with
       free := s.dev.free + 1, out := .i3c (Config.i3cStatus s.dev.free) :: s.dev.out } }) ∧
   ∀ (s : State) (d : Bytes), s.Powered → s.dev.side.dynAddr = none →
     exec (.i3cPrivateWrite d) s = .next s ∧ exec .i3cPrivateRead s = .next s ∧ exec .getpid s = .next s ∧
       exec .getstatus s = .next s) ∧
  ((∀ s : State, s.Powered → exec .bypass s = .next { s with dev := { s.dev with
       side := { s.dev.side with jtag := 0, driving := false }, out := .tdo 0 1 :: s.dev.out } }) ∧
   (∀ s : State, s.Powered →
     ∃ t w, exec .idcode s = .next t ∧
       t = { s with dev := { s.dev with
         side := { s.dev.side with jtag := 1, driving := false }, out := .tdo (BitVec.ofNat 64 w) 32 :: s.dev.out } } ∧
       bit w 0 = true ∧ bits w 11 1 = 0x2C7 ∧ bits w 27 12 = 0x5A12 - s.dev.chip.grade ∧
       bits w 31 28 = s.dev.chip.stepping % 16) ∧
   (∀ (s : State) (pins load : W64), s.Powered → exec (.samplePreload pins load) s = .next { s with dev := { s.dev with
       side := { s.dev.side with jtag := 2, driving := false, boundary := load }, out := .tdo pins 64 :: s.dev.out } }) ∧
   (∀ s : State, s.Powered → s.dev.clk.perst = true → exec .extest s = .next { s with dev := { s.dev with
       side := { s.dev.side with jtag := 3, driving := true } } }) ∧
   ∀ s : State, s.Powered → s.dev.clk.perst = false → exec .extest s = exec .bypass s) ∧
  ((∀ (s : State) (ts : Temps) (avg1 avg100 : Nat), s.Powered → ts.length = 8 → avg1 < 4096 → avg100 < 4096 →
     (∀ t ∈ ts, -128 ≤ t ∧ t < 128) →
     ∃ t, exec (.sensorUpdate ts avg1 avg100) s = .next t ∧ s.KeepsBut t [Reg.sbTemp, Reg.sbPower, Reg.sbAlert] ∧
       bits (t.reg Reg.sbPower) 11 0 = avg1 ∧ bits (t.reg Reg.sbPower) 23 12 = avg100 ∧
       toSigned 8 (bits (t.reg Reg.sbTemp) 7 0) ∈ ts ∧ (∀ x ∈ ts, x ≤ toSigned 8 (bits (t.reg Reg.sbTemp) 7 0)) ∧
       nth 0 ts (bits (t.reg Reg.sbTemp) 10 8) = toSigned 8 (bits (t.reg Reg.sbTemp) 7 0) ∧
       (2400 < avg100 → bit (t.reg Reg.sbAlert) 1 = true) ∧ (2700 < avg1 → bit (t.reg Reg.sbAlert) 2 = true) ∧
       ((∀ x ∈ ts, x < 120) → t.dev.clk = s.dev.clk) ∧
       ((∃ x ∈ ts, 120 ≤ x) → t.dev.clk = { s.dev.clk with
         tripped := true, arclkOn := false, hclkOn := false, dclk := 0, fbclk := 0 })) ∧
   ∀ s : State, s.Powered → exec .thermalTrip s = .next { s with dev := { s.dev with clk := { s.dev.clk with
     tripped := true, arclkOn := false, hclkOn := false, dclk := 0, fbclk := 0 } } })

/-- COLD_RESET puts every register, plane and memory back and keeps the fuses alone; on a device that still has power it
includes the loss of power. The loss of power cuts a burn off with some of its fuses blown, none unblown and BURNT not
blown, and a life-cycle transition with some of its fuses blown.
Completes: coldReset, lossOfPower.
A warm device reset asserts PERST_N and stops ARCLK and HCLK; no job, consist or token is left; the registers that
survive it, and where SYSCLK runs DDR space outside the depot area, are as before, and every slab reads 0. Without SYSCLK
the contents of DDR space are undefined; a life-cycle transition in progress is cut off.
Completes: warmDeviceReset.
PERST_N released: the boot ROM runs on its clocks, and a part in DECOMMISSIONED records its failure at once; after a
thermal trip, or without SYSCLK, every clock but AONCLK stays stopped.
Completes: perstNDeassert. -/
def Obligations.PowerAndResets : Prop :=
  ((∀ s : State, ∃ t, exec .coldReset s = .next t ∧
     (∀ o, o < 2 ^ 64 → t.reg o = (regReset o).toNat) ∧ (∀ a, a < 2 ^ 64 → t.slabAt a = 0 ∧ t.ddrAt a = 0) ∧
     (∀ k, k < 2 ^ 64 → t.planeAt k = (planeReset k).toNat) ∧
     t.dev = { chip := t.dev.chip, sec := { draws := t.dev.sec.draws }, free := t.dev.free, out := s.dev.out } ∧
     (s.dev.clk.powered = false ∨ (s.dev.boot.lcTarget = none ∧ s.dev.sec.burning = none) →
       t.dev = { chip := s.dev.chip, sec := { draws := s.dev.sec.draws + 1 }, free := s.dev.free, out := s.dev.out })) ∧
   (∀ s : State, ∃ t, exec .lossOfPower s = .next t ∧ t.dev.clk = { s.dev.clk with powered := false } ∧ t.mem = s.mem ∧
     (s.dev.clk.powered = false → t = s) ∧
     (s.dev.clk.powered = true → t.dev.boot.lcTarget = none ∧ t.dev.sec.burning = none ∧
       t.dev.chip.burnt = s.dev.chip.burnt ∧ t.dev.chip.revoked = s.dev.chip.revoked ∧
       (s.dev.boot.lcTarget = none → s.dev.sec.burning = none →
         t = { s with dev := { s.dev with clk := { s.dev.clk with powered := false } } }) ∧
       (s.dev.boot.lcTarget = none → ∀ slot key, s.dev.sec.burning = some (slot, key) → key.length = 2592 →
         t.dev.chip = { s.dev.chip with okey := t.dev.chip.okey } ∧ ∀ i, i < 2592 →
           let old := nth 0 (fget [] s.dev.chip.okey slot) i
           let new := nth 0 (fget [] t.dev.chip.okey slot) i
           new ||| old = new ∧ new ||| (old ||| nth 0 key i) = old ||| nth 0 key i) ∧
       (s.dev.sec.burning = none → ∀ target, s.dev.boot.lcTarget = some target →
         ∃ v, v < 4 ∧ t.dev.chip.lcFuse = s.dev.chip.lcFuse ||| (v * 4 ^ (target - 1)))))) ∧
  ((∀ s : State, s.Powered → s.dev.clk.perst = false →
     ∃ t, exec .warmDeviceReset s = .next t ∧ t.dev.clk.perst = true ∧ t.dev.clk.arclkOn = false ∧
       t.dev.clk.hclkOn = false ∧ t.dev.jobs = [] ∧ t.dev.consists = [] ∧ t.dev.tokens = [] ∧
       (s.dev.boot.lcTarget = none → t.dev.chip = s.dev.chip) ∧
       t.dev.boot = {} ∧ t.dev.side = s.dev.side ∧
       (∀ a, a < s.view.depotBase → t.ddrAt a = s.ddrAt a) ∧
       (∀ a, s.view.depotBase ≤ a → a < s.view.capacity → t.ddrAt a = 0) ∧ (∀ a, a < 2 ^ 32 → t.slabAt a = 0) ∧
       (s.dev.clk.sysclk = false → ∃ tag, t.dev.ddrUndef = [(0, s.view.capacity, tag)]) ∧
       t.reg Reg.epDeviceId = s.reg Reg.epDeviceId ∧ t.reg Reg.epTorus = s.reg Reg.epTorus ∧
       t.reg Reg.epDimMap = s.reg Reg.epDimMap ∧ t.reg Reg.sbAlertEn = s.reg Reg.sbAlertEn ∧
       t.reg Reg.sbTwarn = s.reg Reg.sbTwarn ∧ t.reg Reg.secBootDeadline = s.reg Reg.secBootDeadline ∧
       t.reg Reg.coSeqNext = s.reg Reg.coSeqNext ∧ t.reg Reg.pwrCap = 2400 ∧ t.reg Reg.ttCtrl = 3 ∧
       t.reg Reg.coIfVersion = 0 ∧ t.reg Reg.dmCapacity = 0) ∧
   ∀ s : State, s.Powered → s.dev.clk.perst = true → exec .warmDeviceReset s = .next s) ∧
  (∀ s : State, s.Powered →
     let on := s.dev.clk.sysclk && !s.dev.clk.tripped
     ∃ t, exec .perstNDeassert s = .next t ∧ s.KeepsBut t [Reg.secBootStatus] ∧
       (s.dev.clk.perst = false → t = s) ∧
       (s.dev.clk.perst = true →
         t.dev.clk = { s.dev.clk with perst := false, arclkOn := on, hclkOn := on, arclk := 0 } ∧
         (on = false → t.mem = s.mem ∧ t.dev.boot = s.dev.boot) ∧
         (on = true → t.dev.boot = { s.dev.boot with rom := true } ∧
           (s.view.lifeCycle ≠ 3 → t.reg Reg.secBootStatus = s.reg Reg.secBootStatus) ∧
           (s.view.lifeCycle = 3 → bits (t.reg Reg.secBootStatus) 1 0 = 3 ∧ bits (t.reg Reg.secBootStatus) 4 2 = 6))))

/-- RESET_DOMAIN: a domain that the part does not have gives BAD_PARAM; a job, activity or command in progress there
refuses it with BUSY_CONFLICT; that of a channel group, a port or PCIe is answered at once, and the reset is owed; that of a
station or of the Control Office begins the drain of its stations, and answers later.
Completes: resetDomain.
The resets that are owed: of a station, once it has drained and its wake is admitted, which then tests and wipes itself;
of a DDR channel group, whose registers return to Reset and whose contents are kept; of a port, which reads CLOSED with
cause RESET; of the Control Office, after which the boot ROM runs; of PCIe, as on a hot reset, while jobs keep running. A
reset that is not owed does not come about. After a station's self-test and wipe its slabs read 0 with valid codes.
Completes: domainReset, stationWipeDone, pcieHotReset.
A drain that is still not done at its limit is forced: a port then reads CLOSED with cause DRAIN_FORCED, the queues of a
bay lose the words that travel to them, an engine and a station their remote entries, and CO_DRAIN_FORCED advances. Before
the limit, or where all has drained, nothing is forced.
Completes: drainForced. -/
def Obligations.DomainResetsAndDrains : Prop :=
  (∀ (s : State) (r : Nat) (c : Cmd), s.Ready → r < 16 → s.Serves r 0x70 c →
     let kind := c.p 0 % 8
     let idx := bits (c.p 0) 15 8
     let there := idx < if kind = 0 then s.view.stations else if kind = 1 then 4 else if kind = 2 then 8 else 1
     let busy := if kind = 0 then s.view.sampleOn fun x => bit x.mask idx
       else if kind = 1 then s.view.groupBusy idx else if kind = 2 then s.view.portBusy idx else none
     let free := kind ≤ 4 ∧ there ∧ (s.dev.boot.owed.contains (kind, idx) = false ∨ kind = 2)
     let drained := fun n => if kind = 0 then n = idx else n < s.view.stations
     ∃ t, exec (.resetDomain r) s = .next t ∧
       (4 < kind → s.Replied t r c [] scBadParam 16 0 ∧ s.RepliesAlone t r []) ∧
       (kind ≤ 4 → ¬there → s.Replied t r c [] scBadParam 17 0 ∧ s.RepliesAlone t r []) ∧
       (free → ∀ d, busy = some d → s.Replied t r c [] scBusy d 0 ∧ s.RepliesAlone t r []) ∧
       (free → busy = none → kind = 1 ∨ kind = 2 ∨ kind = 4 → s.Replied t r c [] scOk 0 0 ∧
         t.dev.boot = { s.dev.boot with owed := s.dev.boot.owed ++ [(kind, idx)] } ∧ s.KeepsBut t [Reg.ringStatus r]) ∧
       (free → busy = none → kind = 0 ∨ kind = 3 → t.dev.out = s.dev.out ∧
         (t.view.ring r).cmd = some { c with begun := true } ∧
         t.dev.boot = { s.dev.boot with owed := s.dev.boot.owed ++ [(kind, idx)] } ∧
         (∀ n, drained n → (t.view.stn n).drainDue = some (s.view.now + 1900000) ∧
           ∀ h j, (s.view.stn n).job = some h → (s.view.stn n).prev = none → s.view.job h = some j → j.started = true →
             (t.view.sb n).running = false) ∧
         ∀ n, ¬drained n → t.view.stn n = s.view.stn n)) ∧
  ((∀ (s : State) (st : Nat), s.Ready → st < 16 → s.dev.boot.owed.contains (0, st) = true →
     let admitted := s.view.pwrAdmitted (some st) ≤ bits (s.reg Reg.pwrCap) 11 0 ∧ ∀ k, k < st → (s.view.stn k).pwrWait = false
     (s.view.stationDrained st = false → exec (.domainReset 0 st) s = .next s) ∧
     (s.view.stationDrained st = true → ∃ t, exec (.domainReset 0 st) s = .next t ∧
       (admitted → (0, st) ∉ t.dev.boot.owed ∧ (t.view.stn st).job = none ∧ (t.view.stn st).prev = none ∧
         (t.view.stn st).testDue = some (s.view.now + 6144) ∧ t.view.pwr st = pwrRunning ∧
         (∀ k, k / 256 = st → ffind t.dev.mu k = none) ∧ (∀ a, t.slabAt a = s.slabAt a) ∧ ∀ a, t.ddrAt a = s.ddrAt a) ∧
       (¬admitted → t.dev.boot = s.dev.boot ∧ bit (t.reg (Reg.stPwrStatus st)) 4 = true))) ∧
   (∀ (s : State) (g : Nat), s.Ready → g < 4 → s.dev.boot.owed.contains (1, g) = true →
     ((∃ i, i < 4 ∧ (s.view.ch (4 * g + i)).job.isSome = true) → exec (.domainReset 1 g) s = .next s) ∧
     ((∀ i, i < 4 → (s.view.ch (4 * g + i)).job = none) → ∃ t, exec (.domainReset 1 g) s = .next t ∧
       (1, g) ∉ t.dev.boot.owed ∧
       (∀ o, dmBase (4 * g) ≤ o → o < dmBase (4 * g + 4) → t.reg o = (regReset o).toNat) ∧
       (∀ o, o < dmBase (4 * g) ∨ dmBase (4 * g + 4) ≤ o → t.reg o = s.reg o) ∧ (∀ a, t.ddrAt a = s.ddrAt a) ∧
       (∀ i, i < 4 → (s.view.ch (4 * g + i)).service ≠ svUntrained → (t.view.ch (4 * g + i)).service = svOffline ∧
         (t.view.ch (4 * g + i)).retrain = some s.view.now) ∧
       (∀ i, i < 4 → (s.view.ch (4 * g + i)).service = svUntrained → (t.view.ch (4 * g + i)).service = svUntrained) ∧
       bit t.dev.clk.dclk g = false ∧ t.dev.jobs = s.dev.jobs)) ∧
   (∀ (s : State) (p : Nat), s.Ready → p < 8 → s.dev.boot.owed.contains (2, p) = true →
     ∃ t, exec (.domainReset 2 p) s = .next t ∧ (2, p) ∉ t.dev.boot.owed ∧
       t.view.portState p = psClosed ∧ bits (t.reg (Reg.portStatus p)) 5 3 = 6 ∧ t.dev.jobs = s.dev.jobs) ∧
   (∀ s : State, s.Ready → s.dev.boot.owed.contains (3, 0) = true → s.dev.boot.lcTarget = none →
     ((∃ st, st < s.view.stations ∧ s.view.stationDrained st = false) → exec (.domainReset 3 0) s = .next s) ∧
     ((∀ st, st < s.view.stations → s.view.stationDrained st = true) → ∃ t, exec (.domainReset 3 0) s = .next t ∧
       t.dev.boot = { rom := true } ∧ t.dev.jobs = [] ∧ t.dev.consists = [] ∧ t.dev.tokens = [] ∧
       t.dev.chip = s.dev.chip ∧ (∀ a, a < s.view.depotBase → t.ddrAt a = s.ddrAt a) ∧
       (∀ a, a < 2 ^ 32 → t.slabAt a = 0) ∧ t.reg Reg.coSeqNext = s.reg Reg.coSeqNext ∧ t.dev.clk.perst = false)) ∧
   (∀ (s : State) (target : Nat), s.Ready → s.dev.boot.owed.contains (3, 0) = true → s.dev.boot.lcTarget = some target →
     ∃ t, exec (.domainReset 3 0) s = .next t ∧ t.dev.jobs = [] ∧ t.dev.consists = [] ∧
       t.dev.boot = { rom := true, deadlineFrom := some s.dev.clk.aon } ∧
       t.dev.chip.lcFuse = s.dev.chip.lcFuse ||| (3 * 4 ^ (target - 1)) ∧ t.reg Reg.coSeqNext = 1) ∧
   (∀ s : State, s.Ready →
     let pcie := fun d : Dev => { d with
       clk := { d.clk with hclkOn := true }, cdc := { d.cdc with lost := d.cdc.lost.filter (· != (3, 0)) }
       host := { d.host with cfg := [], msix := [], msixPend := 0, bar2 := [] } }
     exec .pcieHotReset s = .next { s with dev := pcie s.dev } ∧
       (s.dev.boot.owed.contains (4, 0) = true → exec (.domainReset 4 0) s = .next { s with dev := pcie { s.dev with
         boot := { s.dev.boot with owed := s.dev.boot.owed.filter (· != (4, 0)) } } })) ∧
   (∀ (s : State) (k i : Nat), s.Ready → k < 5 → i < 16 → s.dev.boot.owed.contains (k, i) = false →
     exec (.domainReset k i) s = .next s) ∧
   ∀ (s : State) (st : Nat), s.Ready → st < 16 →
     ((s.view.stn st).testDue = none → exec (.stationWipeDone st) s = .next s) ∧
     ∀ due, (s.view.stn st).testDue = some due →
       (s.view.now < due → exec (.stationWipeDone st) s = .next s) ∧
       (due ≤ s.view.now → ∃ t, exec (.stationWipeDone st) s = .next t ∧ (t.view.stn st).testDue = none ∧
         (∀ a, st * 2 ^ 28 ≤ a → a < (st + 1) * 2 ^ 28 → t.slabAt a = 0) ∧
         (∀ a, a < st * 2 ^ 28 ∨ (st + 1) * 2 ^ 28 ≤ a → t.slabAt a = s.slabAt a) ∧
         (∀ k, st * 2 ^ 28 ≤ k * 4 → k * 4 < (st + 1) * 2 ^ 28 → ffind t.dev.slabErr k = none) ∧
         ∀ a, t.ddrAt a = s.ddrAt a)) ∧
  ((∀ (s : State) (st p : Nat), s.Ready → st < 16 → p < 8 →
     let due := s.view.portHolds p ≠ 0 ∧ ∃ d, (s.view.ep p).drainEnd = some d ∧ d ≤ s.view.now
     ∃ t, exec (.drainForced 0 st p) s = .next t ∧ (¬due → t = s) ∧
       (due → t.view.portState p = psClosed ∧ bits (t.reg (Reg.portStatus p)) 5 3 = 7 ∧ t.view.portHolds p = 0 ∧
         t.reg Reg.drainForced = statBump (s.reg Reg.drainForced) % 2 ^ 64)) ∧
   (∀ (s : State) (st b : Nat), s.Ready → st < 16 → b < 256 → (s.view.stn st).prev = none →
     (s.view.stoppingOn st 19000 = none → exec (.drainForced 1 st b) s = .next s) ∧
     ∀ h, s.view.stoppingOn st 19000 = some h → ∃ t, exec (.drainForced 1 st b) s = .next t ∧
       (∀ q ∈ s.view.queuesAt st b, (t.view.queue st q).flight = []) ∧
       ∀ q, q < 4096 → q ∉ s.view.queuesAt st b ∨ (s.view.queue st q).flight = [] → t.view.queue st q = s.view.queue st q) ∧
   (∀ (s : State) (st e : Nat), s.Ready → st < 16 → e < 8 → (s.view.stn st).prev = none →
     let acc := bits (s.reg Reg.epTimeoutAcc) 19 0
     let limit := 2 * 1900 * if acc = 0 then 1048576 else acc
     ∃ t, exec (.drainForced 2 st e) s = .next t ∧
       (s.view.stoppingOn st limit = none ∨ s.view.engDrained st e = true → t = s) ∧
       ∀ h, s.view.stoppingOn st limit = some h → (s.view.engine st e).job = h → s.view.engDrained st e = false →
         (t.view.engine st e).pieces = [] ∧ (t.view.engine st e).busy = false ∧
         (∀ x ∈ t.dev.rem, ¬(x.1 / 65536 = st ∧ x.2.unit = e + 1)) ∧
         (∀ x ∈ s.dev.rem, ¬(x.1 / 65536 = st ∧ x.2.unit = e + 1) → x ∈ t.dev.rem) ∧
         t.reg Reg.drainForced = statBump (s.reg Reg.drainForced) % 2 ^ 64) ∧
   ∀ (s : State) (st u : Nat), s.Ready → st < 16 → u < 256 →
     let due := s.view.stationDrained st = false ∧ ∃ d, (s.view.stn st).drainDue = some d ∧ d ≤ s.view.now
     ∃ t, exec (.drainForced 3 st u) s = .next t ∧ (¬due → t = s) ∧
       (due → t.view.stationDrained st = true ∧ (∀ n, n ≠ st → t.view.stn n = s.view.stn n) ∧
         t.reg Reg.drainForced = statBump (s.reg Reg.drainForced) % 2 ^ 64))

/-- Crossings: SYSCLK_LOST is set once. An open crossing whose far clock stops counts in CO_CDC_TIMEOUTS: a DDR group, PCIe,
the always-on domain or a station stays lost, the channels of the group offline, and a port fails; the loss of a PLL's lock
or of SYSCLK is recorded too. A crossing that is not open does not time out. Merged events leave one record with their number; CDC_OVERRUN's
operand names the crossing by its far clock and its number.
Completes: cdcOverrun, cdcTimeout, pllLockLoss, sysclkLoss. -/
def Obligations.ClockCrossings : Prop :=
  (∀ s : State, s.Powered → ∃ t, exec .sysclkLoss s = .next t ∧ t.dev = { s.dev with
      clk := { s.dev.clk with sysclk := false } } ∧
    s.RegsBecome t (if s.dev.clk.sysclk then [(Reg.clkStatus, s.reg Reg.clkStatus ||| 2 ^ 14)] else [])) ∧
  (∀ (s : State) (c : Instr) (far idx : Nat), s.Ready → 0 < far → far < 6 → idx < 16 →
    c = .cdcTimeout far idx ∨ (c = .pllLockLoss far idx ∧ far ≠ 4) →
    ∃ t, exec c s = .next t ∧ (s.view.crossingOpen far idx = false → t = s) ∧
      (s.view.crossingOpen far idx = true →
        t.reg Reg.cdcTimeouts = statBump (s.reg Reg.cdcTimeouts) % 2 ^ 64 ∧
        bit (t.reg Reg.clkStatus) (if far = 4 then 14 else 15) = true ∧
        (far ≠ 2 → t.dev.cdc.lost = s.dev.cdc.lost ++ [(far, idx)]) ∧
        (far = 1 → bit t.dev.clk.dclk idx = false ∧ ∀ i, i < 4 → (t.view.ch (4 * idx + i)).job = none ∧
          ((t.view.ch (4 * idx + i)).service = svOffline ∨ (t.view.ch (4 * idx + i)).service = svUntrained)) ∧
        (far = 2 → (t.view.portState idx = psFailed ∧ bits (t.reg (Reg.portStatus idx)) 5 3 = 5)) ∧
        (far = 3 → t.dev.clk.hclkOn = false ∧ t.dev.host.cfg = []) ∧ (far = 4 → t.view.aonLost = true))) ∧
  (∀ s : State, s.Ready → exec (.pllLockLoss 4 0) s = .next s) ∧
  ∀ (s : State) (far idx : Nat), s.Ready → 0 < far → far < 5 → idx < 16 →
    let n := fget 0 s.dev.cdc.merged (cdcKey far idx)
    let due := n ≠ 0 ∧ fget 0 s.dev.cdc.busyTo (cdcKey far idx) ≤ s.view.now
    let w := bits (s.reg Reg.faultStatus) 5 0
    ∃ t, exec (.cdcOverrun (far + 8 * idx)) s = .next t ∧ (¬due → t = s) ∧
      (due → t.dev.cdc = { s.dev.cdc with merged := fdel s.dev.cdc.merged (cdcKey far idx) } ∧
        ((w + 64 - s.reg Reg.faultHead % 64) % 64 ≠ 63 → bits (t.reg Reg.faultStatus) 5 0 = (w + 1) % 64 ∧
          t.reg (Reg.faultRec w 0) % 256 = 11 ∧ t.reg (Reg.faultRec w 2) = n % 2 ^ 32) ∧
        ((w + 64 - s.reg Reg.faultHead % 64) % 64 = 63 →
          t.reg Reg.faultLost = statBump (s.reg Reg.faultLost) % 2 ^ 64))

/-- A configuration read answers the identity of R341 whatever has been written; a write of the command register holds its
enables. Completions of device reads that are not outstanding change nothing.
Completes: pcieConfigRequest, hostReadCompletion, completionTimeout.
BAR2: byte a reaches DDR offset BASE × 2^30 + a. Within the reach an access is posted to its channels line by line, a
read held until its lines come; beyond it a read is an Unsupported Request, a write is discarded, and CO_BAR2_ERR
advances.
Completes: bar2Read, bar2Write. -/
def Obligations.PcieAccesses : Prop :=
  ((∀ (s : State) (v : W32), s.Ready → s.dev.clk.hclkOn = true →
     exec (.pcieConfigRequest false 0 v) s = .next { s with dev := { s.dev with
       out := .config (BitVec.ofNat 32 (0x1F5C + (0x5A12 - s.dev.chip.grade) * 2 ^ 16)) :: s.dev.out } }) ∧
   (∀ (s : State) (k : Nat) (v : W32), s.Ready → s.dev.clk.hclkOn = true → k < 1024 →
     ∃ t w, exec (.pcieConfigRequest false k v) s = .next t ∧
       t = { s with dev := { s.dev with out := .config w :: s.dev.out } }) ∧
   (∀ (s : State) (k : Nat) (v : W32), s.Ready → s.dev.clk.hclkOn = true → k < 1024 →
     ∃ t x, exec (.pcieConfigRequest true k v) s = .next t ∧ t.dev.host.cfg = fput s.dev.host.cfg k x ∧
       (∀ mask, configMask k = some mask → x = v &&& BitVec.ofNat 32 mask) ∧
       (k = 1 → t.view.busMaster = bit v.toNat 2) ∧
       (k ≠ 1 → k ≠ msixControl → t.mem = s.mem ∧ t.dev.out = s.dev.out) ∧
       (s.dev.host.heldOut = [] → s.dev.host.msixPend = 0 → t.mem = s.mem ∧
         t.dev = { s.dev with free := t.dev.free, host := { s.dev.host with cfg := t.dev.host.cfg } })) ∧
   (∀ (s : State) (w : Bool) (k : Nat) (v : W32), s.Ready → s.dev.clk.hclkOn = false → k < 1024 →
     exec (.pcieConfigRequest w k v) s = .next s) ∧
   (∀ (s : State) (tag : Nat) (d : HostData), s.Ready → ffind s.dev.host.reads tag = none →
     exec (.hostReadCompletion tag d) s = .next s ∧ exec (.completionTimeout tag) s = .next s) ∧
   ∀ (s : State) (tag st e p : Nat) (d : HostData), s.Ready → ffind s.dev.host.reads tag = some (st, e, p) →
     (s.view.engine st e).busy = false → ffind (s.view.engine st e).pieces p = none →
     exec (.hostReadCompletion tag d) s =
         .next { s with dev := { s.dev with host := { s.dev.host with reads := fdel s.dev.host.reads tag } } } ∧
       exec (.completionTimeout tag) s =
         .next { s with dev := { s.dev with host := { s.dev.host with reads := fdel s.dev.host.reads tag } } }) ∧
  ((∀ (s : State) (a n : Nat), s.Ready → s.dev.boot.fw = true → 0 < n → n ≤ 4096 → a + n ≤ 2 ^ 36 →
     let off := bits (s.reg Reg.coBar2Base) 12 0 * 2 ^ 30 + a
     (s.view.bar2Ok off n = true → ∃ t, exec (.bar2Read a n) s = .next t ∧ t.mem = s.mem ∧ t.dev.out = s.dev.out ∧
       t.dev.host.bar2Next = s.dev.host.bar2Next + 1 ∧
       ffind t.dev.host.bar2 s.dev.host.bar2Next =
         some { first := off, len := n, left := (linesOf off n).length, data := zeros n } ∧
       ∀ c, ∃ new, (t.view.ch c).port = (s.view.ch c).port ++ new ∧
         new.length = ((linesOf off n).filter fun p => chanOf p.1 == c).length ∧
         ∀ q ∈ new, q.write = false ∧ q.user = .bar2 s.dev.host.bar2Next) ∧
     (s.view.bar2Ok off n = false → ∃ t, exec (.bar2Read a n) s = .next t ∧
       s.RegsBecome t [(Reg.coBar2Err, statBump (s.reg Reg.coBar2Err) % 2 ^ 64)] ∧
       t.dev = { s.dev with out := .bar2 [] false true :: s.dev.out })) ∧
   ∀ (s : State) (a : Nat) (d : Bytes), s.Ready → s.dev.boot.fw = true → 0 < d.length → d.length ≤ 4096 →
     a + d.length ≤ 2 ^ 36 →
     let off := bits (s.reg Reg.coBar2Base) 12 0 * 2 ^ 30 + a
     (s.view.bar2Ok off d.length = true → ∃ t, exec (.bar2Write a d) s = .next t ∧ t.mem = s.mem ∧
       t.dev = { s.dev with ddr := t.dev.ddr } ∧
       ∀ c, ∃ new, (t.view.ch c).port = (s.view.ch c).port ++ new ∧
         new.length = ((linesOf off d.length).filter fun p => chanOf p.1 == c).length ∧
         ∀ q ∈ new, q.write = true ∧ q.data = slice d (q.off - off) q.len) ∧
     (s.view.bar2Ok off d.length = false → ∃ t, exec (.bar2Write a d) s = .next t ∧ t.dev = s.dev ∧
       s.RegsBecome t [(Reg.coBar2Err, statBump (s.reg Reg.coBar2Err) % 2 ^ 64)]))

/-! ### DDR channels -/

/-- The next request that has reached a channel's port. In timetabled service a request of the channel's job that reaches the
port in consist cycle a is served in cycle a, or in the first later one that no rule holds, which DM_TT_SLIP counts: a read
delivers its data DM_TT_RD cycles on, and a write takes effect DM_TT_WR cycles on. Any other request there is held while
UNSCHED_DEFER is 1, and otherwise served in the cycles that are left, counted in DM_UNSCHED. In any other service the request
stands at the port.
Completes: ddrRequest.
The scheduler of a channel in reordering service serves what waited over a retrain, in order, and then the request that
it picks: a write stores its bytes and nothing else in DDR space, a read takes the bytes as they stand. In any other service
it serves none.
Completes: ddrReorderServe.
The next read that is due delivers its data. A line without errors is passed on; a corrected one counts in DM_CE_COUNT
and is to be written back; an uncorrectable one counts in DM_UE_COUNT and is logged. The lines of a BAR2 read gather, the
last completes it, poisoned where one was uncorrectable; those of a remote load are answered, a line that a siding read waits
for no longer is.
Completes: ddrReadData. -/
def Obligations.DdrService : Prop :=
  (∀ (s : State) (c : Nat), s.Ready → c < 16 →
     let ch := s.view.ch c
     let tt := ch.service == svTimetabled
     let next := leastBy reqOrder (ch.port.filter fun r => (tt || !r.arrived) && (r.arrived || s.view.reqReached r))
     let quiet := ∀ q ∈ ch.served, q.write = false
     ∃ t, exec (.ddrRequest c) s = .next t ∧ (∀ k, k ≠ c → t.view.ch k = s.view.ch k) ∧ (next = none → t = s) ∧
       ∀ r, next = some r →
         let rest := removeFirst (· == r) ch.port
         let mine := r.user.scheduled = true ∧ r.job = ch.job
         (tt = false → t = { s with dev := { s.dev with
           ddr := fput s.dev.ddr c { ch with port := rest ++ [{ r with arrived := true }] } } }) ∧
         (tt = true → mine → ∀ h j, ch.job = some h → s.view.job h = some j →
           let a := if r.arc then j.cyc else r.due
           let free := mayServe ch.recent (s.view.gapOf ch (chanRank r.off)) (chanRank r.off) r.write (chanBank r.off) a = true ∧
             ((ch.recent.head?).map (·.1)).getD 0 ≤ a
           let lat := s.view.lat j (if r.write then Config.dmTtWr else Config.dmTtRd)
           (t.view.ch c).port = rest ∧ (r.write = false ∨ j.cyc < a + lat → ∃ q t₀, a ≤ t₀ ∧ (free → t₀ = a) ∧
             (t.view.ch c).served = ch.served ++ [q] ∧ q.due = t₀ + lat ∧ q.arc = false ∧ q.user = r.user ∧
             q.write = r.write ∧
             (r.write = false → quiet → q.data = s.view.burst r.off r.len ∧
               q.err = symbolCode (fget 0 s.dev.ddrErr (r.off / 128))) ∧
             (free → s.RegsBecome t (if r.write then []
               else [(Reg.dmReadLines c, (s.reg (Reg.dmReadLines c) + 1) % 2 ^ 64)])))) ∧
         (tt = true → ¬mine → bit (s.reg (Reg.dmCtrl c)) 0 = true →
           t = { s with dev := { s.dev with
             ddr := fput s.dev.ddr c { ch with port := rest, held := ch.held ++ [{ r with arrived := true }] } } }) ∧
         (tt = true → ¬mine → bit (s.reg (Reg.dmCtrl c)) 0 = false → (t.view.ch c).port = rest ∧
           t.reg (Reg.dmUnsched c) = statBump (s.reg (Reg.dmUnsched c)) % 2 ^ 64 ∧
           (r.write = false → ∃ q, (t.view.ch c).served = ch.served ++ [q] ∧ q.arc = true ∧ q.user = r.user ∧
             (quiet → q.data = s.view.burst r.off r.len)))) ∧
  (∀ (s : State) (c pick : Nat), s.Ready → c < 16 →
     let ch := s.view.ch c
     let next := (leastBy reqOrder (ch.port.filter DdrReq.waited)).orElse fun _ =>
       (ch.port.filter fun r => r.arrived)[pick]?
     ∃ t, exec (.ddrReorderServe c pick) s = .next t ∧ (ch.service ≠ svReorder ∨ next = none → t = s) ∧
       ∀ r, ch.service = svReorder → next = some r →
         (r.write = true → r.segs = [] → chanOf (r.off / 128 * 128) = c →
           (∀ i, i < r.data.length → t.ddrAt (r.off + i) = nth 0 r.data i ∧ t.view.ddrByte (r.off + i) = nth 0 r.data i) ∧
           (∀ a, a < r.off ∨ r.off + r.data.length ≤ a → t.ddrAt a = s.ddrAt a ∧ t.view.ddrByte a = s.view.ddrByte a) ∧
           (∀ a, t.slabAt a = s.slabAt a) ∧ (∀ k, t.planeAt k = s.planeAt k) ∧
           t.reg (Reg.dmWriteLines c) = (s.reg (Reg.dmWriteLines c) + 1) % 2 ^ 64 ∧
           ∀ tag, r.user = .bar2 tag → (t.view.ch c).port = removeFirst (· == r) ch.port ∧ t.dev.out = s.dev.out ∧
             ∀ o, o ≠ Reg.dmWriteLines c → t.reg o = s.reg o) ∧
         (r.write = false → (∀ q ∈ ch.served, q.write = false) →
           ∃ q, (t.view.ch c).port = removeFirst (· == r) ch.port ∧
           (t.view.ch c).served = ch.served ++ [q] ∧ q.user = r.user ∧ q.data = s.view.burst r.off r.len ∧
           q.err = symbolCode (fget 0 s.dev.ddrErr (r.off / 128)) ∧ q.due = s.view.now ∧ q.arc = true ∧
           s.RegsBecome t [(Reg.dmReadLines c, (s.reg (Reg.dmReadLines c) + 1) % 2 ^ 64)])) ∧
  (∀ (s : State) (c : Nat), s.Ready → c < 16 →
     let ch := s.view.ch c
     let next := leastBy reqOrder (ch.served.filter fun r => !r.write && s.view.reqReached r)
     ∃ t, exec (.ddrReadData c) s = .next t ∧ (next = none → t = s) ∧
       ∀ r, next = some r → chanOf (r.off / 128 * 128) = c →
         let line := r.off / 128 * 128
         (1 ≤ r.err → r.err < 32 → t.reg (Reg.dmCe c) = statBump (s.reg (Reg.dmCe c)) % 2 ^ 64 ∧
           line ∈ (t.view.ch c).backs) ∧
         (r.err = 32 → t.reg (Reg.dmUe c) = statBump (s.reg (Reg.dmUe c)) % 2 ^ 64 ∧
           bits (t.reg (Reg.dmErrlog c)) 42 0 = line % 2 ^ 43 ∧ bit (t.reg (Reg.dmErrlog c)) 48 = true) ∧
         (∀ tag k, r.user = .bar2 tag → ffind s.dev.host.bar2 tag = some k →
           let data := splice k.data (r.off - k.first) r.data
           let bad := k.bad || r.err == 32
           (t.view.ch c).served = removeFirst (· == r) ch.served ∧ (r.err = 0 → t.mem = s.mem) ∧
           (k.left = 1 → ffind t.dev.host.bar2 tag = none ∧ t.dev.out = .bar2 data bad false :: s.dev.out) ∧
           (1 < k.left → ffind t.dev.host.bar2 tag = some { k with data := data, bad := bad, left := k.left - 1 } ∧
             t.dev.out = s.dev.out)) ∧
         (∀ id k, r.user = .remote id → ffind s.dev.pkts id = some k →
           let data := splice k.data (r.off - gaOffset k.addr) r.data
           (t.view.ch c).served = removeFirst (· == r) ch.served ∧
           (1 < k.left → ffind t.dev.pkts id =
             some { k with left := k.left - 1, data := data, bad := k.bad || r.err == 32 }) ∧
           (k.left = 1 → k.port = none →
             (k.bad = false → r.err ≠ 32 → s.AnsweredPacket t id k ocOk 0 data) ∧
             (k.bad = true ∨ r.err = 32 → s.AnsweredPacket t id k ocUncorr 0 []))) ∧
         ∀ st q, r.user = .siding st q → r.err ≠ 32 → (t.view.ch c).served = removeFirst (· == r) ch.served ∧
           (t.view.queue st q).unread = (s.view.queue st q).unread - 1 ∧ ((t.view.queue st q).ask).isSome = true)

/-- The controller's own work at a channel: refresh outside timetabled service, once in each gap of it, and the forced
refresh of a frozen job; the write-back of a corrected line, which UNSCHED_DEFER holds in timetabled service; and the end of
a retrain.
Completes: refreshGap, ddrWriteBack, ddrRetrainDone.
The patrol scrub reads the line at its cursor every 64 × 2^SCRUB_RATE cycles of DCLK, only in reordering service, starts
a new pass at the end of the channel, and counts what the code finds.
Completes: ddrScrubRead.
DDR training with all 16 channels trained makes DDR ready, with 16 modules' capacity and, where a life-cycle transition
owes it, every byte of DDR space wiped; with a channel that failed, DDR_READY stays 0 and the channel reads SERVICE 3.
Completes: ddrTrainingDone. -/
def Obligations.DdrMaintenance : Prop :=
  ((∀ (s : State) (c rank : Nat), s.Ready → c < 16 → rank < 2 →
     let ch := s.view.ch c
     let done := { ch with refresh := setNth ch.refresh rank s.view.now }
     ∃ t, exec (.refreshGap c rank) s = .next t ∧
       (ch.service = svUntrained → t = s) ∧
       (ch.service = svReorder ∨ ch.service = svOffline →
         t = { s with dev := { s.dev with ddr := fput s.dev.ddr c done } }) ∧
       ∀ h j, ch.service = svTimetabled → ch.job = some h → s.view.job h = some j →
         let k := s.view.consistOf j
         let gap := (j.cyc - k.ttPhi) / k.ttP + 1
         (j.frozen = true → nth 0 ch.refresh rank + 7410 ≤ s.view.now →
           t.dev = { s.dev with ddr := fput s.dev.ddr c done } ∧
           s.RegsBecome t [(Reg.dmForcedRef c, statBump (s.reg (Reg.dmForcedRef c)) % 2 ^ 64)]) ∧
         (j.frozen = true → s.view.now < nth 0 ch.refresh rank + 7410 → t = s) ∧
         (j.frozen = false → s.view.gapOf ch rank j.cyc = true → nth 0 ch.gaps rank ≠ gap →
           t = { s with dev := { s.dev with ddr := fput s.dev.ddr c { done with gaps := setNth ch.gaps rank gap } } }) ∧
         (j.frozen = false → s.view.gapOf ch rank j.cyc = false ∨ nth 0 ch.gaps rank = gap → t = s)) ∧
   (∀ (s : State) (c : Nat), s.Ready → c < 16 →
     let ch := s.view.ch c
     ∃ t, exec (.ddrWriteBack c) s = .next t ∧ (ch.backs = [] → t = s) ∧ ∀ line rest, ch.backs = line :: rest →
       (ch.service = svReorder → (t.view.ch c).backs = rest.filter (fun x => x != line || chanOf line != c) ∧
         (line % 128 = 0 → ffind t.dev.ddrErr (line / 128) = none ∧
           ∀ k, k ≠ line / 128 → ffind t.dev.ddrErr k = ffind s.dev.ddrErr k) ∧
         (chanOf line = c → line % 128 = 0 → t.dev = { s.dev with ddr := t.dev.ddr, ddrErr := t.dev.ddrErr } ∧
           s.RegsBecome t [(Reg.dmWriteLines c, (s.reg (Reg.dmWriteLines c) + 1) % 2 ^ 64)])) ∧
       (svOffline ≤ ch.service → t = s) ∧
       (ch.service = svTimetabled → bit (s.reg (Reg.dmCtrl c)) 0 = true → t = s) ∧
       (ch.service = svTimetabled → bit (s.reg (Reg.dmCtrl c)) 0 = false →
         t.reg (Reg.dmUnsched c) = statBump (s.reg (Reg.dmUnsched c)) % 2 ^ 64)) ∧
   ∀ (s : State) (c : Nat), s.Ready → c < 16 →
     let ch := s.view.ch c
     ∃ t, exec (.ddrRetrainDone c) s = .next t ∧ (ch.retrain = none → t = s) ∧ (ch.retrain.isSome = true →
       t.mem = s.mem ∧ t.view.ch c = { ch with
         service := svReorder, retrain := none
         port := ch.port.map fun r => if r.arrived then { r with waited := true } else r } ∧
       (∀ k, k ≠ c → t.view.ch k = s.view.ch k) ∧ bit t.dev.clk.dclk (c / 4) = true ∧
       t.dev.maint = s.dev.maint.filter (fun a => !(a.code == 4 && a.target == c)) ∧
       t.dev = { s.dev with ddr := t.dev.ddr, clk := t.dev.clk, maint := t.dev.maint })) ∧
  (∀ (s : State) (c : Nat), s.Ready → c < 16 →
     let ch := s.view.ch c
     let a := s.reg (Reg.dmScrubCursor c)
     let found := symbolCode (fget 0 s.dev.ddrErr (ddrOf c a / 128))
     let next := s.view.now + (64 * 2 ^ bits (s.reg (Reg.dmCtrl c)) 7 4 * 19 + 15) / 16
     let due := ch.scrubOn = true ∧ ch.service = svReorder ∧ ch.scrubNext ≤ s.view.now
     let wrap := s.view.capacity / 16 ≤ a + 128
     ∃ t, exec (.ddrScrubRead c) s = .next t ∧ (¬due → t = s) ∧ (due → (t.view.ch c).scrubNext = next ∧
       t.reg (Reg.dmScrubCursor c) = (if wrap then 0 else (a + 128) % 2 ^ 64) ∧
       t.reg (Reg.dmScrubPasses c) =
         (if wrap then statBump (s.reg (Reg.dmScrubPasses c)) % 2 ^ 64 else s.reg (Reg.dmScrubPasses c)) ∧
       t.reg (Reg.dmReadLines c) = (s.reg (Reg.dmReadLines c) + 1) % 2 ^ 64 ∧
       (found = 0 → t.dev = { s.dev with ddr := fput s.dev.ddr c { ch with scrubNext := next } } ∧
         s.KeepsBut t [Reg.dmScrubCursor c, Reg.dmScrubPasses c, Reg.dmReadLines c]) ∧
       (chanOf (ddrOf c a) = c → 1 ≤ found → found < 32 →
         t.reg (Reg.dmCe c) = statBump (s.reg (Reg.dmCe c)) % 2 ^ 64 ∧ ddrOf c a ∈ (t.view.ch c).backs) ∧
       (chanOf (ddrOf c a) = c → found = 32 → t.reg (Reg.dmUe c) = statBump (s.reg (Reg.dmUe c)) % 2 ^ 64 ∧
         bits (t.reg (Reg.dmErrlog c)) 51 49 = 3))) ∧
  ((∀ (s : State) (cap : Nat), s.Ready → s.dev.boot.training = true → cap ≤ 2 → bit (s.reg Reg.secBootStatus) 5 = true →
     ∃ t, exec (.ddrTrainingDone 65535 cap) s = .next t ∧ t.view.capacity = 16 * 2 ^ (36 + cap) ∧
       t.view.ddrReady = true ∧ t.dev.boot = { s.dev.boot with training := false } ∧
       (∀ c, c < 16 → (t.view.ch c).service = svReorder ∧ (t.view.ch c).capacity = cap) ∧
       (∀ a, a < 16 * 2 ^ (36 + cap) → t.ddrAt a = 0) ∧ bit (t.reg Reg.secBootStatus) 5 = false) ∧
   (∀ (s : State) (cap : Nat), s.Ready → s.dev.boot.training = true → cap ≤ 2 → bit (s.reg Reg.secBootStatus) 5 = false →
     ∃ t, exec (.ddrTrainingDone 65535 cap) s = .next t ∧ t.view.capacity = 16 * 2 ^ (36 + cap) ∧
       t.view.ddrReady = true ∧ (∀ a, t.view.depotBase ≤ a → a < t.view.capacity → t.ddrAt a = 0) ∧
       ∀ a, a < t.view.depotBase → t.ddrAt a = s.ddrAt a) ∧
   (∀ (s : State) (trained cap : Nat), s.Ready → s.dev.boot.training = true → cap ≤ 2 → trained < 65535 →
     ∃ t, exec (.ddrTrainingDone trained cap) s = .next t ∧ t.view.ddrReady = false ∧
       t.dev.boot = { s.dev.boot with training := false } ∧
       t.view.capacity = s.view.capacity ∧ (∀ a, t.ddrAt a = s.ddrAt a) ∧
       ∀ c, c < 16 → bit trained c = false → (t.view.ch c).service = svUntrained) ∧
   ∀ (s : State) (trained cap : Nat), s.Ready → trained < 65536 → s.dev.boot.training = false →
     exec (.ddrTrainingDone trained cap) s = .next s)

/-- R395: a corrected line that waits to be written back waits no longer once a write has reached the line, whoever wrote
it, and the write-back that was due changes nothing. -/
def Obligations.WriteBackIsAbandoned : Prop :=
  (∀ (m : Mach) (r : DdrReq), let line := r.off / 128 * 128
    line ∉ ((m.ddrStore r).ch (chanOf line)).backs) ∧
  (∀ (m : Mach) (off err source : Nat), 1 ≤ err → err < 32 → off ∈ ((m.ddrChecked off err source).ch (chanOf off)).backs) ∧
  ∀ (s : State) (c tag : Nat) (r : DdrReq), s.Ready → c < 16 → (s.view.ch c).service = svReorder →
    (s.view.ch c).port = [r] → r.arrived = true → r.write = true → r.user = .bar2 tag → r.segs = [] →
    (s.view.ch c).backs = [r.off / 128 * 128] → chanOf (r.off / 128 * 128) = c →
    ∃ t, exec (.ddrReorderServe c 0) s = .next t ∧ (t.view.ch c).backs = [] ∧
      (∀ i, i < r.data.length → t.ddrAt (r.off + i) = nth 0 r.data i) ∧ exec (.ddrWriteBack c) t = .next t

/-! ### The signal boxes -/

/-- The branches of a signal box, NOP and END: where the next instruction is and when it issues, that LOOP decrements its
register and branches while it is not 0, and that END ends the station's program in the job's record. Completes: sbNop, sbEnd, sbJmp,
sbBnz, sbLoop.
The register instructions of a signal box: LI sign-extends its immediate, LIH replaces the high half, ALU computes on
64 bits, FPU computes by its operation and sets the sticky flags, which operations 16 and 17 read and clear. The result
may be used a declared latency after the issue. Completes: sbLi, sbLih, sbAlu, sbFpu. -/
def Obligations.SignalBoxInstructions : Prop :=
  (∀ (s : State) (st h : Nat) (j : Job) (i : Nat), s.Ready → st < 16 →
     let b := s.view.sb st
     let on := (b.pc + 1) % 4096
     let alu := j.cyc + s.view.lat j Config.sbAlu
     (insOp i = 0x00 → s.Issues st h j i [] →
       ∃ t, exec (.sbNop st) s = .next t ∧ s.SbStep t st on (j.cyc + 1) none []) ∧
     (insOp i = 0x01 → s.Issues st h j i [] →
       ∃ t, exec (.sbEnd st) s = .next t ∧ t.mem = s.mem ∧ t.view.sb st = { b with running := false, ended := true } ∧
         t.view.job h = some { j with progEnd := j.progEnd ||| 2 ^ st, endCyc := j.cyc } ∧
         (∀ n, n ≠ st → t.view.stn n = s.view.stn n) ∧ (∀ k, k ≠ h → t.view.job k = s.view.job k) ∧
         t.dev = { s.dev with stn := t.dev.stn, jobs := t.dev.jobs }) ∧
     (insOp i = 0x02 → s.Issues st h j i [] →
       ∃ t, exec (.sbJmp st) s = .next t ∧ s.SbStep t st (insImm i % 4096) alu none []) ∧
     (insOp i = 0x03 → s.Issues st h j i [insA i] →
       ∃ t, exec (.sbBnz st) s = .next t ∧
         if b.reg (insA i) ≠ 0 then s.SbStep t st (insImm i % 4096) alu none []
         else s.SbStep t st on (j.cyc + 1) none []) ∧
     (insOp i = 0x04 → s.Issues st h j i [insA i] →
       let v := (b.reg (insA i) + 2 ^ 64 - 1) % 2 ^ 64
       ∃ t, exec (.sbLoop st) s = .next t ∧
         if v ≠ 0 then s.SbStep t st (insImm i % 4096) alu (some (insA i, v, alu)) []
         else s.SbStep t st on (j.cyc + 1) (some (insA i, v, alu)) [])) ∧
  (∀ (s : State) (st h : Nat) (j : Job) (i : Nat), s.Ready → st < 16 →
     let b := s.view.sb st
     let on := (b.pc + 1) % 4096
     let imm := insImm i
     let x := b.reg (insA i)
     let y := b.reg (insB i)
     let alu := j.cyc + s.view.lat j Config.sbAlu
     (insOp i = 0x05 → s.Issues st h j i [] →
       ∃ t, exec (.sbLi st) s = .next t ∧
         s.SbStep t st on (j.cyc + 1) (some (insD i, if bit imm 31 then imm + 2 ^ 64 - 2 ^ 32 else imm, alu)) []) ∧
     (insOp i = 0x06 → s.Issues st h j i [insD i] →
       ∃ t, exec (.sbLih st) s = .next t ∧
         s.SbStep t st on (j.cyc + 1) (some (insD i, b.reg (insD i) % 2 ^ 32 + imm * 2 ^ 32, alu)) []) ∧
     (insOp i = 0x08 → imm % 16 ≤ 8 → s.Issues st h j i [insA i, insB i] →
       let u := BitVec.ofNat 64 x
       let v := BitVec.ofNat 64 y
       let r : W64 := match imm % 16 with
         | 0 => u + v
         | 1 => u - v
         | 2 => u &&& v
         | 3 => u ||| v
         | 4 => u ^^^ v
         | 5 => u <<< (y % 64)
         | 6 => u >>> (y % 64)
         | 7 => if u.slt v then 1 else 0
         | _ => if u.ult v then 1 else 0
       ∃ t, exec (.sbAlu st) s = .next t ∧ s.SbStep t st on (j.cyc + 1) (some (insD i, r.toNat, alu)) []) ∧
     (insOp i = 0x09 → s.Issues st h j i (fpuReads i) →
       let op := imm % 32
       let fl := s.reg (Reg.sbFpflags st)
       (op < 16 →
         let r := fpuOp op (bit imm 5) (bit imm 6) x y
         let lat := if op = 3 ∨ op = 4 then (if bit imm 5 then Config.sbFdiv64 else Config.sbFdiv) else Config.sbFp
         ∃ t, exec (.sbFpu st) s = .next t ∧
           s.SbStep t st on (j.cyc + 1) (some (insD i, r.1 % 2 ^ 64, j.cyc + s.view.lat j lat))
             [(Reg.sbFpflags st, (fl ||| r.2) % 2 ^ 64)]) ∧
       (op = 16 → ∃ t, exec (.sbFpu st) s = .next t ∧
         s.SbStep t st on (j.cyc + 1) (some (insD i, fl, j.cyc + s.view.lat j Config.sbFp)) []) ∧
       (op = 17 → ∃ t, exec (.sbFpu st) s = .next t ∧
         s.SbStep t st on (j.cyc + 1) none [(Reg.sbFpflags st, fl - (fl &&& (x % 32)))])))

/-- SEND and CTL put a message on the route of bay 119 that names their queue, and issue nothing while an item of the box is
held behind four outstanding requests; RECV takes the message at the head of its queue, whatever its storage, and its
register becomes the first four bytes, zero-extended, or waits on the queue while nothing has come; the units before it
in R171's order go first. Completes: sbSend, sbCtl,
sbRecv. -/
def Obligations.SignalBoxMessages : Prop :=
  ∀ (s : State) (st h : Nat) (j : Job) (i : Nat), s.Ready → st < 16 →
    let b := s.view.sb st
    let on := (b.pc + 1) % 4096
    let q := insImm i % 4096
    (∀ c : Instr, ∀ d : Bytes,
      (c = .sbSend st ∧ insOp i = 0x11 ∧ d = toLe 4 (b.reg (insA i))) ∨
        (c = .sbCtl st ∧ insOp i = 0x12 ∧ d = toLe 2 (b.reg (insA i) % 512)) →
      (s.Issues st h j i [insA i] → ∀ r, s.view.routeOf st sbBay q = some r →
        let w := s.view.route st sbBay r
        ∃ t, exec c s = .next t ∧
          t.dev.outbox = fput s.dev.outbox (outKey st sbBay r) (s.view.outbox st sbBay r ++
            [{ unit := sbUnit st, dstSt := bits w 15 12, queue := q, net := bits w 17 16, bytes := d, valid := true }]) ∧
          s.SbBecomes { t with dev := { t.dev with outbox := s.dev.outbox } } st { b with pc := on, next := j.cyc + 1 }) ∧
      (s.view.liveJob st = some (h, j) → s.view.senderBlocked st sbBay (sbUnit st) = true → exec c s = .next s)) ∧
    (insOp i = 0x10 → s.Issues st h j i [] →
      let turn := s.view.arrayWants st q = false ∧ s.view.ptWants st q = false ∧ s.view.combWants st q = false
      (¬turn → exec (.sbRecv st) s = .next s) ∧
      (∀ bs v m, turn → s.view.take st q = (some (bs, v), m) → ∃ t, exec (.sbRecv st) s = .next t ∧
        t.view.queue st q = m.queue st q ∧ (t.view.sb st).pc = on ∧ (t.view.sb st).next = j.cyc + 1 ∧
        (∀ r, (t.view.sb st).reg r = if r = insD i ∧ r ≠ 0 then
            (nth 0 bs 0).toNat + 2 ^ 8 * (nth 0 bs 1).toNat + 2 ^ 16 * (nth 0 bs 2).toNat + 2 ^ 24 * (nth 0 bs 3).toNat
          else b.reg r) ∧
        t.reg (Reg.qLenerr st) =
          if bs.length = 4 then s.reg (Reg.qLenerr st) else statBump (s.reg (Reg.qLenerr st)) % 2 ^ 64) ∧
      (turn → (s.view.queue st q).siding = [] → s.view.headAbsent st q = true →
        ∃ t, exec (.sbRecv st) s = .next t ∧ t.view.sb st = b ∧
          ffind t.dev.waits (waitKey (sbUnit st)) = some { cause := 1, empty := some (st * 4096 + q) }))

/-- MUGO, VUGO, MGO and MGOR start an idle unit a latency after their issue, give a busy unit a pending start, and wait under
"queue full" where it has one; JOIN and MJOIN pass where the unit is idle with no start and no unseen completion, and wait
under "token" otherwise; a completion that is due is seen; MSTAT reads whether an engine is busy, has a pending start, an error
or a stall, and its descriptor. Completes: sbMugo, sbVugo, sbMgo, sbMgor, sbJoin, sbMjoin, sbMstat, unitCompletionSeen. -/
def Obligations.SignalBoxUnitStarts : Prop :=
  ∀ (s : State) (st h : Nat) (j : Job) (i : Nat), s.Ready → st < 16 →
    let b := s.view.sb st
    let on := (b.pc + 1) % 4096
    let imm := insImm i
    (∀ (c : Instr) (kind unit idx ovr lat : Nat), s.Issues st h j i (if insOp i = 0x29 then [insB i] else []) →
      (c = .sbMugo st ∧ insOp i = 0x18 ∧ kind = 0 ∧ unit = imm % 256 ∧ idx = bits imm 12 8 ∧ ovr = 0 ∧
        lat = Config.sbStart) ∨
      (c = .sbVugo st ∧ insOp i = 0x19 ∧ kind = 1 ∧ unit = imm % 32 ∧ idx = bits imm 12 5 ∧ ovr = 0 ∧
        lat = Config.sbStart) ∨
      (c = .sbMgo st ∧ insOp i = 0x28 ∧ kind = 2 ∧ unit = imm % 8 ∧ idx = bits imm 11 3 ∧ ovr = 0 ∧
        lat = Config.meStart) ∨
      (c = .sbMgor st ∧ insOp i = 0x29 ∧ kind = 2 ∧ unit = imm % 8 ∧ idx = bits imm 11 3 ∧ ovr = b.reg (insB i) ∧
        lat = Config.meStart) →
      let x : UnitMsg := { kind := kind, unit := unit, idx := idx, ovr := ovr, due := j.cyc + s.view.lat j lat }
      let idle := s.view.unitRuns st kind unit = false ∧ s.view.unitOld st kind unit = false ∧
        b.starting kind unit = false
      (idle → ∃ t, exec c s = .next t ∧
        s.SbBecomes t st { b with starts := b.starts ++ [x], pc := on, next := j.cyc + 1 }) ∧
      (¬idle → ffind b.pend (startKey kind unit) = none → ∃ t, exec c s = .next t ∧
        s.SbBecomes t st { b with pend := fput b.pend (startKey kind unit) x, pc := on, next := j.cyc + 1 }) ∧
      (¬idle → ffind b.pend (startKey kind unit) ≠ none →
        exec c s = .next { s with dev := { s.dev with
          waits := fput s.dev.waits (waitKey (sbUnit st)) { cause := 2 } } })) ∧
    (s.Issues st h j i [] → ∀ c : Instr, ∀ kind unit : Nat,
      (c = .sbJoin st ∧ insOp i = 0x1A ∧ kind = b2n (bit imm 8) ∧ unit = (if bit imm 8 then imm % 32 else imm % 256)) ∨
        (c = .sbMjoin st ∧ insOp i = 0x2A ∧ kind = 2 ∧ unit = imm % 8) →
      (s.view.unitJoined st kind unit = true → ∃ t, exec c s = .next t ∧
        s.SbBecomes t st { b with
          pc := on
          next := if (ffind s.dev.waits (waitKey (sbUnit st))).isSome then j.cyc else j.cyc + 1 }) ∧
      (s.view.unitJoined st kind unit = false →
        exec c s = .next { s with dev := { s.dev with
          waits := fput s.dev.waits (waitKey (sbUnit st)) { cause := 6 } } })) ∧
    (insOp i = 0x2B → s.Issues st h j i [] →
      let e := imm % 8
      let x := s.view.engine st e
      let w := ffind s.dev.waits (waitKey (engUnit st e))
      ∃ t v, exec (.sbMstat st) s = .next t ∧
        s.SbStep t st on (j.cyc + 1) (some (insD i, v, j.cyc + s.view.lat j Config.sbAlu)) [] ∧
        bit v 0 = x.busy ∧ bit v 1 = (ffind b.pend (startKey 2 e)).isSome ∧ bit v 2 = x.error ∧ bit v 3 = w.isSome ∧
        bits v 6 4 = (w.map (·.cause)).getD 0 % 8 ∧ bits v 15 7 = x.curDesc % 2 ^ 9) ∧
    (s.view.liveJob st = some (h, j) → ∀ kind unit x, kind < 3 → unit < 256 →
      (b.dones.find? fun y => y.kind == kind && y.unit == unit && decide (y.due ≤ j.cyc)) = some x →
      ∃ t, exec (.unitCompletionSeen st kind unit) s = .next t ∧ t.mem = s.mem ∧
        t.view.stn st = { s.view.stn st with sb := { b with dones := removeFirst (· == x) b.dones } } ∧
        (∀ n, n ≠ st → t.view.stn n = s.view.stn n) ∧ t.dev = { s.dev with stn := t.dev.stn })

/-- SIG, WAIT and TKRD send their operation to the token's station, where it arrives a latency later; WAIT waits, TKRD
makes its register wait; a reference from a register that names nothing declared stops the signal box with
TOKEN_UNASSIGNED. FENCE waits, and ends once nothing that it waits for is outstanding. Completes: sbSig, sbWait, sbTkrd,
sbFence.
The operation of this device that comes first at a token, in the order of R214, takes effect unless a
barrier or a remote operation stands before it: a signal of the token's job adds to PROD modulo 2^32, any other is lost and
counted; TKRD answers the count. The answer that comes first ends the wait, writes the register, or, from a POISONED slot,
faults the signal box. Completes: tokenOpArrival, waiterWake. -/
def Obligations.TokenOperations : Prop :=
  (∀ (s : State) (st h : Nat) (j : Job) (i : Nat), s.Ready → st < 16 →
     let b := s.view.sb st
     let on := (b.pc + 1) % 4096
     let imm := insImm i
     let ref := tokRef b i
     let cur := bits imm 13 12
     let reads := if bit imm 11 then [insB i] else []
     let count := if insA i = 0 then 1 else b.reg (insA i) % 2 ^ 32
     (∀ d : TokDecl, s.view.tokDecl j st ref = some d →
       let due := j.cyc + s.view.lat j Config.tkSig + s.view.stnLatency st d.st
       let Sent := fun (t : State) (o : TokOp) => t.mem = s.mem ∧
         (t.view.stn d.st).tokOps = (s.view.stn d.st).tokOps ++ [o] ∧
         (∀ n, n ≠ d.st → (t.view.stn n).tokOps = (s.view.stn n).tokOps) ∧ ∀ n, n ≠ st → t.view.sb n = s.view.sb n
       (insOp i = 0x20 → s.Issues st h j i (insA i :: reads) → ∃ t, exec (.sbSig st) s = .next t ∧
         Sent t { slot := d.slot, kind := 0, srcSt := st, val := count, due := due, job := h } ∧
         t.view.sb st = { b with pc := on, next := j.cyc + 1 }) ∧
       (insOp i = 0x21 → cur < d.cursors → s.Issues st h j i (insA i :: reads) → ∃ t, exec (.sbWait st) s = .next t ∧
         Sent t { slot := d.slot, kind := 1, srcSt := st, val := count, cursor := cur, flag := bit imm 14, due := due
                  job := h } ∧
         t.view.sb st = { b with wait := .reply } ∧
         ffind t.dev.waits (waitKey (sbUnit st)) = some { cause := 6 }) ∧
       (insOp i = 0x23 → (bit imm 14 = true → cur < d.cursors) → s.Issues st h j i reads →
         ∃ t, exec (.sbTkrd st) s = .next t ∧
           Sent t { slot := d.slot, kind := 2, srcSt := st, cursor := cur, flag := bit imm 14, rd := insD i, due := due
                    job := h } ∧
           (t.view.sb st).pc = on ∧ (t.view.sb st).next = j.cyc + 1 ∧ (t.view.sb st).wait = .none ∧
           (insD i ≠ 0 → fget 0 (t.view.sb st).ready (insD i) = notYet) ∧
           ∀ r, (t.view.sb st).reg r = b.reg r)) ∧
     (∀ c : Instr, (c = .sbSig st ∧ insOp i = 0x20 ∧ s.view.tokDecl j st ref = none ∧ s.Issues st h j i (insA i :: reads) ∨
         c = .sbWait st ∧ insOp i = 0x21 ∧ (∀ d, s.view.tokDecl j st ref = some d → d.cursors ≤ cur) ∧
           s.Issues st h j i (insA i :: reads) ∨
         c = .sbTkrd st ∧ insOp i = 0x23 ∧ (∀ d, s.view.tokDecl j st ref = some d → bit imm 14 = true ∧ d.cursors ≤ cur) ∧
           s.Issues st h j i reads) → j.fault = none →
       ∃ t, exec c s = .next t ∧ t.view.sb st = { b with running := false } ∧
         t.view.job h = some { j with
           fault := some (ctxId (some h) (sbUnit st), 7, ref + cur * 2 ^ 11), faultAt := s.view.now, status := 0x50 }) ∧
     (insOp i = 0x22 → s.Issues st h j i [] → ∃ t, exec (.sbFence st) s = .next t ∧ t.mem = s.mem ∧
       (t.view.sb st).wait = .fence (j.cyc + s.view.lat j Config.tkFence)
         ((List.range 8).map fun e => (s.view.engine st e).pieceNext) s.dev.remNext ∧
       t.view.sb st = { b with wait := (t.view.sb st).wait } ∧
       ffind t.dev.waits (waitKey (sbUnit st)) = some { cause := 6 }) ∧
     (insOp i = 0x22 → s.view.liveJob st = some (h, j) → b.running = true → b.next ≤ j.cyc →
       s.view.sbInstr st b.pc = i → s.view.senderBlocked st sbBay (sbUnit st) = false →
       ∀ least pieces remote, b.wait = .fence least pieces remote → 
         ffind s.dev.waits (waitKey (sbUnit st)) = some { cause := 6 } →
         if j.cyc < least ∨ s.view.fenceOpen st pieces remote = true then exec (.sbFence st) s = .next s
         else ∃ t, exec (.sbFence st) s = .next t ∧
           s.SbBecomes t st { b with wait := .none, pc := on, next := j.cyc })) ∧
  ((∀ (s : State) (st k : Nat) (o : TokOp) (j : Job), s.Ready → st < 16 → k < 48 → o.srcSt < 16 →
     leastBy tokKey ((s.view.stn st).tokOps.filter (s.view.tokReached k)) = some o → s.view.tokHeld st k o.kind = false →
     let x := s.view.token st k
     let rest := removeFirst (· == o) (s.view.stn st).tokOps
     (o.kind = 0 → s.view.jobLive o.job = true → x.state = .active → x.owner = o.job →
       ∃ t, exec (.tokenOpArrival st k) s = .next t ∧ (t.view.stn st).tokOps = rest ∧
         (t.view.token st k).prod = (x.prod + o.val) % 2 ^ 32 ∧ (t.view.token st k).state = .active ∧
         (x.waiters = [] → t.mem = s.mem ∧ t.view.token st k = { x with prod := (x.prod + o.val) % 2 ^ 32 })) ∧
     (o.kind = 0 → (s.view.jobLive o.job = false ∨ x.state ≠ .active ∨ x.owner ≠ o.job) → (x.state ≠ .active ∨ x.waiters = []) →
       ∃ t, exec (.tokenOpArrival st k) s = .next t ∧ (t.view.stn st).tokOps = rest ∧ t.dev.tokens = s.dev.tokens ∧
         s.RegsBecome t [(Reg.tkSigLost st, statBump (s.reg (Reg.tkSigLost st)) % 2 ^ 64)]) ∧
     (o.kind = 2 → s.view.jobLive o.job = true → s.view.job o.job = some j → (s.view.stn o.srcSt).job = some o.job →
       let sb := s.view.sb o.srcSt
       ∃ t, exec (.tokenOpArrival st k) s = .next t ∧ t.mem = s.mem ∧ (t.view.stn st).tokOps = rest ∧
         t.view.token st k = x ∧ t.view.sb o.srcSt = { sb with
           replies := sb.replies ++
             [{ rd := o.rd, val := BitVec.ofNat 64 (if o.flag then nth 0 x.cons o.cursor else x.prod), wakes := false
                due := j.cyc + s.view.lat j Config.tkWake + s.view.stnLatency st o.srcSt }] })) ∧
   ∀ (s : State) (st h : Nat) (j : Job) (r : Reply), s.Ready → st < 16 → s.view.liveJob st = some (h, j) →
     leastBy Reply.due ((s.view.sb st).replies.filter fun r => !r.ticket && decide (r.due ≤ j.cyc)) = some r →
     let b := s.view.sb st
     let rest := removeFirst (· == r) b.replies
     (r.poisoned = none → r.write = false → r.wakes = true →
       ∃ t, exec (.waiterWake st) s = .next t ∧
         s.SbBecomes t st { b with
           replies := rest, wait := .none, pc := (b.pc + 1) % 4096
           next := if (ffind s.dev.waits (waitKey (sbUnit st))).isSome then j.cyc else j.cyc + 1 }) ∧
     (r.poisoned = none → r.write = true → r.wakes = false → ∃ t, exec (.waiterWake st) s = .next t ∧ t.mem = s.mem ∧
       (t.view.sb st).replies = rest ∧ (t.view.sb st).pc = b.pc ∧ (t.view.sb st).wait = b.wait ∧
       (∀ n, (t.view.sb st).reg n = if n = r.rd ∧ n ≠ 0 then r.val.toNat else b.reg n) ∧
       (r.rd ≠ 0 → fget 0 (t.view.sb st).ready r.rd = j.cyc) ∧ t.dev = { s.dev with stn := t.dev.stn }) ∧
     (∀ slot at_ owner, r.poisoned = some (slot, at_, owner) → j.fault = none → ∃ t, exec (.waiterWake st) s = .next t ∧
       t.view.sb st = { b with replies := rest, running := false, wait := .none } ∧
       t.view.job h = some { j with
         fault := some (ctxId (some h) (sbUnit st), 6, pack [(0, 6, slot), (6, 4, at_), (10, 12, owner)])
         faultAt := s.view.now, status := 0x51 }))

/-- R210: a wait on cursor c with count k is satisfied when (PROD − CONSc − k) mod 2^32 is less than 2^31, and then moves
its cursor by k unless it only looks; otherwise it is held, which its signal box goes on to count under "token"; it is looked at once no
signal or wait of the cycle is outstanding at the slot. -/
def Obligations.TokenWaits : Prop :=
  ((((5 : Int) - 0xFFFFFFFE - 4) % 2 ^ 32 = 3) ∧ (0xFFFFFFFE + 4) % 2 ^ 32 = 2) ∧
  ∀ (s : State) (st k : Nat) (o : TokOp) (j : Job), s.Ready → st < 16 → k < 48 → o.srcSt < 16 →
    leastBy tokKey ((s.view.stn st).tokOps.filter (s.view.tokReached k)) = some o → s.view.tokHeld st k 1 = false →
    o.kind = 1 → s.view.jobLive o.job = true → s.view.job o.job = some j → (s.view.stn o.srcSt).job = some o.job →
    (s.view.token st k).state = .active → (s.view.token st k).owner = o.job → (s.view.token st k).waiters = [] →
    let x := s.view.token st k
    let rest := removeFirst (· == o) (s.view.stn st).tokOps
    let last := (∀ y ∈ rest, 1 < y.kind ∨ s.view.tokReached k y = false ∨ s.view.jobLive y.job = false) ∧
      s.view.remoteAt st k opWait s.dev.pktNext = false
    let cons := nth 0 x.cons o.cursor
    let due := j.cyc + s.view.lat j Config.tkWake + s.view.stnLatency st o.srcSt
    let sb := s.view.sb o.srcSt
    x.prod < 2 ^ 32 → cons < 2 ^ 32 → o.val < 2 ^ 32 →
    (last → ((x.prod : Int) - cons - o.val) % 2 ^ 32 < 2 ^ 31 →
      ∃ t, exec (.tokenOpArrival st k) s = .next t ∧ t.mem = s.mem ∧ (t.view.stn st).tokOps = rest ∧
        t.view.token st k = { x with
          cons := if o.flag then x.cons else setNth x.cons o.cursor ((cons + o.val) % 2 ^ 32) } ∧
        t.view.sb o.srcSt = { sb with replies := sb.replies ++ [{ write := false, due := due }] }) ∧
    ((2 ^ 31 ≤ ((x.prod : Int) - cons - o.val) % 2 ^ 32 ∨ ¬last) →
      ∃ t, exec (.tokenOpArrival st k) s = .next t ∧ t.mem = s.mem ∧ (t.view.stn st).tokOps = rest ∧
        t.view.token st k = { x with
          waiters := [{ st := o.srcSt, cursor := o.cursor, k := o.val, consume := !o.flag }] } ∧
        t.view.sb o.srcSt = sb ∧ t.dev.waits = s.dev.waits)

/-- TICKET, TKLD and TKST send their request to the ticket office, the first two waiting. The office adds a ticket's count
to the counter and answers the value before, answers a plain load's value, and makes a plain store, counted where the
counter is assigned. The answer writes its register and ends the wait. Completes: sbTicket, sbTkld, sbTkst,
ticketRequestArrival, ticketReply. -/
def Obligations.TicketOffice : Prop :=
  (∀ (s : State) (st h : Nat) (j : Job) (i k : Nat), s.Ready → st < 16 →
    s.view.counterOf j (insImm i % 64) = some k →
    let b := s.view.sb st
    let due := j.cyc + s.view.stnLatency st 0
    let Sent := fun (t : State) (o : TkoOp) => t.mem = s.mem ∧
      (t.view.stn st).tkoOps = (s.view.stn st).tkoOps ++ [o] ∧ ∀ n, n ≠ st → t.view.stn n = s.view.stn n
    (insOp i = 0x24 → s.Issues st h j i [insA i] → ∃ t, exec (.sbTicket st) s = .next t ∧
      Sent t { k := k, kind := 0, st := st, rd := insD i, due := due, job := h
               val := if insA i = 0 then 1 else BitVec.ofNat 64 (b.reg (insA i) % 2 ^ 32) } ∧
      t.view.sb st = { b with wait := .reply } ∧ ffind t.dev.waits (waitKey (sbUnit st)) = some { cause := 6 }) ∧
    (insOp i = 0x25 → s.Issues st h j i [] → ∃ t, exec (.sbTkld st) s = .next t ∧
      Sent t { k := k, kind := 1, st := st, rd := insD i, due := due, job := h } ∧
      t.view.sb st = { b with wait := .reply } ∧ ffind t.dev.waits (waitKey (sbUnit st)) = some { cause := 6 }) ∧
    (insOp i = 0x26 → s.Issues st h j i [insA i] → ∃ t, exec (.sbTkst st) s = .next t ∧
      Sent t { k := k, kind := 2, st := st, due := due, job := h, val := BitVec.ofNat 64 (b.reg (insA i)) } ∧
      t.view.sb st = { b with pc := (b.pc + 1) % 4096, next := j.cyc + 1 })) ∧
  (∀ (s : State) (k : Nat) (o : TkoOp) (j : Job), s.Ready → k < 64 → o.st < 16 →
    leastBy (fun o => o.due * 16 + o.st) (s.view.ticketsAt k) = some o → s.view.jobLive o.job = true →
    s.view.job o.job = some j → (s.view.stn o.st).job = some o.job →
    let rest := removeFirst (· == o) (s.view.stn o.st).tkoOps
    let v := s.reg (Reg.tkoValue k)
    let due := j.cyc + s.view.lat j Config.tkoOp + s.view.stnLatency o.st 0
    let sb := s.view.sb o.st
    let answered := { sb with
      replies := sb.replies ++ [{ rd := o.rd, val := BitVec.ofNat 64 v, ticket := true, due := due }] }
    (o.kind = 0 → ∃ t, exec (.ticketRequestArrival k) s = .next t ∧ (t.view.stn o.st).tkoOps = rest ∧
      t.view.sb o.st = answered ∧ s.RegsBecome t [(Reg.tkoValue k, (v + o.val.toNat) % 2 ^ 64)]) ∧
    (o.kind = 1 → ∃ t, exec (.ticketRequestArrival k) s = .next t ∧ (t.view.stn o.st).tkoOps = rest ∧
      t.view.sb o.st = answered ∧ s.RegsBecome t []) ∧
    (o.kind = 2 → ∃ t, exec (.ticketRequestArrival k) s = .next t ∧ (t.view.stn o.st).tkoOps = rest ∧
      t.view.sb o.st = sb ∧
      s.RegsBecome t ((Reg.tkoValue k, o.val.toNat) ::
        if bit (s.reg (Reg.tkoOwner k)) 12 then [(Reg.tkoPlainSt, statBump (s.reg Reg.tkoPlainSt) % 2 ^ 64)] else []))) ∧
  ∀ (s : State) (st h : Nat) (j : Job) (r : Reply), s.Ready → st < 16 → s.view.liveJob st = some (h, j) →
    leastBy Reply.due ((s.view.sb st).replies.filter fun r => r.ticket && decide (r.due ≤ j.cyc)) = some r →
    let b := s.view.sb st
    ∃ t, exec (.ticketReply st) s = .next t ∧ t.mem = s.mem ∧ (t.view.sb st).replies = removeFirst (· == r) b.replies ∧
      (t.view.sb st).wait = .none ∧ (t.view.sb st).pc = (b.pc + 1) % 4096 ∧
      (t.view.sb st).next = (if (ffind s.dev.waits (waitKey (sbUnit st))).isSome then j.cyc else j.cyc + 1) ∧
      (∀ n, (t.view.sb st).reg n = if n = r.rd ∧ n ≠ 0 then r.val.toNat else b.reg n) ∧
      ∀ n, n ≠ st → t.view.stn n = s.view.stn n

/-- STOP passes a stopping point, counting the station among those that have passed it, and waits there where stabling was
asked for at it. MILEPOST arms the taps that its milepost has on the station, and waits while a tap of an earlier arming
still folds on one of their queues. A number that the consist does not declare does nothing.
Completes: sbStop, sbMilepost. -/
def Obligations.StopsAndMileposts : Prop :=
  ∀ (s : State) (st h : Nat) (j : Job) (i : Nat), s.Ready → st < 16 →
    let b := s.view.sb st
    let k := insImm i % 4096
    let con := s.view.consistOf j
    let on := (b.pc + 1) % 4096
    let seen := fget 0 j.passing k ||| 2 ^ st
    (insOp i = 0x38 → s.Issues st h j i [] →
      (k = 0 ∨ con.stops.length < k → ∃ t, exec (.sbStop st) s = .next t ∧ s.SbStep t st on (j.cyc + 1) none []) ∧
      (0 < k → k ≤ con.stops.length → j.request = some k →
        (∃ n ∈ s.view.jobStations j, n ≠ st ∧ (s.view.sb n).wait ≠ .stop k) →
        ∃ t, exec (.sbStop st) s = .next t ∧ s.SbBecomes t st { b with wait := .stop k }) ∧
      (0 < k → k ≤ con.stops.length → j.request ≠ some k → seen ≠ con.stations →
        ∃ t, exec (.sbStop st) s = .next t ∧ t.mem = s.mem ∧
          t.view.sb st = { b with pc := on, next := j.cyc + s.view.lat j Config.sbAlu } ∧
          t.view.job h = some { j with passing := fput j.passing k seen }) ∧
      (0 < k → k ≤ con.stops.length → j.request ≠ some k → seen = con.stations → s.view.leaveLimit j.consist = none →
        ∃ t, exec (.sbStop st) s = .next t ∧ t.mem = s.mem ∧
          t.view.sb st = { b with pc := on, next := j.cyc + s.view.lat j Config.sbAlu } ∧
          t.view.job h = some { j with
            passing := fdel (fput j.passing k seen) k, passed := k, passedAt := j.cyc })) ∧
    (insOp i = 0x39 → s.Issues st h j i [] →
      ((∀ d ∈ con.miles, d.mp ≠ k) → ∃ t, exec (.sbMilepost st) s = .next t ∧
        s.SbStep t st on (j.cyc + 1) none []) ∧
      ∀ d, con.miles.find? (fun d => d.mp == k) = some d →
        let mine := d.taps.filter fun t => t.st == st
        let x := s.view.stn st
        (∀ u ∈ x.taps, u.job = h → mine.find? (fun t => u.queue == t.queue) = none) → mine ≠ [] →
        (∀ a ∈ j.arms, a.n ≠ x.milesRun) → ffind s.dev.waits (waitKey (sbUnit st)) = none →
        ∃ t, exec (.sbMilepost st) s = .next t ∧ t.mem = s.mem ∧
          t.view.stn st = { x with
            sb := { b with pc := on, next := j.cyc + 1 }, work := true, milesRun := x.milesRun + 1
            taps := x.taps ++ mine.map fun t => { queue := t.queue, job := h, inst := x.milesRun, mp := d.mp, left := t.count } } ∧
          t.view.job h = some { j with
            arms := j.arms ++
              [{ n := x.milesRun, mp := d.mp, role := d.role, stations := 2 ^ st, left := mine.length }] })

/-! ### Matrix units, vector units, networks and queues -/

/-- A start that has reached an idle Matrix Unit begins its list at the descriptor, its first row at the earliest after
the weight load's latency. The next weight block is asked for, line after line, while the shadow plane is free; one whose
bytes and time have come is decoded into the shadow plane. The next row issues once its weights and its activation record
are there: it travels MU_PIPE cycles with its slot, its tag and its group sums, and counts as one issue cycle. Completes: muStart, weightBlockLoad,
rowIssue. -/
def Obligations.MatrixUnitRuns : Prop :=
  ∀ (s : State) (st b h : Nat) (j : Job), s.Ready → st < 16 → b < 256 → s.BayIsPresent st b →
    s.view.liveJob st = some (h, j) → (s.view.muOf st b).faulted = false →
    let u := s.view.muOf st b
    (∀ x, u.run = none →
      ((s.view.sb st).starts.find? fun x => x.kind == 0 && x.unit == b && decide (x.due ≤ j.cyc)) = some x →
      let lead := s.view.lat j Config.muWload +
        if (s.view.passDesc st b x.idx).decoded then s.view.lat j Config.muDecode else 0
      ∃ t, exec (.muStart st b) s = .next t ∧ t.mem = s.mem ∧ 
        (t.view.sb st).starts = removeFirst (· == x) (s.view.sb st).starts ∧
        t.view.muOf st b = { u with
          run := some { desc := x.idx, ldDesc := x.idx, next := j.cyc + lead }, curDesc := x.idx, active := none
          shadow := none, load := none, actLine := none, actRec := none, ended := false } ∧
        ∀ k, k ≠ st * 256 + b → ffind t.dev.mu k = ffind s.dev.mu k) ∧
    (∀ r, u.run = some r → r.ldDone = false → u.load = none → u.shadow = none →
      (s.view.passDesc st b r.ldDesc).wQueue = none →
      let d := s.view.passDesc st b r.ldDesc
      let a := d.blockAddr r.ldN r.ldKb
      let n := (a + d.stored - 1) / 128 - a / 128 + 1
      let lead := s.view.lat j Config.muWload + if d.decoded then s.view.lat j Config.muDecode else 0
      ∃ t reqs, exec (.weightBlockLoad st b) s = .next t ∧ t.mem = s.mem ∧
        t.view.muOf st b = { u with load := some { need := d.stored, ready := j.cyc + lead } } ∧
        (t.view.portOf st b).reqs = (s.view.portOf st b).reqs ++ reqs ∧ reqs.length = n ∧
        ∀ k x, reqs[k]? = some x → x.user = .muWeight ∧ x.write = false ∧ x.addr = (a / 128 + k) * 128 ∧ x.len = 128 ∧
          x.due = j.cyc + k ∧ x.order = 2) ∧
    (∀ r q bs v m, u.run = some r → r.ldDone = false → u.load = none → u.shadow = none →
      (s.view.passDesc st b r.ldDesc).wQueue = some q → s.view.take st q = (some (bs, v), m) →
      let d := s.view.passDesc st b r.ldDesc
      let lead := s.view.lat j Config.muWload + if d.decoded then s.view.lat j Config.muDecode else 0
      ∃ t, exec (.weightBlockLoad st b) s = .next t ∧ t.view.queue st q = m.queue st q ∧
        t.view.muOf st b = { u with
          load := some { bytes := padTo d.stored bs, need := d.stored, ready := j.cyc + lead
                         late := if r.ldLate then some q else none } }) ∧
    (∀ r w l, u.run = some r → u.active = some w → u.load = some l → u.shadow = none → l.bytes.length = l.need →
      l.ready ≤ j.cyc →
      let d := s.view.passDesc st b r.ldDesc
      let block := decodeBlock d (s.view.decTable st b d.table) l.bytes
      ∃ t, exec (.weightBlockLoad st b) s = .next t ∧ (t.view.muOf st b).shadow = some block.1 ∧
        (t.view.muOf st b).load = none ∧ (t.view.muOf st b).active = some w ∧
        
        (t.view.muOf st b).run = some { s.view.muNextBlock st b r with ldLate := false, ldRaised := false } ∧ (block.2 = 0 → t.mem = s.mem)) ∧
    (∀ r w rec valid, u.run = some r → u.active = some w → u.ended = false → u.initWait = false → r.next ≤ j.cyc →
      (∀ l, u.load = some l → l.bytes.length ≠ l.need ∨ j.cyc < l.ready ∨ u.shadow ≠ none) →
      s.view.muRecord st b (s.view.passDesc st b r.desc) r = some (rec, valid) →
      let d := s.view.passDesc st b r.desc
      let i := r.row / 16
      let passEnd := r.row + 1 == 16 * d.mTiles
      let adv := s.view.muAdvance st d r
      ∃ t, exec (.rowIssue st b) s = .next t ∧
        t.view.muOf st b = { u with
          pipe := u.pipe ++ [
            { due := j.cyc + s.view.lat j Config.muPipe, slot := (d.slotBase + i) % 16
              tag := (d.tagBase + 65536 * r.n + 16 * r.g + i) % 2 ^ 24, int := d.int
              isInit := d.initFirst && r.kb == 0, first := r.row % 16 == 0, last := r.row % 16 == 15
              rowInTile := r.row % 16, colBase := if d.fmt == 4 && d.colHalf then 32 else 0
              groups := rowGroups d w rec valid
              drain := if r.kb + 1 == d.kBlocks then d.drain else 0, drainQ := d.drainQ, passEnd := passEnd }]
          actRec := none, actLine := if passEnd then none else u.actLine
          active := if passEnd then none else u.active, ended := adv.isNone
          run := some (adv.getD { r with next := j.cyc + 1 }), curDesc := (adv.map (·.desc)).getD r.desc } ∧
        s.RegsBecome t [(Reg.muIssueCyc st b, (s.reg (Reg.muIssueCyc st b) + 1) % 2 ^ 64)])

/-- A row at the accumulator is checked against its slot when it is its tile's first: an INIT row claims a free slot, any
other row's tag and type must be the live slot's; the group sums are then added in issue order, from zero or from what the
slot holds. A row without its claim is ACC_ALIAS: the unit stops, and MU_ALIAS says why. An INIT row that meets a draining
slot waits. A slot whose drain is at the front sends its next row to its compartment or its
queue, waits while the compartment is full, and is free after its sixteenth. Completes: accumulatorUpdate, slotDrain. -/
def Obligations.AccumulatorAndDrain : Prop :=
  (∀ (s : State) (st b h : Nat) (j : Job) (row : MuRow) (rest : List MuRow), s.Ready → st < 16 → b < 256 →
    s.BayIsPresent st b → s.view.liveJob st = some (h, j) → (s.view.muOf st b).pipe = row :: rest → row.due ≤ j.cyc →
    (∀ d ds, (s.view.muOf st b).drains = d :: ds → d.row ≠ 16 ∨ j.cyc < d.next) →
    let u := s.view.muOf st b
    let x := u.slotAt j.cyc row.slot
    let cols := ((row.groups.head?).getD []).length
    let key := fun c => accKey row.slot row.rowInTile (row.colBase + c)
    let sum := fun (start : W32) (c : Nat) =>
      BitVec.ofNat 32 (row.groups.foldl (fun v g => (addGroup row.int v (nth (0, 0, 0) g c)).1) start.toNat)
    let drains := if row.last && row.drain != 0 then
        u.drains ++ [{ slot := row.slot, mode := row.drain, queue := row.drainQ, start := j.cyc + 1, next := j.cyc + 1 }]
      else u.drains
    (row.first = true → row.isInit = true → x.state = .free → row.rowInTile < 16 → row.colBase + cols ≤ 64 →
      ∃ t, exec (.accumulatorUpdate st b) s = .next t ∧ (t.view.muOf st b).drains = drains ∧
        (t.view.muOf st b).slot row.slot = { state := .live, tag := row.tag, int := row.int } ∧
        (∀ c, c < cols → fget 0 (t.view.muOf st b).acc (key c) = sum 0 c) ∧
        ∀ k, k / 1024 ≠ row.slot → fget 0 (t.view.muOf st b).acc k = fget 0 u.acc k) ∧
    (row.first = false ∨ (row.isInit = false ∧ x.state = .live ∧ x.tag = row.tag ∧ x.int = row.int) →
      row.rowInTile < 16 → row.colBase + cols ≤ 64 →
      (∀ c, c < cols → ffind u.accErr (key c) = none ∨ ffind u.accErr (key c) = some 1) →
      ∃ t, exec (.accumulatorUpdate st b) s = .next t ∧ (t.view.muOf st b).slots = u.slots ∧
        (t.view.muOf st b).drains = drains ∧
        (t.view.muOf st b).pipe = rest.map (fun y => { y with due := y.due + (j.cyc - row.due) }) ∧
        (∀ c, c < cols → fget 0 (t.view.muOf st b).acc (key c) = sum (fget 0 u.acc (key c)) c) ∧
        ∀ k, (∀ c, c < cols → k ≠ key c) → fget 0 (t.view.muOf st b).acc k = fget 0 u.acc k) ∧
    (row.first = false → (∃ c, c < cols ∧ ffind u.accErr (key c) = some 2) →
      ∃ t, exec (.accumulatorUpdate st b) s = .next t ∧ (t.view.muOf st b).faulted = true ∧
        (t.view.muOf st b).run = none ∧ (t.view.muOf st b).pipe = [] ∧ (t.view.muOf st b).acc = u.acc ∧
        ∀ i, s.view.job h = some i → i.fault = none →
          t.view.job h = some { i with
            fault := some (ctxId (some h) (muUnit st b row.slot), 1, 0), faultAt := s.view.now, status := 0x50 }) ∧
    (∀ cause : Nat, h < 4096 → row.first = true →
      (row.isInit = false ∧ x.state = .free ∧ cause = 1) ∨
      (row.isInit = false ∧ x.state = .live ∧ x.tag ≠ row.tag ∧ cause = 0) ∨
      (row.isInit = false ∧ x.state = .live ∧ x.tag = row.tag ∧ x.int ≠ row.int ∧ cause = 3) ∨
      (row.isInit = false ∧ x.state = .draining ∧ cause = 4) ∨
      (row.isInit = true ∧ x.state = .live ∧ x.tag = row.tag ∧ cause = 2) ∨
      (row.isInit = true ∧ x.state = .live ∧ x.tag ≠ row.tag ∧ cause = 0) →
      ∃ t, exec (.accumulatorUpdate st b) s = .next t ∧ (t.view.muOf st b).faulted = true ∧
        (t.view.muOf st b).run = none ∧ (t.view.muOf st b).pipe = [] ∧ (t.view.muOf st b).acc = u.acc ∧
        bits (t.reg (Reg.muAlias st b)) 3 0 = row.slot % 16 ∧ bits (t.reg (Reg.muAlias st b)) 6 4 = cause ∧
        bit (t.reg (Reg.muAlias st b)) 7 = true ∧ bits (t.reg (Reg.muAlias st b)) 31 8 = row.tag % 2 ^ 24 ∧
        t.reg (Reg.stFaultStatus st) = 1 + 2 * h) ∧
    (row.first = true → row.isInit = true → x.state = .draining →
      exec (.accumulatorUpdate st b) s = .next { s with dev := { s.dev with
        mu := fput s.dev.mu (st * 256 + b) { u with initWait := true }
        waits := fput s.dev.waits (waitKey (muUnit st b)) { cause := 2 } } })) ∧
  (∀ (s : State) (st b h : Nat) (j : Job) (d : MuDrain) (rest : List MuDrain), s.Ready → st < 16 → b < 256 →
    s.BayIsPresent st b → s.view.liveJob st = some (h, j) → (s.view.muOf st b).drains = d :: rest → d.row < 16 →
    d.next ≤ j.cyc →
    let u := s.view.muOf st b
    let v := vuOfBay b
    let comp := fget [] (s.view.vuOf st v).comps (b % 8)
    let full := comp.length ≥ 32 ∨ s.view.bayPlane st b ≠ s.view.vuPlane st v
    let elems := (List.range 64).map fun c => fget 0 u.acc (accKey d.slot d.row c)
    let drained := { d with
        row := d.row + 1
        next := if d.row = 15 then j.cyc + 1 + (s.view.lat j Config.muDrain - 16) else j.cyc + 1 } :: rest
    let sound := ∀ c, c < 64 → ffind u.accErr (accKey d.slot d.row c) = none
    (d.mode = 1 → ¬full → sound → ∃ t, exec (.slotDrain st b) s = .next t ∧ t.mem = s.mem ∧
      t.view.muOf st b = { u with drains := drained } ∧
      t.view.vuOf st v = { s.view.vuOf st v with comps := fput (s.view.vuOf st v).comps (b % 8) (comp ++
        [{ tag := (u.slot d.slot).tag, int := (u.slot d.slot).int, ready := j.cyc + 2, elems := elems }]) }) ∧
    (d.mode = 1 → full → exec (.slotDrain st b) s = .next { s with dev := { s.dev with
      waits := fput s.dev.waits (waitSlot (muUnit st b) 1) { cause := 2 } } }) ∧
    (d.mode ≠ 1 → s.view.senderBlocked st b (muUnit st b) = false → sound → ∀ r, s.view.routeOf st b d.queue = some r →
      let w := s.view.route st b r
      ∃ t, exec (.slotDrain st b) s = .next t ∧ t.mem = s.mem ∧ t.view.muOf st b = { u with drains := drained } ∧
        t.dev.outbox = fput s.dev.outbox (outKey st b r) (s.view.outbox st b r ++
          [{ unit := muUnit st b, dstSt := bits w 15 12, queue := d.queue, net := bits w 17 16, valid := true
             bytes := elems.flatMap fun e => toLe 4 e.toNat }]))) ∧
  ∀ (s : State) (st b h : Nat) (j : Job) (d : MuDrain) (rest : List MuDrain), s.Ready → st < 16 → b < 256 →
    s.BayIsPresent st b → s.view.liveJob st = some (h, j) → (s.view.muOf st b).drains = d :: rest → d.row = 16 →
    d.next ≤ j.cyc →
    ∃ t, exec (.slotDrain st b) s = .next t ∧ ((t.view.muOf st b).slot d.slot).state = .free ∧
      (rest = [] → t.mem = s.mem ∧ (t.view.muOf st b).drains = []) ∧
      ∀ k, k / 1024 ≠ d.slot → fget 0 (t.view.muOf st b).acc k = fget 0 (s.view.muOf st b).acc k

/-- An element-wise operation issues its next elements: each valid one's result, computed from its own widened operands
under the instruction's rounding, is on its way to the destination for the unit's latencies, a masked one's place is left
empty, the flags stick, and the cycle and its elements are counted. ABS clears the sign and NEG inverts it, whatever the
operand, RCP divides 1.0 by it, and COPY alone converts between FP32 and FP64; a control queue takes INT32. Completes:
vuCopy, vuAdd, vuSub, vuMul, vuFma, vuMin, vuMax, vuAbs, vuNeg, vuCmplt, vuSel, vuDiv, vuSqrt, vuRcp, vuRcpe, vuRsqe, vuExp,
vuLog.
Completes: vuCopy, vuAdd, vuSub, vuMul, vuFma, vuMin, vuMax, vuAbs, vuNeg, vuCmplt, vuSel, vuDiv, vuSqrt, vuRcp,
vuRcpe, vuRsqe, vuExp, vuLog. -/
def Obligations.VectorElements : Prop :=
  ∀ (c : Instr) (st v op h : Nat) (j : Job) (s : State) (r : VuRun) (m : Mach), vuIssueOf c = some (st, v, op) → s.Ready →
    st < 16 → v < 32 → 0x01 ≤ op → op ≤ 0x16 → s.VuIssues st v h j r m →
    let p := s.view.vuPlan st v r.inst
    let i := p.inst
    let d := s.view.streamDesc st v i.dst
    let hi := p.upTo (r.tick + 1)
    let src := fun n e => m.vuOperand st v p r.elem n e
    let plain := fun e => vuOp op i.rnd i.f64 (src 2 e).1 (src 3 e).1 (src 4 e).1
    let val := fun e => match p.srcs.find? fun x => x.1 == 2 with
      | some x =>
        if op = 0x01 ∧ i.f64 = false ∧ x.2.ty = tyF64 then f64.convert f32 i.rnd (src 2 e).1
        else if op = 0x01 ∧ i.f64 = true ∧ x.2.ty = tyF32 then f32.convert f64 i.rnd (m.vuCode st v p r.elem x e)
        else plain e
      | none => plain e
    let ctl := i.dst != 0 && d.kind == 2 && m.ctlRoute st (vuUnit st v).bay d.queue
    let out := fun e => if ctl then let x := f32.toInt i.rnd 32 (val e).1; (ofSigned 32 x.1, (val e).2 ||| x.2) else val e
    let flags := fun e => (out e).2 ||| ((src 2 e).2 ||| (if usesB op then (src 3 e).2 else 0) |||
      (if usesC op then (src 4 e).2 else 0))
    let on := fun e => m.vuMaskOn st v p r.elem e
    i.op = op → r.elem < hi →
    (op = 0x08 → i.f64 = false → ∀ e, (src 2 e).1 < 2 ^ 32 → (val e).1 = (src 2 e).1 % 2 ^ 31) ∧
    (op = 0x09 → i.f64 = false → ∀ e, (src 2 e).1 < 2 ^ 32 → (val e).1 = ((src 2 e).1 ^^^ 2 ^ 31)) ∧
    (op = 0x12 → i.f64 = false → ∀ e, val e = f32.div i.rnd 0x3F800000 (src 2 e).1) ∧
    ∃ t, exec c s = .next t ∧
      s.VuSends t st v i.red
        { due := j.cyc + s.view.lat j Config.vuRd + s.view.lat j (opEntry op i.f64) + s.view.lat j Config.vuWr
          desc := i.dst, inst := r.inst, perRow := p.inner, total := p.total / p.inner * p.inner
          width := if i.dst = 0 then 32 else elemBits d.ty, first := r.elem }
        ((List.range (hi - r.elem)).map fun k =>
          if on (r.elem + k) then some (BitVec.ofNat 64 (out (r.elem + k)).1) else none)
        (s.view.vuOverlaps st v p) ∧
      (hi < p.total → ∃ r', (t.view.vuOf st v).run = some r' ∧ r'.inst = r.inst ∧ r'.elem = hi ∧
        r'.tick = r.tick + 1 ∧ r'.next = j.cyc + 1) ∧
      (hi = p.total → i.last = false → ∃ r', (t.view.vuOf st v).run = some r' ∧ r'.inst = (r.inst + 1) % 256 ∧
        r'.elem = 0 ∧ r'.tick = 0 ∧ r'.next = j.cyc + 1) ∧
      (i.red = 0 → (s.after m).RegsBecome t [
        (Reg.vuFpflags st v, (s.reg (Reg.vuFpflags st v) ||| (List.range (hi - r.elem)).foldl
          (fun f k => if on (r.elem + k) then f ||| flags (r.elem + k) else f) 0) % 2 ^ 64),
        (Reg.vuIssueCyc st v, (s.reg (Reg.vuIssueCyc st v) + 1) % 2 ^ 64),
        (Reg.vuElemDone st v, (s.reg (Reg.vuElemDone st v) + (hi - r.elem)) % 2 ^ 64)])

/-- The other vector-unit instructions. A reduction folds the valid elements of a row into 64 partial sums by column and
sends the tree of the sums to the destination with the row's last element; CVT converts each element under its factor, or
each MX block into a record, and keeps the running maximum; SCALESEL chooses the scale from the running maximum, unless it
is masked off; NOP takes one cycle and writes nothing. Completes: vuNop, vuRowsum, vuRowmax, vuRowamax, vuCvt, vuScalesel. -/
def Obligations.VectorRowsAndConversions : Prop :=
  ∀ (c : Instr) (st v op h : Nat) (j : Job) (s : State) (r : VuRun) (m : Mach), vuIssueOf c = some (st, v, op) → s.Ready →
    st < 16 → v < 32 → s.VuIssues st v h j r m →
    let p := s.view.vuPlan st v r.inst
    let i := p.inst
    let d := s.view.streamDesc st v i.dst
    let hi := p.upTo (r.tick + 1)
    let a := fun e => m.vuOperand st v p r.elem 2 e
    let on := fun e => m.vuMaskOn st v p r.elem e
    let amax := Reg.vuAmax st v i.amaxSel
    let free := s.view.vuOverlaps st v p
    let rows := p.total / p.inner
    let w : VuWrite := { inst := r.inst, desc := i.dst, width := if i.dst = 0 then 32 else elemBits d.ty
                         due := j.cyc + s.view.lat j Config.vuRd + s.view.lat j (opEntry op i.f64) + s.view.lat j Config.vuWr }
    i.op = op →
    (0x18 ≤ op → op ≤ 0x1A → r.elem < hi →
      let ctl := i.dst != 0 && d.kind == 2 && m.ctlRoute st (vuUnit st v).bay d.queue
      let x := fun e => if op = 0x1A then (workFmt i.f64).abs (a e).1 else (a e).1
      let out := fun l =>
        let y := (rowResult op i.rnd i.f64 l).1
        some (BitVec.ofNat 64 (if ctl then ofSigned 32 (f32.toInt i.rnd 32 y).1 else y))
      let sums := (List.range (hi - r.elem)).foldl
        (fun (acc : List (Option W64) × List (Option W64)) k =>
          let e := r.elem + k
          let l := if on e then (partStep op i.rnd i.f64 acc.1 (e % p.inner) (x e)).1 else acc.1
          if e % p.inner + 1 = p.inner then ([], acc.2 ++ [out l]) else (l, acc.2)) (r.parts, [])
      ∃ t, exec c s = .next t ∧
        s.VuSends t st v i.red { w with perRow := 1, total := rows, first := r.elem / p.inner } sums.2 free ∧
        (hi < p.total → ∃ r', (t.view.vuOf st v).run = some r' ∧ r'.inst = r.inst ∧ r'.elem = hi ∧ r'.parts = sums.1)) ∧
    (op = 0x20 → r.elem < hi →
      let factor := fun e => if i.fsrc = 0 then Num.fin false 1 0
        else if i.fsrc = 1 then f32.decode (i.imm % 2 ^ 32) else f32.decode (m.vuOperand st v p r.elem 3 e).1
      let old := if i.amaxClr && r.tick == 0 then 0 else s.reg amax
      let size := if i.target = 0 then 32 else 16
      let perRow := (p.inner + size - 1) / size
      let blocks := (List.range (hi - r.elem)).foldl
        (fun (acc : List (Option W64) × List (Option W64)) k =>
          let e := r.elem + k
          let l := acc.1 ++ [if on e then some (BitVec.ofNat 64 (a e).1) else none]
          if l.length = size ∨ e % p.inner + 1 = p.inner then ([], acc.2 ++ (mxRecord i l).1) else (l, acc.2)) (r.block, [])
      ∃ t, exec c s = .next t ∧
        (i.fsrc ≠ 2 → s.VuSends t st v i.red { w with perRow := p.inner, total := rows * p.inner, first := r.elem }
          ((List.range (hi - r.elem)).map fun k =>
            if on (r.elem + k) then
              some (BitVec.ofNat 64 (convertShort i.target i.sat i.rnd (a (r.elem + k)).1 (factor (r.elem + k))).code)
            else none) free) ∧
        (i.fsrc = 2 → s.VuSends t st v i.red
          { w with perRow := perRow * 8, total := rows * (perRow * 8), width := 32
                   first := (r.elem / p.inner * perRow + r.elem % p.inner / size) * 8 } blocks.2 free) ∧
        (i.amaxEn = true → t.reg amax = (List.range (hi - r.elem)).foldl
          (fun m k => if on (r.elem + k) then amaxStep m (a (r.elem + k)).1 else m) old % 2 ^ 64) ∧
        (i.amaxEn = false → t.reg amax = s.reg amax)) ∧
    (op = 0x21 → r.elem < hi →
      ∃ t, exec c s = .next t ∧ t.reg amax = s.reg amax ∧
        s.VuSends t st v i.red { w with perRow := 1, total := rows, first := 0 }
          [if m.vuMaskOn st v p 0 0 then some (BitVec.ofNat 64 (if i.scaleMode = 0 then tensorScale i.target (s.reg amax)
            else mxScale i.target (s.reg amax))) else none] free) ∧
    (op = 0x00 → r.elem = 0 →
      ∃ t, exec c s = .next t ∧ (t.view.vuOf st v).writes = (s.view.vuOf st v).writes ∧
        (i.last = false → ∃ r', (t.view.vuOf st v).run = some r' ∧ r'.inst = (r.inst + 1) % 256 ∧ r'.next = j.cyc + 1) ∧
        s.RegsBecome t [(Reg.vuInstrDone st v, (s.reg (Reg.vuInstrDone st v) + 1) % 2 ^ 64)])

/-- A start that has reached an idle vector unit begins its program at the instruction. The first result of the unit's
oldest instruction whose latencies are over leaves, while no write of an earlier instruction waits at a slab port: one
without a destination is dropped, a slab's goes to its bay's port as a write of its word alone, a queue's row is one message;
the instruction's last result counts it as done. Completes: vuStart, vuResultWrite. -/
def Obligations.VectorStartsAndWrites : Prop :=
  (∀ (s : State) (st v h : Nat) (j : Job) (x : UnitMsg), s.Ready → st < 16 → v < 32 → s.VuIsPresent st v →
    s.view.liveJob st = some (h, j) → (s.view.vuOf st v).run = none → (s.view.vuOf st v).faulted = false →
    ((s.view.sb st).starts.find? fun x => x.kind == 1 && x.unit == v && decide (x.due ≤ j.cyc)) = some x →
    ∃ t, exec (.vuStart st v) s = .next t ∧ t.mem = s.mem ∧
      (t.view.sb st).starts = removeFirst (· == x) (s.view.sb st).starts ∧
      t.view.vuOf st v = { s.view.vuOf st v with
        run := some { inst := x.idx, next := j.cyc, asked := (s.view.vuPlan st v x.idx).upTo 1 }, curInst := x.idx
        lines := [], qrows := [], ended := false } ∧
      ∀ k, k ≠ st * 32 + v → ffind t.dev.vu k = ffind s.dev.vu k) ∧
  ∀ (s : State) (st v h : Nat) (j : Job) (f w : VuWrite) (ws : List VuWrite), s.Ready → st < 16 → v < 32 →
    s.VuIsPresent st v → s.view.liveJob st = some (h, j) → (s.view.vuOf st v).writes = f :: ws →
    leastBy VuWrite.due ((f :: ws).filter fun x => x.inst == f.inst) = some w →
    let u := s.view.vuOf st v
    let d := s.view.streamDesc st v w.desc
    let bay := (vuUnit st v).bay
    let rest := removeFirst (· == w) (f :: ws)
    let behind := ∃ g, g < 8 ∧ ∃ r ∈ (s.view.portOf st (groupBay v g)).reqs, r.user = .vuWrite v ∧ r.inst ≠ w.inst
    let last := (∀ x ∈ rest, x.inst ≠ w.inst) ∧ (u.ended = true ∨ u.run.map (·.inst) ≠ some w.inst)
    (j.cyc < w.due ∨ behind → exec (.vuResultWrite st v) s = .next s) ∧
    (w.due ≤ j.cyc → ¬behind → u.faulted = false →
      (w.desc = 0 ∨ d.kind ≠ 2 ∨ s.view.senderBlocked st bay (vuUnit st v) = false) →
      ∃ t, exec (.vuResultWrite st v) s = .next t ∧
        (u.ended = false → (t.view.vuOf st v).writes = rest ∧ (t.view.vuOf st v).lastWrite = j.cyc ∧
          (w.desc = 0 → t.view.vuOf st v = { u with writes := rest, lastWrite := j.cyc })) ∧
        (last → s.RegsBecome t [(Reg.vuInstrDone st v, (s.reg (Reg.vuInstrDone st v) + 1) % 2 ^ 64)]) ∧
        (¬last → s.RegsBecome t []) ∧
        (∀ x, w.desc ≠ 0 → d.kind = 0 → d.width = 1 → d.addr % 4 = 0 → d.addr < 2 ^ 20 → w.cells = [some x] →
          w.first = 0 → w.total = 1 → w.perRow = 1 → w.width = 32 → u.wline = [] →
          ∃ q, (t.view.portOf st (groupBay v d.bay)).reqs = (s.view.portOf st (groupBay v d.bay)).reqs ++ [q] ∧
            q.user = .vuWrite v ∧ q.write = true ∧ q.addr = d.addr / 128 * 128 ∧ q.due = j.cyc ∧ q.job = some h ∧
            q.words = [(d.addr % 128 / 4, BitVec.ofNat 32 x.toNat)]) ∧
        (∀ x r, w.desc ≠ 0 → d.kind = 2 → s.view.ctlRoute st bay d.queue = false → w.cells = [some x] → w.perRow = 1 →
          w.width = 32 → ffind u.wrow w.operand = none → s.view.routeOf st bay d.queue = some r →
          t.dev.outbox = fput s.dev.outbox (outKey st bay r) (s.view.outbox st bay r ++
            [{ unit := vuUnit st v, dstSt := bits (s.view.route st bay r) 15 12, queue := d.queue
               net := bits (s.view.route st bay r) 17 16, bytes := toLe 4 (x.toNat % 2 ^ 32), valid := true }])))

/-- The way of a message. Its offer sends an admission request, unless it is too long for its queue, which stops its sender
with MSG_TOO_LONG, or four are outstanding, behind which it is held. The request arrives, and the first in the order of R176
is admitted if the queue can take its message whole, and waits otherwise; the grant returns; each word then leaves in a
booked cycle on the first way that its bookings give and arrives in its place. Completes: messageOffer, admissionRequest,
admission, admissionGrant, wordSend, wordArrival. -/
def Obligations.MessagesTravel : Prop :=
  (∀ (s : State) (st b r h i : Nat) (j : Job), s.Ready → st < 16 → b < 256 → r < 64 → s.BayIsPresent st b →
    s.view.liveJob st = some (h, j) → findIndex (fun x => x.stage == 0) (s.view.outbox st b r) = some i →
    let l := s.view.outbox st b r
    let x := nth {} l i
    let d := s.view.qdesc x.dstSt x.queue
    let out := (l.filter fun y => y.outstanding j.cyc).length
    (x.bytes.length ≤ d.limit → out < 4 → ∃ t, exec (.messageOffer st b r) s = .next t ∧ t.mem = s.mem ∧
      t.view.outbox st b r = l.set i { x with stage := 1 } ∧
      (t.view.queue x.dstSt x.queue).reqs = (s.view.queue x.dstSt x.queue).reqs ++
        [{ due := j.cyc + s.view.routeLatency j st b r (senderPort x.unit), key := (st * 256 + b) * 64 + r, st := st
           bay := b, route := r, len := x.bytes.length, valid := x.valid }]) ∧
    (x.bytes.length ≤ d.limit → 4 ≤ out → exec (.messageOffer st b r) s = .next s) ∧
    (d.limit < x.bytes.length → j.fault = none → ∃ t, exec (.messageOffer st b r) s = .next t ∧
      t.view.outbox st b r = l.eraseIdx i ∧ t.view.job h = some { j with
        fault := some (ctxId (some h) x.unit, 3, pack [(0, 12, x.queue), (12, 4, x.dstSt), (16, 20, x.bytes.length)])
        faultAt := s.view.now, status := 0x50 })) ∧
  (∀ (s : State) (st q h : Nat) (j : Job) (a : AdmReq), s.Ready → st < 16 → q < 4096 → s.QueueIsPresent st q →
    s.view.stnJob st = some (h, j) →
    leastBy (s.view.arrivalKey st) ((s.view.queue st q).reqs.filter fun a =>
      !a.arrived && decide (a.due ≤ if a.arc then s.view.now else j.cyc)) = some a →
    (a.router && s.view.routerRefuses st q a.len) = false →
    ∃ t, exec (.admissionRequest st q) s = .next t ∧ t.mem = s.mem ∧ t.view.queue st q = { s.view.queue st q with
      reqs := removeFirst (· == a) (s.view.queue st q).reqs ++
        [{ a with arrived := true, due := s.view.reclock st a.due a.arc false, adm := a.due + s.view.lat j Config.qAdmit }] }) ∧
  (∀ (s : State) (st q h : Nat) (j : Job) (a : AdmReq) (y : OutMsg), s.Ready → st < 16 → q < 4096 →
    s.QueueIsPresent st q → s.view.stnJob st = some (h, j) → j.phase ≠ .stopping → j.frozen = false → j.spills = [] →
    (s.view.queue st q).firstReq = some a → a.arc = false → a.router = false → a.comb = false → a.adm ≤ j.cyc →
    ((s.view.outbox a.st a.bay a.route).find? fun x => x.stage == 1 || x.stage == 2) = some y →
    let d := s.view.qdesc st q
    let x := s.view.queue st q
    let w := wordsOf d.net a.len
    let l := s.view.outbox a.st a.bay a.route
    let step := fun f => updateFirst (fun x => x.stage == 1 || x.stage == 2) f l
    let granted := step fun z => { z with
      stage := 3, due := j.cyc + s.view.routeLatency j a.st a.bay a.route (senderPort y.unit), seq := x.seq }
    let toEnd := d.cap - x.tail % d.cap
    let pos := if toEnd < recordBytes a.len then (x.tail + toEnd) % 2 ^ 32 else x.tail
    let room := if d.kind = 0 then False
      else if d.isRing then
        (if toEnd < recordBytes a.len then toEnd else 0) + recordBytes a.len ≤ d.cap - ptrDist x.tail x.head
      else x.shortUsed d.net + w ≤ d.depth
    (room → ∃ t, exec (.admission st q) s = .next t ∧ t.mem = s.mem ∧
      t.view.queue st q = { x with
        reqs := removeFirst (· == a) x.reqs, seq := (x.seq + 1) % 2 ^ 32
        tail := if d.isRing then (pos + recordBytes a.len) % 2 ^ 32 else (x.tail + w) % 2 ^ 32
        msgs := x.msgs ++ [{ len := a.len, valid := a.valid, srcBay := a.bay, srcStn := a.st, seq := x.seq
                             pos := if d.isRing then pos else x.tail }] } ∧
      t.view.outbox a.st a.bay a.route = granted) ∧
    (¬room → ∃ t, exec (.admission st q) s = .next t ∧ t.mem = s.mem ∧ (t.view.queue st q).msgs = x.msgs ∧
      (t.view.queue st q).reqs = x.reqs ∧ t.view.outbox a.st a.bay a.route = step fun z => { z with stage := 2 })) ∧
  (∀ (s : State) (st b r h : Nat) (j : Job), s.Ready → st < 16 → b < 256 → r < 64 →
    s.BayIsPresent st b → s.view.liveJob st = some (h, j) →
    let l := s.view.outbox st b r
    (∃ t, exec (.admissionGrant st b r) s = .next t ∧ t.mem = s.mem ∧
      t.view.outbox st b r = updateFirst (fun x => x.stage == 3 && decide (x.due ≤ j.cyc))
        (fun x => { x with stage := 4, due := j.cyc + 1, grantAt := j.cyc }) l) ∧
    ∀ x rest, l = x :: rest → x.stage = 4 → x.due ≤ j.cyc →
      let go := (senderPort x.unit = 5 → bit (s.reg (Reg.swStatus st b)) 0 = false) ∧ s.view.inOrder st b x = true
      (∀ way, go → s.view.bookedNow j st b r (senderPort x.unit) = some way →
        let w := wordBytes x.net
        ∃ t, exec (.wordSend st b r) s = .next t ∧
          s.RegsBecome t [(Reg.swWords st b, (s.reg (Reg.swWords st b) + 1) % 2 ^ 64)] ∧
          (t.view.queue x.dstSt x.queue).flight = (s.view.queue x.dstSt x.queue).flight ++
            [{ due := j.cyc + (way.there - s.view.now), unit := x.unit, seq := x.seq, idx := x.sent
               bytes := slice x.bytes (x.sent * w) w }] ∧
          (∀ e ∈ way.slots, e ∈ t.dev.gridUsed) ∧
          t.view.outbox st b r = if x.sent + 1 = wordsOf x.net x.bytes.length then
              rest.map fun y => { y with due := max y.due (j.cyc + 1) }
            else { x with sent := x.sent + 1, due := j.cyc + 1 } :: rest) ∧
      (¬go ∨ s.view.bookedNow j st b r (senderPort x.unit) = none → exec (.wordSend st b r) s = .next s)) ∧
  ∀ (s : State) (st q h : Nat) (j : Job) (w : NetWord) (y : Msg), s.Ready → st < 16 → q < 4096 →
    s.QueueIsPresent st q → s.view.stnJob st = some (h, j) →
    let x := s.view.queue st q
    let d := s.view.qdesc st q
    leastBy NetWord.due (x.flight.filter fun w =>
      decide (w.due ≤ (if w.arc then s.view.now else j.cyc) + if d.isRing then 2 else 0)) = some w →
    bit (s.reg (Reg.swStatus st (s.view.qBay st q))) 0 = false → (x.msgs.find? fun z => z.seq == w.seq) = some y →
    let off := w.idx * wordBytes d.net
    let at_ := if w.arc then j.cyc + (w.due - s.view.now) else w.due
    ∃ t, exec (.wordArrival st q) s = .next t ∧ t.mem = s.mem ∧
      (t.view.queue st q).flight = removeFirst (· == w) x.flight ∧
      (d.isRing = false → ∃ z, (t.view.queue st q).msgs = updateFirst (fun z => z.seq == w.seq) (fun _ => z) x.msgs ∧
        z = { y with bytes := z.bytes, words := z.words } ∧ ffind z.words w.idx = some at_ ∧
        (∀ k, k ≠ w.idx → ffind z.words k = ffind y.words k) ∧
        ∀ k, fget 0 z.bytes k =
          if off ≤ k ∧ k < off + w.bytes.length ∧ k < y.len then nth 0 w.bytes (k - off) else fget 0 y.bytes k) ∧
      (d.isRing = true → ∃ reqs, (t.view.portOf st d.bay).reqs = (s.view.portOf st d.bay).reqs ++ reqs ∧
        (t.view.queue st q).msgs = x.msgs ∧ ∀ p ∈ reqs, p.order = 1 ∧ p.write = true ∧
          p.user = .ringWord (st * 4096 + q) w.seq w.idx ∧ p.due = if w.arc then s.view.now else w.due - 2)

/-- A receiver steps over a record that is no message in Q_SKIP cycles, and reads nothing at an empty head; a message goes to
the Matrix Unit that reads it, else to the vector unit, else to the engine; a weight block is cut or filled to its length. A
points entry decides a control item, at most one in a cycle: SELECT sends one of its data items and discards the other, STEER
and GATHER send the item of route or input r, or discard it, or send an invalid item, and count it; at the end of an epoch
they pay what they owe one item at a time. A combining queue asks for room or adds its inputs' head messages in ascending
order, and removes them when the last word is made. Completes: queueRead, pointsDecision, epochEnd, combination. -/
def Obligations.QueuesPointsAndCombining : Prop :=
  (∀ (s : State) (st q h : Nat) (j : Job), s.Ready → st < 16 → q < 4096 → s.QueueIsPresent st q →
    s.view.liveJob st = some (h, j) → let x := s.view.queue st q
    (∀ n, s.view.head st q = .pass n → x.busy ≤ j.cyc → ∃ t, exec (.queueRead st q) s = .next t ∧ t.mem = s.mem ∧
      (t.view.queue st q).head = n ∧ (t.view.queue st q).busy = j.cyc + s.view.lat j Config.qSkip ∧
      ∀ k, k ≠ st * 4096 + q → ffind t.dev.queues k = ffind s.dev.queues k) ∧
    (s.view.head st q = .empty → exec (.queueRead st q) s = .next s) ∧
    (∀ len v next here, s.view.head st q = .message len v next here → x.busy ≤ j.cyc →
      (∀ m, s.view.muReads h j st q = some m → exec (.queueRead st q) s = .next (s.after m)) ∧
      (∀ m, s.view.muReads h j st q = none → s.view.vuReads h st q = some m →
        exec (.queueRead st q) s = .next (s.after m)) ∧
      ∀ b u r bs, s.dev.mu = [(st * 256 + b, u)] → b < 256 → u.run = some r → u.faulted = false → r.ldDone = false →
        r.ldLate = false → u.load = none → u.shadow = none → (s.view.passDesc st b r.ldDesc).wQueue = some q →
        (s.view.take st q).1 = some (bs, v) →
        let d := s.view.passDesc st b r.ldDesc
        ∃ t, exec (.queueRead st q) s = .next t ∧ t.view.queue st q = (s.view.take st q).2.queue st q ∧
          (t.view.muOf st b).load = some { bytes := padTo d.stored bs, need := d.stored, ready := j.cyc +
            (s.view.lat j Config.muWload + if d.decoded then s.view.lat j Config.muDecode else 0) } ∧
          s.RegsBecome t (if bs.length = d.stored then []
            else [(Reg.qLenerr st, statBump (s.reg (Reg.qLenerr st)) % 2 ^ 64)]))) ∧
  (∀ (s : State) (st b e h : Nat) (j : Job) (bs : Bytes) (cv : Bool) (cx : Queue), s.Ready → st < 16 → b < 256 → e < 16 →
    s.BayIsPresent st b → s.view.liveJob st = some (h, j) →
    let d := s.view.ptDesc st b e
    let p := s.view.points st b e
    (¬s.ArraysPass st (d.ctlQ :: d.dataQueues) → exec (.pointsDecision st b e) s = .next s) ∧
    (s.ArraysPass st (d.ctlQ :: d.dataQueues) → d.mode ≠ 0 → p.owed = [] → p.next ≤ j.cyc →
      s.view.senderBlocked st b (ptUnit st b e) = false → s.HeadHas st d.ctlQ bs cv cx → bs.length = 2 →
      d.ctlQ ∉ d.dataQueues →
      let item := leNat bs 0 2
      let r := bits item 8 1 % 16
      let counts := (p.counts ++ List.replicate (d.routes - p.counts.length) 0).take d.routes
      let ends := d.cap ≠ 0 ∧ p.epochPos + 1 = d.epoch
      let Decided := fun (t : State) (cs : List Nat) => exec (.pointsDecision st b e) s = .next t ∧
        t.view.queue st d.ctlQ = cx ∧ (t.view.points st b e).next = j.cyc + 1 ∧
        (t.view.points st b e).counts = (if ends then List.replicate d.routes 0 else cs) ∧
        (t.view.points st b e).owed = if ends then epochOwed d cs else []
      let Sent := fun (t : State) (k : Nat) (z : Bytes) (v : Bool) =>
        let w := s.view.route st b k
        t.view.outbox st b k = s.view.outbox st b k ++
          [{ unit := ptUnit st b e, dstSt := bits w 15 12, queue := bits w 11 0, net := bits w 17 16, valid := v, bytes := z
             order := p.sends }]
      let invalid := zeros (d.itemLen * wordBytes (bits (s.view.route st b d.outRoute) 17 16))
      let bump := fun (t : State) (o : Nat) => t.reg o = statBump (s.reg o) % 2 ^ 64
      let keep := bit item 0 = true ∨ d.invFwd = true
      let full := d.cap ≠ 0 ∧ nth 0 p.counts r = d.cap
      (∀ z z' v v' x x', d.mode = 1 → s.HeadHas st d.dataQ z v x → s.HeadHas st (d.dataQ + 1) z' v' x' →
        ∃ t, Decided t counts ∧ t.view.queue st d.dataQ = x ∧ t.view.queue st (d.dataQ + 1) = x' ∧
          if bit item 0 then Sent t d.outRoute z v else Sent t d.outRoute z' v') ∧
      (∀ z v x, d.mode = 2 → s.HeadHas st d.dataQ z v x →
        (r < d.routes → keep → ¬full → ∃ t, Decided t (counts.set r (nth 0 counts r + 1)) ∧
          t.view.queue st d.dataQ = x ∧ Sent t (d.outRoute + r) z (v && bit item 0)) ∧
        (d.routes ≤ r ∨ ¬keep ∨ full → ∃ t, Decided t counts ∧ t.view.queue st d.dataQ = x ∧ t.dev.outbox = s.dev.outbox ∧
          (d.routes ≤ r → bump t (Reg.ptBadtag st b)) ∧ (r < d.routes → keep → bump t (Reg.ptOverflow st b)))) ∧
      (d.mode = 3 →
        (∀ z v x, r < d.routes → keep → ¬full → s.HeadHas st (d.dataQ + r) z v x →
          ∃ t, Decided t (counts.set r (nth 0 counts r + 1)) ∧ t.view.queue st (d.dataQ + r) = x ∧
            Sent t d.outRoute z (v && bit item 0)) ∧
        (d.routes ≤ r ∨ ¬keep ∨ full → ∃ t, Decided t counts ∧ Sent t d.outRoute invalid false ∧
          (d.routes ≤ r → bump t (Reg.ptBadtag st b)) ∧ (r < d.routes → keep → bump t (Reg.ptOverflow st b)))))) ∧
  (∀ (s : State) (st b e h r n : Nat) (j : Job) (rest : List (Nat × Nat)), s.Ready → st < 16 → b < 256 → e < 16 →
    s.BayIsPresent st b → s.view.liveJob st = some (h, j) → (s.view.points st b e).owed = (r, n + 1) :: rest →
    s.view.senderBlocked st b (ptUnit st b e) = false → s.ArraysPass st (s.view.ptDesc st b e).dataQueues →
    let d := s.view.ptDesc st b e
    let p := s.view.points st b e
    let w := s.view.route st b (d.outRoute + r)
    let owed := if n = 0 then rest else (r, n) :: rest
    (d.mode = 2 → ∃ t, exec (.epochEnd st b e) s = .next t ∧ t.mem = s.mem ∧
      t.view.points st b e = { p with owed := owed, sends := p.sends + 1 } ∧
      t.view.outbox st b (d.outRoute + r) = s.view.outbox st b (d.outRoute + r) ++
        [{ unit := ptUnit st b e, dstSt := bits w 15 12, queue := bits w 11 0, net := bits w 17 16, valid := false
           bytes := zeros (d.itemLen * wordBytes (bits w 17 16)), order := p.sends }]) ∧
    (∀ z v x, d.mode = 3 → s.HeadHas st (d.dataQ + r) z v x → ∃ t, exec (.epochEnd st b e) s = .next t ∧
      t.view.points st b e = { p with owed := owed } ∧ t.view.queue st (d.dataQ + r) = x ∧
      t.dev.outbox = s.dev.outbox)) ∧
  ∀ (s : State) (st q h : Nat) (j : Job) (ys : List (Bytes × Bool)) (xs : List Queue), s.Ready → st < 16 → q < 4096 →
    s.QueueIsPresent st q → s.view.liveJob st = some (h, j) → (s.view.qdesc st q).combines = true →
    s.view.switchStopped st (s.view.qdesc st q).bay = false →
    let d := s.view.qdesc st q
    let x := s.view.queue st q
    (¬s.ArraysPass st d.inputs ∨ (∃ i ∈ d.inputs, s.view.ptWants st i = true) → exec (.combination st q) s = .next s) ∧
    (s.ArraysPass st d.inputs → (∀ i ∈ d.inputs, s.view.ptWants st i = false) → ys.length = d.senders →
      (∀ k, k < d.senders → d.srcQ + k ≠ q ∧ d.srcQ + k < 4096 ∧
        s.HeadHas st (d.srcQ + k) (nth ([], false) ys k).1 (nth ([], false) ys k).2 (nth {} xs k)) →
      let sum := combineSum d.ctype d.declLen (ys.map fun y => (padTo d.declLen y.1, y.2))
      let n := wordsOf d.net d.declLen
      (x.sum = none → x.reqs = [] → (admitStep d x d.declLen sum.2.1 d.bay st).2.2 = true →
        (∀ y ∈ x.msgs, y.seq ≠ x.seq) →
        ∃ t, exec (.combination st q) s = .next t ∧ (t.view.queue st q).sum = some x.seq ∧
          (t.view.queue st q).comb = some (j.cyc + d.senders * n) ∧
          (∀ k, k < d.senders → (t.view.queue st (d.srcQ + k)).msgs = (s.view.queue st (d.srcQ + k)).msgs) ∧
          (d.kind = 3 → ∃ z, (t.view.queue st q).msgs = x.msgs ++ [z] ∧ z.len = d.declLen ∧ z.valid = sum.2.1 ∧
            (∀ i, i < sum.1.length → fget 0 z.bytes i = nth 0 sum.1 i) ∧
            ∀ k, k < n → ffind z.words k = some (j.cyc + s.view.lat j Config.qComb + k * d.senders)) ∧
          (sum.2.2 = 0 → (∀ y ∈ ys, y.1.length = d.declLen) → t.mem = s.mem)) ∧
      (x.sum = none → x.reqs ≠ [] → (∀ a ∈ x.reqs, a.comb = false) → ∃ t, exec (.combination st q) s = .next t ∧
        t.mem = s.mem ∧ (t.view.queue st q).reqs = x.reqs ++ [combReq st d j.cyc sum.2.1]) ∧
      ∀ a c, x.sum = some a → x.comb = some c →
        (c ≤ j.cyc → ∃ t, exec (.combination st q) s = .next t ∧ (t.view.queue st q).sum = none ∧
          (t.view.queue st q).comb = none ∧ (t.view.queue st q).msgs = x.msgs ∧
          ∀ k, k < d.senders → t.view.queue st (d.srcQ + k) = nth {} xs k) ∧
        (j.cyc < c → exec (.combination st q) s = .next s))

/-- A stall request freezes the job's consist WAVE_REQ cycles later; the freeze lasts 64 × max(1, ⌈(a + WAVE_REL − f)/64⌉)
cycles from its beginning in f, where the last request cleared in a; a late result of an elastic run raises one. At 4,096
quorum cycles with nothing to spill DRY is set and nothing moves; a queue that lacks siding room raises SIDING_FULL;
otherwise the spills of the chain are begun, and each, when it is complete, has put its messages into the siding. Completes:
elasticResultDue, freezeBegin, freezeEnd, quorumFire, spillDone.
Completes: elasticResultDue, freezeBegin, freezeEnd, quorumFire, spillDone. -/
def Obligations.StallWaveAndQuorum : Prop :=
  (∀ (s : State) (st h : Nat) (j : Job) (r : LateResult), s.Ready → st < 16 → s.view.liveJob st = some (h, j) →
    let ls := (s.view.stn st).late
    let mine := fun (x : StallReq) => x.unit == r.unit && x.queue == 4096 + r.id
    let falls := fun (x : LateResult) => !x.raised && decide (x.due ≤ j.cyc)
    (ls.find? falls = some r → j.outstanding.any mine = false → ∃ t, exec (.elasticResultDue st) s = .next t ∧
      t.mem = s.mem ∧ (t.view.stn st).late = ls.map (fun x => if x.id == r.id then { x with raised := true } else x) ∧
      t.view.job h = some { j with
        stalls := j.stalls ++ [{ unit := r.unit, queue := 4096 + r.id, cause := 0, raised := s.view.now }]
        freezeAt := some (j.freezeAt.getD (s.view.now + s.view.lat j Config.waveReq)) }) ∧
    (ls.find? falls = none → (ls.find? fun x => x.raised && decide (x.act ≤ j.cyc)) = some r → j.outstanding.any mine = true →
      ∃ t, exec (.elasticResultDue st) s = .next t ∧ t.mem = s.mem ∧
        (t.view.stn st).late = ls.filter (fun x => x.id != r.id) ∧
        t.view.job h = some { j with
          stalls := j.stalls.map fun x => if mine x && x.cleared.isNone then { x with cleared := some s.view.now } else x
          lastClear := s.view.now })) ∧
  (∀ (s : State) (h f : Nat) (j : Job), s.Ready → h < 4096 → s.view.job h = some j → j.freezeAt = some f → j.frozen = false →
    j.started = true → f ≤ s.view.now →
    ∃ t, exec (.freezeBegin h) s = .next t ∧
      t.view.job h = some { j with
        frozen := true, frozenAt := f, waves := j.waves + 1, flags := j.flags ||| 2 } ∧
      (∀ st ∈ s.view.jobStations j, t.reg (Reg.waveCount st) = (s.reg (Reg.waveCount st) + 1) % 2 ^ 64 ∧
        ∀ x rest, j.stalls = x :: rest → t.reg (Reg.waveSrc st) = x.source % 2 ^ 64) ∧
      s.KeepsBut t ((s.view.jobStations j).flatMap fun st => [Reg.waveCount st, Reg.waveSrc st])) ∧
  (∀ (s : State) (h : Nat) (j : Job), s.Ready → h < 4096 → s.view.job h = some j → j.frozen = true → j.outstanding = [] →
    let rel := s.view.lat j Config.waveRel
    let len := 64 * max 1 ((j.lastClear + rel - j.frozenAt + 63) / 64)
    (j.frozenAt + len ≤ s.view.now → exec (.freezeEnd h) s = .next { s with dev := { s.dev with
      jobs := fput s.dev.jobs h { j with
        frozen := false, freezeAt := none, stalls := [], frozenCyc := j.frozenCyc + (s.view.now - j.frozenAt) } } }) ∧
    (s.view.now < j.frozenAt + len → exec (.freezeEnd h) s = .next s)) ∧
  (∀ (s : State) (h : Nat) (j : Job), s.Ready → h < 4096 → s.view.job h = some j → 4096 ≤ j.quorum → j.spills = [] →
    let chain := s.view.spillChain j
    let fired := { j with quorum := 0, quorums := j.quorums + 1, firedAt := j.cyc }
    let need := fun (c : Nat × Nat) => spillNeed (s.view.spillable c.1 c.2)
    let lacks := fun c => let d := s.view.qdesc c.1 c.2
      need c != 0 && (!d.sEn || decide (d.sSize - (s.view.queue c.1 c.2).sideUsed < need c))
    (chain = [] → ∃ t, exec (.quorumFire h) s = .next t ∧ t.view.job h = some fired ∧ t.dev.queues = s.dev.queues ∧
      (∀ st ∈ s.view.jobStations j, t.reg (Reg.qQuorums st) = (s.reg (Reg.qQuorums st) + 1) % 2 ^ 64 ∧
        bit (t.reg (Reg.qQuorumStatus st)) 14 = true) ∧
      s.KeepsBut t ((s.view.jobStations j).flatMap fun st => [Reg.qQuorums st, Reg.qQuorumStatus st])) ∧
    (∀ c, chain.find? lacks = some c → j.phase = .running → j.fault = none → ∃ t, exec (.quorumFire h) s = .next t ∧
      t.dev.queues = s.dev.queues ∧ t.view.job h = some { fired with
        fault := some (ctxId (some h) (queueUnit c.1 (s.view.qdesc c.1 c.2)), 4, pack [(0, 12, c.2), (12, 32, need c)])
        faultAt := s.view.now, status := 0x50 }) ∧
    (chain ≠ [] → chain.find? lacks = none → ∃ t k, exec (.quorumFire h) s = .next t ∧ t.view.job h = some k ∧
      k.quorum = 0 ∧ k.quorums = j.quorums + 1 ∧ k.spills.map (fun x => (x.queue, x.msgs)) =
        (chain.map fun c => (c.1 * 4096 + c.2, (s.view.spillable c.1 c.2).length)).filter fun x => x.2 != 0)) ∧
  (∀ (s : State) (h : Nat), s.Ready → h < 4096 → s.view.job h = none →
    exec (.freezeBegin h) s = .next s ∧ exec (.freezeEnd h) s = .next s ∧ exec (.quorumFire h) s = .next s ∧
      exec (.spillDone h) s = .next s) ∧
  ∀ (s : State) (h c : Nat) (j : Job) (x : Spill) (rest : List Spill), s.Ready → h < 4096 → x.queue < 65536 →
    s.view.job h = some j → j.spills = x :: rest → j.frozen = false → x.done = some c →
    (j.cyc < c ∨ s.view.spillMoving x = true → exec (.spillDone h) s = .next s) ∧
    (c ≤ j.cyc → s.view.spillMoving x = false →
      let st := x.queue / 4096
      let q := x.queue % 4096
      let y := s.view.queue st q
      let d := s.view.qdesc st q
      let ms := y.msgs.take x.msgs
      let n := (ms.map fun z => recordBytes z.len).sum
      ∃ t k, exec (.spillDone h) s = .next t ∧ (t.view.queue st q).msgs = y.msgs.drop x.msgs ∧
        (t.view.queue st q).siding.length = y.siding.length + ms.length ∧
        (t.view.queue st q).siding.take y.siding.length = y.siding ∧
        (t.view.queue st q).sidePos = (y.sidePos + n) % d.sSize ∧ (t.view.queue st q).sideUsed = y.sideUsed + n ∧
        (d.isRing = false → (t.view.queue st q).head = (y.head + (ms.map fun z => wordsOf d.net z.len).sum) % 2 ^ 32) ∧
        (d.isRing = true → (t.view.queue st q).head = match y.msgs.drop x.msgs with
          | z :: _ => z.pos
          | [] => y.tail) ∧
        t.view.job h = some k ∧ k.spilled = j.spilled + 1 ∧ k.quorum = 0 ∧
        k.spills.map (fun z => (z.queue, z.msgs)) = rest.map (fun z => (z.queue, z.msgs)) ∧
        s.RegsBecome t [(Reg.qSpillBytes st, (s.reg (Reg.qSpillBytes st) + n) % 2 ^ 64)])

/-- The port of a bay serves the first request in the order of R455 whose bank is free: a write stores its words and nothing
else in the scratchpad; a line that a vector unit asked for reaches it in the next cycle; an unscheduled access is counted.
A request to a busy bank waits, and counts as a conflict of its bank. The patrol scrub of an idle station reads the line at
its cursor, goes on to the next, counts a pass after the last, and writes what it corrected back. Completes: slabAccess,
slabScrubRead. -/
def Obligations.SlabPorts : Prop :=
  (∀ (s : State) (st b h v : Nat) (j : Job) (q : PortReq), s.Ready → st < 16 → b < 256 →
    let p := s.view.portOf st b
    let stand := p.reqs.filter s.view.reqStands
    p.seen ≠ some s.view.now → ((s.view.stn st).scrubRead.any fun r => r.1 == s.view.now) = false →
    leastBy s.view.portKey (stand.filter fun r => !(s.view.bankBusy st b r.addr)) = some q →
    let bank := bankOf (bit (s.view.slabCtrl st b) 0) q.addr
    let off := slabOff st b
    (∃ t, exec (.slabAccess st b) s = .next t ∧ (t.view.portOf st b).bank = bank ∧
      (t.view.portOf st b).cyc = some s.view.now ∧ (t.view.portOf st b).seen = some s.view.now ∧
      t.reg (Reg.slabUnsched st b) =
        if q.order = 4 then statBump (s.reg (Reg.slabUnsched st b)) % 2 ^ 64 else s.reg (Reg.slabUnsched st b)) ∧
    (∀ k x, q.user = .vuWrite v → q.words = [(k, x)] → k < 32 →
      let a := s.view.cell (off (q.addr / 128 * 128 + 4 * k))
      ∃ t, exec (.slabAccess st b) s = .next t ∧ (t.view.portOf st b).reqs = p.reqs.filter (fun r => r.age != q.age) ∧
        (∀ i, i < 4 → t.slabAt (a + i) = BitVec.ofNat 8 (x.toNat / 2 ^ (8 * i))) ∧
        (∀ i, i < a ∨ a + 4 ≤ i → t.slabAt i = s.slabAt i) ∧ (∀ i, t.ddrAt i = s.ddrAt i) ∧
        ∀ k, t.planeAt k = s.planeAt k) ∧
    (∀ n r, q.user = .vuRead v n → q.job = some h → s.view.liveJob st = some (h, j) → q.addr % 128 = 0 → q.len = 128 →
      s.dev.slabErr = [] → (s.view.vuOf st v).run = some r → stand = [q] → q.order ≠ 4 →
      ∃ t, exec (.slabAccess st b) s = .next t ∧ t.mem = s.mem ∧
        (t.view.portOf st b).reqs = p.reqs.filter (fun r => r.age != q.age) ∧
        t.view.vuOf st v = { s.view.vuOf st v with
          lines := (s.view.vuOf st v).lines ++ [(n, off q.addr, (List.range 128).map fun i => s.slabAt (s.view.cell (off q.addr) + i))]
          run := some { r with next := max r.next (j.cyc + 1) } })) ∧
  (∀ (s : State) (st b : Nat) (q : PortReq), s.Ready → st < 16 → b < 256 →
    let p := s.view.portOf st b
    let bank := bankOf (bit (s.view.slabCtrl st b) 0) q.addr
    (p.reqs.filter s.view.reqStands = [] ∨ p.seen = some s.view.now → exec (.slabAccess st b) s = .next s) ∧
    (p.reqs.filter s.view.reqStands = [q] → p.seen ≠ some s.view.now →
      ((s.view.stn st).scrubRead.any fun r => r.1 == s.view.now) = false → s.view.bankBusy st b q.addr = true →
      ∃ t, exec (.slabAccess st b) s = .next t ∧ t.view.portOf st b = { p with seen := some s.view.now } ∧
        s.RegsBecome t [(Reg.slabConf st b bank, statBump (s.reg (Reg.slabConf st b bank)) % 2 ^ 64)])) ∧
  ∀ (s : State) (st : Nat), s.Ready → st < 16 → (s.view.stn st).scrubOn = true → s.view.consistRuns st = false →
    (s.view.stn st).scrubNext ≤ s.view.now → 2 ≤ s.reg (Reg.stPwrStatus st) % 4 →
    let x := s.view.stn st
    let cur := bits (s.reg (Reg.scrubStatus st)) 14 2
    (x.scrubFix = [] → s.view.scrubMay st cur = true → ∃ t, exec (.slabScrubRead st) s = .next t ∧
      bits (t.reg (Reg.scrubStatus st)) 14 2 = (if cur + 1 = 6144 then 0 else (cur + 1) % 2 ^ 13) ∧
      t.reg (Reg.scrubPasses st) = (if cur + 1 = 6144 then statBump (s.reg (Reg.scrubPasses st)) % 2 ^ 64
        else s.reg (Reg.scrubPasses st)) ∧
      (s.dev.slabErr = [] → s.KeepsBut t [Reg.scrubStatus st, Reg.scrubPasses st]) ∧
      (t.view.stn st).scrubRead = some (s.view.now, cur) ∧ (t.view.stn st).scrubNext = s.view.now + 1) ∧
    (∀ c l, x.scrubFix ≠ [] → x.scrubRead = some (c, l) → s.view.scrubMay st l = true →
      ∃ t, exec (.slabScrubRead st) s = .next t ∧ t.mem = s.mem ∧
        t.view.stn st = { x with scrubFix := [], scrubRead := some (s.view.now, l), scrubNext := s.view.now + 1 } ∧
        ∀ k, ffind t.dev.slabErr k = if k ∈ x.scrubFix then none else ffind s.dev.slabErr k)

/-! ### Marshalling engines and the fabric -/

/-- A start that has reached an idle engine begins its list. The next piece of a descriptor goes out over the booked slots
that bring it there first and is noted in flight: to a DDR channel, or to the host, or over the fabric; the place in the
descriptor moves on. A host read sets the HOST flag of its job, and waits while 768 are outstanding. A held piece whose descriptor writes DDR space is written there, its bytes counted. A descriptor whose
writes have all taken effect completes and signals its token: after one with END the engine is idle and the signal box will
see it. Completes: engineStart, engineRequest, descriptorComplete.
The answer of a host read reaches every piece that it serves. One that ends unsuccessfully, or times out, stops its
engine with cause HOST: ERROR, the cause and the line's address are kept, and the pieces before it go on. A fill of the
remote line store that returns is installed in the lowest free way of its set, else in the least recently used. Completes:
hostReadCompletion, completionTimeout, rlsFill.
Completes: rlsFill, hostReadCompletion, completionTimeout. -/
def Obligations.MarshallingEngines : Prop :=
  (∀ (s : State) (st e h : Nat) (j : Job), s.Ready → st < 16 → e < 8 →
     s.view.liveJob st = some (h, j) → (s.view.engine st e).halted = false →
     let x := s.view.engine st e
     (∀ m, x.busy = false → (∀ p, (s.view.stn st).prev = some p → ∀ y ∈ p.sb.starts, y.kind ≠ 2 ∨ y.unit ≠ e) →
       ((s.view.sb st).starts.find? fun m => m.kind == 2 && m.unit == e && decide (m.due ≤ j.cyc)) = some m →
       let ovr := (s.view.xferDesc st { desc := m.idx }).ovr
       ∃ t, exec (.engineStart st e) s = .next t ∧ t.mem = s.mem ∧
         (t.view.sb st).starts = removeFirst (· == m) (s.view.sb st).starts ∧
         t.view.engine st e = { x with
           busy := true, job := h, row := 0, off := 0, count := 0, next := j.cyc, curDesc := m.idx, grants := []
           descs := [{ id := x.runNext, desc := m.idx, addSrc := if ovr = 1 then m.ovr else 0
                       addDst := if ovr = 2 then m.ovr else 0 }]
           runNext := x.runNext + 1 }) ∧
     (∀ ds : EngDesc, x.busy = true → x.job = h → x.descs.getLast? = some ds → ds.issued = false → x.next ≤ j.cyc →
       (∀ z ∈ x.pieces, z.2.stage ≠ 1) →
       let d := s.view.xferDesc st ds
       let len := d.pieceLen x.row x.off
       let a := d.srcAt x.row x.off
       let line := a / 128 * 128
       let c := chanOf (gaOffset line)
       let tt := s.view.timetabledFor c h
       let y : Piece :=
         { run := ds.id, row := x.row, off := x.off, src := a, dst := d.dstAt x.row x.off, len := len, rd := x.pieceNext }
       let fresh := ∀ l, l ∈ x.lines ∨ (x.prevLine = some l ∧ x.count = 0 ∧ d.merge = true) → l.kind ≠ d.srcKind ∨ l.line ≠ line
       d.srcKind ≠ 2 → s.view.engBadAddr st d x.row x.off len = none → (d.dstKind = 3 → ∀ z ∈ x.pieces, z.2.run ≠ ds.id) →
       (¬fresh ∨ (s.view.engRead h j st e d a).isSome = true →
         ∃ t, exec (.engineRequest st e) s = .next t ∧ (t.view.engine st e).pieceNext = x.pieceNext + 1 ∧
           (x.off + len < d.rowLen → (t.view.engine st e).row = x.row ∧ (t.view.engine st e).off = x.off + len ∧
             (t.view.engine st e).next = if d.pace = 0 then j.cyc + 1
               else max (j.cyc + 1) ((if x.count = 0 then j.cyc else x.first) + 19 * (x.count + 1) / d.pace))) ∧
       (∀ way, fresh → d.srcKind = 0 → gaDevice a = s.view.deviceId → gaSpace a = 0 →
         s.view.wayBack j st line s.view.now ≠ none → s.view.wayTo j st line s.view.now = some way →
         ∃ t, exec (.engineRequest st e) s = .next t ∧ t.mem = s.mem ∧
           (t.view.engine st e).pieces = fput x.pieces x.pieceNext y ∧
           (t.view.ch c).port = (s.view.ch c).port ++
             [{ user := .engine st e x.pieceNext, off := gaOffset line, job := some h, arc := !tt
                due := (if tt then j.cyc else s.view.now) + (way.there - s.view.now), age := (s.view.ch c).ages }]) ∧
       (fresh → d.srcKind = 1 → s.dev.host.reads.length < 768 →
         ∃ t, exec (.engineRequest st e) s = .next t ∧ t.mem = s.mem ∧
           (t.view.engine st e).pieces = fput x.pieces x.pieceNext y ∧
           ffind t.dev.host.reads s.dev.host.readNext = some (st, e, x.pieceNext) ∧
           t.dev.out = .hostRead s.dev.host.readNext line 128 :: s.dev.out ∧
           ((t.view.job h).map fun j => bit j.flags fgHost) = some true) ∧
       (fresh → d.srcKind = 1 → 768 ≤ s.dev.host.reads.length → ∃ t, exec (.engineRequest st e) s = .next t ∧
         t.dev.host.reads = s.dev.host.reads ∧ (t.view.engine st e).pieceNext = x.pieceNext)) ∧
     (∀ (ds : EngDesc) (p : Nat) (y : Piece), x.busy = true → x.job = h → x.descs = [ds] → ds.issued = true → ds.cut = none →
       x.pieces = [(p, y)] → ds.id = y.run → y.stage = 1 →
       let d := s.view.xferDesc st ds
       let c := chanOf (gaOffset y.dst)
       d.dstKind = 0 → gaDevice y.dst = s.view.deviceId → gaSpace y.dst = 0 → d.nextPos y.row (y.off + y.len) = none →
       d.dstAt y.row y.off = y.dst → d.pieceLen y.row y.off = y.len →
       s.view.wayTo j st y.dst (s.view.now + (y.due - if y.arc then s.view.now else j.cyc)) ≠ none →
       ∃ t z q, exec (.engineRequest st e) s = .next t ∧ (t.view.engine st e).pieces = [(p, z)] ∧ z.stage = 2 ∧
         z.left = 1 ∧ (t.view.ch c).port = (s.view.ch c).port ++ [q] ∧ q.write = true ∧ q.user = .engine st e p ∧
         q.off = gaOffset y.dst / 128 * 128 ∧ q.segs = [(gaOffset y.dst, y.data)] ∧ q.job = some h ∧
         s.RegsBecome t [(Reg.meBytes st e, (s.reg (Reg.meBytes st e) + y.len) % 2 ^ 64)]) ∧
     (∀ (ds : EngDesc) (rest : List EngDesc), x.busy = true → x.job = h → x.descs = ds :: rest → ds.issued = true →
       ds.cut = none → (∀ z ∈ x.pieces, z.2.stage = 3) →
       (∀ z ∈ x.pieces, z.2.run = ds.id → z.2.due ≤ if z.2.arc then s.view.now else j.cyc) →
       let d := s.view.xferDesc st ds
       ∃ t, exec (.descriptorComplete st e) s = .next t ∧ t.mem = s.mem ∧
         t.view.engine st e = { x with
           descs := rest, pieces := x.pieces.filter (fun z => z.2.run != ds.id), busy := !d.last } ∧
         (d.last = true → ffind (s.view.sb st).pend (startKey 2 e) = none →
           (t.view.sb st).dones = (s.view.sb st).dones ++
             [{ kind := 2, unit := e, due := j.cyc + s.view.lat j Config.meDone }]) ∧
         (∀ k, d.signal = true → s.view.tokDecl j st d.token = some k →
           (t.view.stn k.st).tokOps = (s.view.stn k.st).tokOps ++
             [{ slot := k.slot, kind := 0, src := 1 + e, srcSt := st, val := 1, job := h
                due := j.cyc + 1 + s.view.lat j Config.tkSig + s.view.stnLatency st k.st }]))) ∧
  ((∀ (s : State) (tag st e p h : Nat) (y : Piece), s.Ready → ffind s.dev.host.reads tag = some (st, e, p) → st < 16 →
     e < 8 → (s.view.stn st).job = some h → (s.view.engine st e).busy = true →
     (s.view.engine st e).job = h → (s.view.engine st e).halted = false → ffind (s.view.engine st e).pieces p = some y →
     let x := s.view.engine st e
     (∀ b, b.length = 128 →
       ∃ t, exec (.hostReadCompletion tag (some b)) s = .next t ∧ ffind t.dev.host.reads tag = none ∧
         (∀ k z z', ffind x.pieces k = some z → z.rd = p → ffind (t.view.engine st e).pieces k = some z' → z'.stage ≠ 0) ∧
         ∀ p₀ y₀ rest, x.pieces = (p₀, y₀) :: rest → y₀.stage = 0 → y₀.rd ≠ p → t.mem = s.mem ∧
           (t.view.engine st e).pieces = x.pieces.map fun z =>
             if z.2.rd = p ∧ z.2.stage = 0 then (z.1, { z.2 with
               stage := 1, data := slice b (z.2.src - y.src / 128 * 128) z.2.len, due := s.view.now, arc := true })
             else z) ∧
     (∀ ds c, (x.descs.find? fun d => d.id == y.run) = some ds → bit (s.reg (Reg.meErr st e)) 31 = false →
       (c = .hostReadCompletion tag none ∨ c = .completionTimeout tag) →
       ∃ t, exec c s = .next t ∧ (t.view.engine st e).halted = true ∧ (t.view.engine st e).error = true ∧
         (t.view.engine st e).pieces = fkeep x.pieces (fun k => k < p) ∧
         (∀ z ∈ (t.view.engine st e).descs, z.id = y.run → z.cut = some p ∧ z.issued = true) ∧
         bits (t.reg (Reg.meErr st e)) 2 0 = 4 ∧ bits (t.reg (Reg.meErr st e)) 11 3 = ds.desc % 2 ^ 9 ∧
         bit (t.reg (Reg.meErr st e)) 31 = true ∧ t.reg (Reg.meErrAddr st e) = y.src / 128 * 128 % 2 ^ 64 ∧
         s.KeepsBut t [Reg.meErr st e, Reg.meErrAddr st e])) ∧
   ∀ (s : State) (st tag : Nat) (f : RlsFill) (data : Bytes), s.Ready → st < 16 →
     ffind s.dev.fills (st * 65536 + tag) = some f → f.data = some data →
     let set := (s.view.rlsSet st f.addr).filter fun x => x.addr != f.addr
     let free := lowest 8 fun w => !(set.any fun x => x.way == w)
     let into := fun (w : Nat) => set.filter (fun x => x.way != w) ++
       [{ way := w, addr := f.addr, data := data, used := s.dev.rlsUse : RlsLine }]
     ∃ t, exec (.rlsFill st tag) s = .next t ∧ ffind t.dev.fills (st * 65536 + tag) = none ∧
       (f.waiters = [] → f.install = true → t.mem = s.mem ∧ t.dev.rlsUse = s.dev.rlsUse + 1 ∧
         (∀ w, free = some w → t.view.rlsSet st f.addr = into w) ∧
         (∀ x, free = none → leastBy RlsLine.used set = some x → t.view.rlsSet st f.addr = into x.way)) ∧
       (f.waiters = [] → f.install = false →
         t = { s with dev := { s.dev with fills := fdel s.dev.fills (st * 65536 + tag) } }))

/-- A port trains, sends IDENT, checks its peer's and comes up at the highest common version with full credits, or fails
with the cause of the first check that fails; a port in service that loses lock, or gets no acknowledgement for 10 µs,
retrains; success resumes it with what it kept, and the third failure fails it. A drained port closes. The ring command that
waits for a port is answered when the port is up, has failed or has closed. Completes: portTrainingDone, ident, noSignal,
laneLockLoss, ackTimeout, retrainAttemptDone, portDrainDone.
PORT_OPEN begins the training of a closed or failed port of a fabric that has been set up, after the exchange with a
spare that it names; one that is open already, or has no link, is answered with its status. PORT_CLOSE begins the drain of
an open port, for the limit given or 100 µs; one that retrains ends its retrain first; a failed port closes, and a closed one
is answered, at once. Each is refused for a parameter or for what is in progress there. Completes: portOpen, portClose. -/
def Obligations.Ports : Prop :=
  (∀ (s : State) (p : Nat), s.Ready → p < 8 → (∀ r, (s.view.ep p).ring = some r → r < 16) →
     let e := s.view.ep p
     let st := s.view.portState p
     let fails := fun (t : State) (cause : Nat) (l : List Nat) =>
       s.PortGoes t p psFailed cause (s.portRing p ++ Reg.portDiscard p :: l) ∧ t.view.ep p = {} ∧
         t.reg (Reg.portDiscard p) = statAfter (s.view.portHolds p) (s.reg (Reg.portDiscard p)) ∧
         s.PortAnswers t p (if s.view.portClosing p then 0 else t.view.portStatusValue p)
     (st = psTraining → ∃ t, exec (.portTrainingDone p) s = .next t ∧ s.PortGoes t p psIdent 0 [] ∧ t.view.ep p = e ∧
       t.dev.out = .ident p (s.reg Reg.epDeviceId) (s.reg Reg.epTorus) (s.view.portDir p) 6 :: s.dev.out) ∧
     (∀ device torus dir versions, st = psIdent → s.view.portClosing p = false →
       let mine := s.view.portDir p
       let cause := if dir ≠ (if mine % 2 = 0 then mine + 1 else mine - 1) then 2
         else if torus % 2 ^ 23 ≠ s.reg Reg.epTorus % 2 ^ 23 then 3
         else if device % 2 ^ 18 ≠ s.view.neighbourId mine then 2
         else if bit versions 2 = false ∧ bit versions 1 = false then 4 else 0
       ∃ t, exec (.ident p device torus dir versions) s = .next t ∧
         s.PortGoes t p (if cause = 0 then psUp else psFailed) cause
           (s.portRing p ++ [Reg.portPeer p, Reg.portDiscard p]) ∧
         bits (t.reg (Reg.portPeer p)) 17 0 = device % 2 ^ 18 ∧ bits (t.reg (Reg.portPeer p)) 31 24 = versions % 2 ^ 8 ∧
         s.PortAnswers t p (t.view.portStatusValue p) ∧
         (cause = 0 → t.view.portVersion p = (if bit versions 2 then 2 else 1) ∧
           (t.view.ep p).credits = [256, 256, 256, 256] ∧ (t.view.ep p).replay = [])) ∧
     (st = psTraining ∨ st = psIdent → ∃ t, exec (.noSignal p) s = .next t ∧ fails t 1 []) ∧
     (st ≠ psTraining → st ≠ psIdent → exec (.noSignal p) s = .next s) ∧
     (∀ c : Instr, s.view.linkUp p = true → c = .laneLockLoss p ∨
         (c = .ackTimeout p ∧ e.replay ≠ [] ∧ e.lastAck + 19000 ≤ s.view.now) →
       ∃ t, exec c s = .next t ∧ s.PortGoes t p psRetrain 0 [Reg.portRetrains p] ∧
         t.reg (Reg.portRetrains p) = statBump (s.reg (Reg.portRetrains p)) % 2 ^ 64 ∧
         t.view.ep p = { e with attempts := 0 } ∧ t.dev.out = s.dev.out) ∧
     (s.view.linkUp p = false ∨ e.replay = [] ∨ s.view.now < e.lastAck + 19000 → exec (.ackTimeout p) s = .next s) ∧
     (st = psRetrain → ∃ t, exec (.retrainAttemptDone p true) s = .next t ∧
       s.PortGoes t p (if s.view.portClosing p then psDraining else psUp) 0 [Reg.portReplays p, Reg.portTx p] ∧
       t.dev.out = (e.replay.map fun f => Output.flit p f.2.1).reverse ++ s.dev.out ∧
       (t.view.ep p).replay = e.replay.map (fun f => (f.1, f.2.1, 1)) ∧ (t.view.ep p).credits = e.credits ∧
       (t.view.ep p).rxPools = e.rxPools ∧ (t.view.ep p).ring = e.ring) ∧
     (st = psRetrain → e.attempts < 2 → exec (.retrainAttemptDone p false) s = .next { s with dev := { s.dev with
       ep := fput s.dev.ep p { e with attempts := e.attempts + 1 } } }) ∧
     (st = psRetrain → 2 ≤ e.attempts → ∃ t, exec (.retrainAttemptDone p false) s = .next t ∧ fails t 5 []) ∧
     (s.view.portClosing p = true → s.view.portHolds p = 0 → s.view.sending p = false →
       ∃ t, exec (.portDrainDone p) s = .next t ∧
         s.PortGoes t p psClosed 0 (s.portRing p ++ [Reg.portPeer p]) ∧ bit (t.reg (Reg.portPeer p)) 63 = false ∧
         s.PortAnswers t p 0) ∧
     (s.view.portClosing p = false ∨ s.view.portHolds p ≠ 0 ∨ s.view.sending p = true →
       exec (.portDrainDone p) s = .next s)) ∧
  (∀ (s : State) (r : Nat) (c : Cmd), s.Ready → r < 16 →
     let l := c.p 0 % 8
     (s.Serves r 0x81 c →
       let sub := bits (c.p 0) 5 4
       let refused := fun (status detail : Nat) => ∃ t, exec (.portOpen r) s = .next t ∧
         s.Replied t r c [] status detail 0 ∧ s.RepliesAlone t r []
       let ok := l ≤ 5 ∧ sub ≤ 2 ∧ s.view.fabricSet = true
       (¬ ok → refused scBadParam 16) ∧
       (ok → sub ≠ 0 → s.view.version < 0x300 → refused scVersion 0) ∧
       (ok → sub = 0 ∨ 0x300 ≤ s.view.version → ∀ d, s.view.portConflict l = some d → refused scBusy d) ∧
       (ok → sub ≠ 0 → 0x300 ≤ s.view.version → s.view.portConflict l = none → ∀ x,
         s.dev.consists.find? (fun x => bit x.2.ports l) = some x → refused scBusy (busyDetail 0x20 0 x.1)) ∧
       (ok → sub = 0 ∨ (0x300 ≤ s.view.version ∧ s.dev.consists.find? (fun x => bit x.2.ports l) = none) →
         s.view.portConflict l = none →
         let m := if sub = 0 then s.view else s.view.substitute l (sub - 1)
         let p := m.physPort l
         let st := s.view.portState p
         (sub ≠ 0 → p = nth 0 s.view.portMap (5 + sub)) ∧
         (st = psClosed ∨ st = psFailed → m.portDir p ≤ 5 →
           1 < m.ringSize (m.portDir p / 2) →
           ∃ t, exec (.portOpen r) s = .next t ∧ s.PortGoes t p psTraining 0 [Reg.coPortMap] ∧
             t.reg Reg.coPortMap = m.raw Reg.coPortMap ∧ t.view.ep p = { ring := some r } ∧
             (t.view.ring r).cmd = some { c with begun := true } ∧ t.dev.out = s.dev.out) ∧
         ((st ≠ psClosed ∧ st ≠ psFailed) ∨ 5 < m.portDir p ∨
             m.ringSize (m.portDir p / 2) ≤ 1 →
           ∃ t, exec (.portOpen r) s = .next t ∧ s.Replied t r c [] scOk 0 (m.portStatusValue p) ∧
             s.RepliesAlone t r [Reg.coPortMap] ∧ t.reg Reg.coPortMap = m.raw Reg.coPortMap))) ∧
     (s.Serves r 0x80 c →
       let p := s.view.physPort l
       let st := s.view.portState p
       let us := bits (c.p 1) 19 0
       (5 < l → ∃ t, exec (.portClose r) s = .next t ∧ s.Replied t r c [] scBadParam 16 0 ∧ s.RepliesAlone t r []) ∧
       (l ≤ 5 → ∀ d, s.view.portConflict l = some d → ∃ t, exec (.portClose r) s = .next t ∧
         s.Replied t r c [] scBusy d 0 ∧ s.RepliesAlone t r []) ∧
       (l ≤ 5 → s.view.portConflict l = none →
         (st = psClosed → ∃ t, exec (.portClose r) s = .next t ∧ s.Replied t r c [] scOk 0 0 ∧ s.RepliesAlone t r []) ∧
         (st = psFailed → ∃ t, exec (.portClose r) s = .next t ∧ s.Replied t r c [] scOk 0 0 ∧
           s.PortGoes t p psClosed 0 [Reg.ringStatus r, Reg.portPeer p, Reg.portDiscard p]) ∧
         (st ≠ psClosed → st ≠ psFailed →
           ∃ t, exec (.portClose r) s = .next t ∧
             (if st = psRetrain then t.mem = s.mem else s.PortGoes t p psDraining 0 []) ∧
             t.view.ep p = { s.view.ep p with
               ring := some r, drainEnd := some (s.view.now + (if us = 0 then 100 else us) * 1900) } ∧
             (t.view.ring r).cmd = some { c with begun := true } ∧ t.dev.out = s.dev.out))))

/-- A flit that is bad counts and is asked for again; one in sequence is taken with the acknowledgement and the credits that
it carries, and with its packet's last flit the packet is whole; one out of sequence is passed over. A NAK sends the kept
flits again from its SEQ; an acknowledgement that is due goes out. A packet's next flit leaves on its next link when its
input's turn has come and the port there has its credit; it is discarded at a port that is down. Completes: flitReceive,
nak, linkAckDue, packetTransit. -/
def Obligations.FlitsAndTransit : Prop :=
  (∀ (s : State) (p : Nat) (f : Bytes) (fec : Option Nat), s.Ready → p < 8 → f.length = 512 → s.view.linkUp p = true →
    let e := s.view.ep p
    let h := FlitHdr.decode f
    let pool := 2 * h.cls + h.vc
    let back := (e.credit h.cred).credit h.cred2
    let kept := match h.ack.bind fun a => findIndex (fun x => x.1 == a) e.replay with
      | some i => e.replay.drop (i + 1)
      | none => e.replay
    let seen := fun (l : List (Nat × Nat)) =>
      (Reg.portRx p, (s.reg (Reg.portRx p) + 1) % 2 ^ 64) :: (match fec with
        | some n => [(Reg.portFecCorr p, statAfter n (s.reg (Reg.portFecCorr p)))]
        | none => [(Reg.portFecUncorr p, statBump (s.reg (Reg.portFecUncorr p)) % 2 ^ 64)]) ++ l
    let sent := (Reg.portTx p, (s.reg (Reg.portTx p) + 1) % 2 ^ 64)
    (fec = none ∨ flitOk f = false → ∃ t, exec (.flitReceive p f fec) s = .next t ∧ (t.view.ep p).rxNext = e.rxNext ∧
      (t.view.ep p).nakSent = true ∧ (t.view.ep p).credits = e.credits ∧ t.dev.pkts = s.dev.pkts ∧
      s.RegsBecome t (seen ((if fec.isSome then
        [(Reg.portCrcErr p, statBump (s.reg (Reg.portCrcErr p)) % 2 ^ 64)] else []) ++
          if e.nakSent then [] else [sent])) ∧
      if e.nakSent then t.dev.out = s.dev.out
      else ∃ flit, t.dev.out = .flit p flit :: s.dev.out ∧ (FlitHdr.decode flit).ftype = 6 ∧
        (FlitHdr.decode flit).seq = e.rxNext % 4096) ∧
    (fec.isSome = true → flitOk f = true → 1 ≤ h.ftype → h.ftype ≤ 4 → h.seq ≠ e.rxNext →
      ∃ t, exec (.flitReceive p f fec) s = .next t ∧ t.dev = s.dev ∧ s.RegsBecome t (seen [])) ∧
    (fec.isSome = true → flitOk f = true → h.ftype = 0 ∨ h.ftype = 5 → ∃ t, exec (.flitReceive p f fec) s = .next t ∧
      (t.view.ep p).replay = kept ∧ (t.view.ep p).credits = back.credits ∧ (t.view.ep p).rxNext = e.rxNext ∧
      t.dev.pkts = s.dev.pkts ∧ t.dev.out = s.dev.out ∧ s.RegsBecome t (seen [])) ∧
    (fec.isSome = true → flitOk f = true → 1 ≤ h.ftype → h.ftype ≤ 4 → h.seq = e.rxNext →
      let got := (if h.ftype = 1 ∨ h.ftype = 4 then [] else fget [] e.rxPools pool) ++ [f]
      ∃ t, exec (.flitReceive p f fec) s = .next t ∧ (t.view.ep p).rxNext = (e.rxNext + 1) % 4096 ∧
        (t.view.ep p).nakSent = false ∧ (t.view.ep p).replay = kept ∧ (t.view.ep p).credits = back.credits ∧
        (if e.unacked < 31 then (t.view.ep p).unacked = e.unacked + 1 ∧ t.dev.out = s.dev.out ∧ s.RegsBecome t (seen [])
          else (t.view.ep p).unacked = 0 ∧ (∃ flit, t.dev.out = .flit p flit :: s.dev.out ∧
            (FlitHdr.decode flit).ack = some (e.rxNext % 4096)) ∧ s.RegsBecome t (seen [sent])) ∧
        if h.ftype = 3 ∨ h.ftype = 4 then t.dev.pktNext = s.dev.pktNext + 1 ∧
          (let b := got.flatMap fun g => (g.drop 16).take (FlitHdr.decode g).plen
            ∃ k, ffind t.dev.pkts s.dev.pktNext = some k ∧ k.op = bits (leNat b 0 8) 3 0 ∧
            some k.dest = (got.head?).map (fun g => (FlitHdr.decode g).dest) ∧ k.addr = leNat b 8 8 ∧
            k.data = b.drop 32 ∧ k.vc = h.vc ∧ k.port = some p ∧ k.pool = pool ∧ k.flits = got.length ∧
            k.due = s.view.now + 19 ∧ k.arrived = (k.dest == s.view.deviceId))
        else t.dev.pkts = s.dev.pkts ∧ fget [] (t.view.ep p).rxPools pool = got)) ∧
  (∀ (s : State) (p seq : Nat), s.Ready → p < 8 → s.view.linkUp p = true →
    let e := s.view.ep p
    let again := match findIndex (fun x => x.1 == (seq % 4096 + 4095) % 4096) e.replay with
      | some i => e.replay.drop (i + 1)
      | none => e.replay
    ∃ t, exec (.nak p seq) s = .next t ∧ t.dev.out = (again.map fun f => Output.flit p f.2.1).reverse ++ s.dev.out ∧
      (t.view.ep p).replay = again.map (fun f => (f.1, f.2.1, f.2.2 + 1)) ∧
      if again.any (fun f => 7 ≤ f.2.2) then
        s.PortGoes t p psRetrain 0 [Reg.portReplays p, Reg.portTx p, Reg.portRetrains p]
      else s.RegsBecome t [(Reg.portReplays p, statBump (s.reg (Reg.portReplays p)) % 2 ^ 64),
        (Reg.portTx p, (s.reg (Reg.portTx p) + again.length) % 2 ^ 64)]) ∧
  (∀ (s : State) (p : Nat), s.Ready → p < 8 → s.view.linkUp p = true →
    let e := s.view.ep p
    let owed := e.takeOwed
    let owes := e.rxSome || e.owe.any (· != 0)
    (owes = true → e.ackFrom + 190 ≤ s.view.now → ∃ t, exec (.linkAckDue p) s = .next t ∧
      t.dev.out = .flit p (flitOf { ftype := 5, ack := e.ackOf, cred := owed.1, cred2 := owed.2.1 } []) :: s.dev.out ∧
      t.view.ep p = { owed.2.2 with unacked := 0, ackFrom := s.view.now } ∧
      s.RegsBecome t [(Reg.portTx p, (s.reg (Reg.portTx p) + 1) % 2 ^ 64)]) ∧
    (owes = false ∨ s.view.now < e.ackFrom + 190 → exec (.linkAckDue p) s = .next s)) ∧
  ∀ (s : State) (id : Nat) (k : Packet), s.Ready → ffind s.dev.pkts id = some k →
    (s.view.pktReady id k = false → exec (.packetTransit id) s = .next s) ∧
    (s.view.pktReady id k = true → s.view.nextLink k = none → exec (.packetTransit id) s = .next { s with dev := { s.dev with
      pkts := fput s.dev.pkts id { k with arrived := true } } }) ∧
    ∀ p vc, s.view.pktReady id k = true → s.view.outPort k = some (p, vc) → p < 8 →
      let pool := 2 * k.cls + vc
      let st := s.view.portState p
      let goes := s.view.flitGoes id k p vc && s.view.inputTurn p == some k.input
      let isOpen := st = psUp ∨ (st = psDraining ∧ k.sent ≠ 0)
      let old := (k.op = opWait ∨ k.op = opCombine) ∧ s.view.portVersion p = 1
      let part := ((k.header ++ k.data).drop (488 * k.sent)).take 488
      (isOpen → ¬ old → goes = true →
        ∃ t flit, exec (.packetTransit id) s = .next t ∧ t.dev.out = .flit p flit :: s.dev.out ∧
          slice flit 16 part.length = part ∧ (t.view.ep p).served = k.input ∧
          (t.view.ep p).credits = setNth (s.view.ep p).credits pool (nth 0 (s.view.ep p).credits pool - 1) ∧
          (t.view.ep p).replay = (s.view.ep p).replay ++ [((s.view.ep p).txNext, flit, 1)] ∧
          (ffind t.dev.pkts id).map (·.sent) = (if k.nflits ≤ k.sent + 1 then none else some (k.sent + 1)) ∧
          s.RegsBecome t [(Reg.portTx p, (s.reg (Reg.portTx p) + 1) % 2 ^ 64)]) ∧
      (isOpen → ¬ old → goes = false → exec (.packetTransit id) s = .next s) ∧
      (isOpen → old → ∃ t a, exec (.packetTransit id) s = .next t ∧ t.dev.out = s.dev.out ∧
        t.dev.pktNext = s.dev.pktNext + 1 ∧ ffind t.dev.pkts s.dev.pktNext = some a ∧ a.status = ocNosupport ∧
        a.dest = k.src ∧ a.tag = k.tag ∧ a.addr = k.addr ∧ a.cls = 1 ∧
        t.reg Reg.epTargetErr = statBump (s.reg Reg.epTargetErr) % 2 ^ 64) ∧
      (st = psRetrain → s.view.portClosing p = false ∨ k.sent ≠ 0 → exec (.packetTransit id) s = .next s) ∧
      (¬ isOpen → st ≠ psRetrain ∨ (s.view.portClosing p = true ∧ k.sent = 0) →
        ∃ t, exec (.packetTransit id) s = .next t ∧ ffind t.dev.pkts id = none ∧ t.dev.out = s.dev.out ∧
          s.RegsBecome t [(Reg.portDiscard p, statAfter (k.nflits - k.sent) (s.reg (Reg.portDiscard p)))])

/-- The remote instructions of a signal box issue an entry and a packet, or wait while their station has no entry free.
RST, RSIG and RMSG go on; RLD, RWAIT and RTKT wait for the response, which writes the register and ends the wait. RSTAT
reads the status and may clear ERR. A device outside the torus is unreachable. A response that reports a failure writes 0
and sets RMT_STATUS; one without an entry is late and counted. Completes: sbRld, sbRst, sbRsig, sbRwait, sbRtkt, sbRmsg,
sbRstat, remoteResponse. -/
def Obligations.RemoteInstructions : Prop :=
  (∀ (s : State) (st h : Nat) (j : Job) (i : Nat), s.Ready → st < 16 →
    let b := s.view.sb st
    let imm := insImm i
    let a := b.reg (insA i)
    let v := b.reg (insB i)
    let one := if insB i = 0 then 1 else v
    let on := (b.pc + 1) % 4096
    let next := if (ffind s.dev.waits (waitKey (sbUnit st))).isSome then j.cyc else j.cyc + 1
    let size := if bit imm 0 then 8 else 4
    (∀ (c : Instr) (e : RemEntry) (arg : Nat) (data : Bytes) (len : Nat), s.Issues st h j i [insA i, insB i] →
      (c = .sbRst st ∧ insOp i = 0x31 ∧ e = { op := 1, size := size, addr := a } ∧ arg = 0 ∧ data = toLe size v ∧
        len = size) ∨
      (c = .sbRsig st ∧ insOp i = 0x32 ∧ e = { op := 4, size := 1, addr := a } ∧ arg = one % 2 ^ 32 ∧ data = [] ∧
        len = 1) →
      (s.view.remFree st e.op = true → s.view.inTorus (gaDevice a) = true → ∃ t, exec c s = .next t ∧ t.mem = s.mem ∧
        s.IssuedRemote t st h e arg data len ∧ t.view.sb st = { b with pc := on, next := next }) ∧
      (s.view.remFree st e.op = true → s.view.inTorus (gaDevice a) = false → gaDevice a ≠ s.view.deviceId →
        ∃ t k, exec c s = .next t ∧ t.view.sb st = { b with pc := on, next := next } ∧
          t.dev.pktNext = s.dev.pktNext + 1 ∧ ffind t.dev.pkts s.dev.pktNext = some k ∧ k.op = opAck ∧
          k.status = ocUnreach ∧ k.arrived = true ∧ k.tag = s.view.remTag ∧
          t.reg Reg.epTargetErr = statBump (s.reg Reg.epTargetErr) % 2 ^ 64) ∧
      (s.view.remFree st e.op = false → exec c s = .next { s with dev := { s.dev with
        waits := fput s.dev.waits (waitKey (sbUnit st)) { cause := 5 } } })) ∧
    (∀ (c : Instr) (e : RemEntry) (arg len : Nat),
      s.Issues st h j i (if insOp i = 0x30 then [insA i] else [insA i, insB i]) →
      (c = .sbRld st ∧ insOp i = 0x30 ∧ e = { op := 0, rd := insD i, size := size, addr := a } ∧ arg = 0 ∧ len = size) ∨
      (c = .sbRwait st ∧ insOp i = 0x33 ∧ e = { op := 5, addr := a } ∧ len = 1 ∧
        arg = one % 2 ^ 32 + bits imm 13 12 * 2 ^ 32 + bits imm 14 14 * 2 ^ 34) ∨
      (c = .sbRtkt st ∧ insOp i = 0x34 ∧ e = { op := 6, rd := insD i, addr := a } ∧ arg = one ∧ len = 1) →
      (s.view.remFree st e.op = true → s.view.inTorus (gaDevice a) = true → ∃ t, exec c s = .next t ∧ t.mem = s.mem ∧
        s.IssuedRemote t st h e arg [] len ∧
        t.view.sb st = { b with wait := .remote s.view.remTag, next := j.cyc + 1 }) ∧
      (s.view.remFree st e.op = false → exec c s = .next { s with dev := { s.dev with
        waits := fput s.dev.waits (waitKey (sbUnit st)) { cause := 5 } } })) ∧
    (∀ bs v x, insOp i = 0x35 → s.Issues st h j i [insA i] → let q := imm % 4096
      let op := if bit imm 12 then 3 else 2
      s.HeadHas st q bs v x → s.view.remFree st op = true → s.view.inTorus (gaDevice a) = true →
      ∃ t, exec (.sbRmsg st) s = .next t ∧ t.view.queue st q = x ∧
        s.IssuedRemote t st h { op := op, size := bs.length, addr := a } 0 bs bs.length ∧
        t.view.sb st = { b with pc := on, next := next }) ∧
    (insOp i = 0x36 → s.Issues st h j i [] → ∃ t, exec (.sbRstat st) s = .next t ∧
      s.SbStep t st on (j.cyc + 1)
        (some (insD i, s.view.rmtStatusValue st % 2 ^ 64, j.cyc + s.view.lat j Config.sbAlu))
        (if bit imm 0 then [(Reg.rmtStatus st, setBits (s.reg (Reg.rmtStatus st)) 0 0 0 % 2 ^ 64)] else []))) ∧
  ∀ (s : State) (id : Nat) (k : Packet), s.Ready → ffind s.dev.pkts id = some k → k.arrived = true →
    k.op = opResponse ∨ k.op = opAck → s.view.pktHead id k = true →
    (∀ key e j, s.view.remFor k = some (key, e) → e.unit = 0 → key / 65536 < 16 →
      (s.view.stn (key / 65536)).job = some e.job → s.view.job e.job = some j →
      (s.view.sb (key / 65536)).wait = .remote (key % 65536) →
      let st := key / 65536
      let b := s.view.sb st
      ∃ t, exec (.remoteResponse id) s = .next t ∧ ffind t.dev.pkts id = none ∧
        ffind t.dev.rem key = none ∧ (t.view.sb st).wait = .none ∧ (t.view.sb st).pc = (b.pc + 1) % 4096 ∧
        (∀ r, (t.view.sb st).reg r = if r = e.rd ∧ r ≠ 0 ∧ e.op ≠ opWait then remValue e k % 2 ^ 64 else b.reg r) ∧
        if k.status = 0 then t.mem = s.mem
        else bit (t.reg (Reg.rmtStatus st)) 0 = true ∧ bits (t.reg (Reg.rmtStatus st)) 3 1 = k.status % 8 ∧
          t.reg (Reg.rmtErrAddr st) = e.addr % 2 ^ 64) ∧
    (s.view.remFor k = none → ∃ t, exec (.remoteResponse id) s = .next t ∧ ffind t.dev.pkts id = none ∧
      (∀ n, n ≠ id → ffind t.dev.pkts n = ffind s.dev.pkts n) ∧
      s.RegsBecome t [(Reg.epLate, statBump (s.reg Reg.epLate) % 2 ^ 64)])

/-- R282: every remote operation is timed from its issue, a token wait under EP_TIMEOUT_WAIT and any other under
EP_TIMEOUT_ACC, which are 1,000 µs at reset; a write of a limit touches no operation that has been issued; the timer runs
through freezes, since it is compared with ARCLK cycles.
Completes: remoteTimeout. -/
def Obligations.RemoteTimers : Prop :=
  (State.reset.reg Reg.epTimeoutAcc = 1000 ∧ State.reset.reg Reg.epTimeoutWait = 1000) ∧
  (∀ (m : Mach) (st : Nat) (e : RemEntry) (arg : Nat) (data : Bytes) (len : Nat),
    let us := bits (m.raw (if e.op = 5 then Reg.epTimeoutWait else Reg.epTimeoutAcc)) 19 0
    ffind (m.remIssue st e arg data len).dev.rem (st * 65536 + m.remTag) = some { e with
      issued := m.now, limit := (if us = 0 then 1048576 else us) * 1900, order := m.dev.remNext }) ∧
  (∀ (s : State) (o : Nat) (v : W64), s.Ready → o = Reg.epTimeoutAcc ∨ o = Reg.epTimeoutWait → s.view.bar0Open o = true →
    ∃ t, exec (.registerWrite 0 o 4 v) s = .next t ∧ t.dev = s.dev ∧ s.RegsBecome t [(o, v.toNat % 2 ^ 20)]) ∧
  ∀ (s : State) (st tag : Nat) (e : RemEntry), s.Ready → st < 16 → tag < 65536 →
    ffind s.dev.rem (st * 65536 + tag) = some e →
    (s.view.now < e.issued + e.limit → exec (.remoteTimeout st tag) s = .next s) ∧
    (∀ j, e.issued + e.limit ≤ s.view.now → e.unit = 0 → (s.view.stn st).job = some e.job →
      s.view.job e.job = some j → j.phase = .running → j.fault = none →
      ∃ t, exec (.remoteTimeout st tag) s = .next t ∧ ffind t.dev.rem (st * 65536 + tag) = none ∧
        t.view.sb st = { s.view.sb st with running := false, wait := .none } ∧
        t.view.job e.job = some { j with
          fault := some (ctxId (some e.job) (sbUnit st), 8, e.addr), faultAt := s.view.now, status := 0x50 } ∧
        t.reg Reg.epTimeouts = statBump (s.reg Reg.epTimeouts) % 2 ^ 64)

/-- What a request that its target may take does there. A ticket fetch adds to the counter and answers the value before; a
signal adds to PROD; a wait that the counts satisfy moves its cursor and is answered, one that they do not, or that others of
the cycle stand before, is held. A load of a token, a counter or a register is answered with its value, a store to a counter
is made; an access to DDR space or the scratchpad goes to its channel or slab port as an unscheduled one. A message or a
contribution goes to its queue's station router where a consist runs there, and is refused otherwise. Completes:
remoteTicketFetch, remoteTokenSignal, remoteTokenWait, remoteLoad, remoteStore, remoteMessage, remoteCombine.
Completes: remoteLoad, remoteStore, remoteMessage, remoteCombine, remoteTokenSignal, remoteTokenWait,
remoteTicketFetch. -/
def Obligations.RemoteTargets : Prop :=
  ∀ (s : State) (id op : Nat) (k : Packet), s.Ready → s.view.request id op = some k →
    ffind s.dev.pkts id = some k ∧
    let off := gaOffset k.addr
    let sp := gaSpace k.addr
    let n := if op = opStore then k.data.length else k.len
    let small := n = 4 ∨ n = 8
    let taken := fun (t : State) (left : Nat) (data : Bytes) (passed : Bool) => ffind t.dev.pkts id = some { k with
      taken := true, left := left, data := data, flits := if passed && k.port.isSome then 0 else k.flits }
    (∀ c, sp = 3 → counterAt off = some c → s.view.ticketBefore c id = false →
      let v := s.reg (Reg.tkoValue c)
      (op = opTicket → ∃ t, exec (.remoteTicketFetch id) s = .next t ∧ s.AnsweredPacket t id k 0 v [] ∧
        s.RegsBecome t [(Reg.tkoValue c, (v + k.arg.toNat) % 2 ^ 64)]) ∧
      (op = opLoad → small → k.misaligned = false → ∃ t, exec (.remoteLoad id) s = .next t ∧ t.mem = s.mem ∧
        s.AnsweredPacket t id k 0 v []) ∧
      (op = opStore → small → k.misaligned = false → ∃ t, exec (.remoteStore id) s = .next t ∧
        s.AnsweredPacket t id k 0 0 [] ∧ t.reg (Reg.tkoValue c) =
          if n = 8 then leNat k.data 0 8 else leNat k.data 0 4 + v / 2 ^ 32 * 2 ^ 32)) ∧
    (∀ st c, sp = 2 → s.view.tokenAt off = some (st, c) → (s.view.token st c).state = .active →
      s.view.tokBefore st c op id = false →
      let x := s.view.token st c
      let unmet := fun (y : Token) => ∀ w ∈ y.waiters, tokSatisfied y.prod (nth 0 y.cons w.cursor) w.k = false
      let m := (s.view.takePacket id 1).passOn id
      let more := m.tokOpAt st c [0, 1] || m.remoteAt st c opSignal m.dev.pktNext || m.remoteAt st c opWait m.dev.pktNext
      (op = opSignal → let y := { x with prod := (x.prod + k.arg.toNat % 2 ^ 32) % 2 ^ 32 }
        unmet y → ∃ t, exec (.remoteTokenSignal id) s = .next t ∧ t.mem = s.mem ∧ s.AnsweredPacket t id k 0 0 [] ∧
          t.view.token st c = y) ∧
      (op = opWait → s.view.remoteWaits st < 32 → unmet x →
        let a := k.arg.toNat
        let cur := bits a 33 32
        ∃ t, exec (.remoteTokenWait id) s = .next t ∧ t.mem = s.mem ∧
          if more = false ∧ tokSatisfied x.prod (nth 0 x.cons cur) (a % 2 ^ 32) = true then
            s.AnsweredPacket t id k 0 0 [] ∧ t.view.token st c = { x with
              cons := if bit a 34 then x.cons
                else setNth x.cons cur ((nth 0 x.cons cur + a % 2 ^ 32) % 2 ^ 32) }
          else
            t.view.token st c = { x with waiters := x.waiters ++
              [{ pkt := some id, cursor := cur, k := a % 2 ^ 32, consume := !bit a 34 }] } ∧
            taken t 1 k.data true ∧ t.dev.pktNext = s.dev.pktNext) ∧
      (op = opLoad → small → k.misaligned = false → ∃ t, exec (.remoteLoad id) s = .next t ∧ t.mem = s.mem ∧
        s.AnsweredPacket t id k 0 x.prod [] ∧ t.view.token st c = x)) ∧
    (sp = 4 → op = opLoad → s.view.regDenied off 0 = true → ∃ t, exec (.remoteLoad id) s = .next t ∧
      s.AnsweredPacket t id k ocDenied 0 []) ∧
    (sp = 4 → op = opLoad → s.view.regDenied off 0 = false → s.view.regAt off = true → small → off % n = 0 →
      ∃ t v, exec (.remoteLoad id) s = .next t ∧ s.view.bar0Read off n = some v ∧ t.mem = s.mem ∧
        s.AnsweredPacket t id k 0 0 (toLe n v)) ∧
    (sp = 4 → op = opStore → s.view.regDenied off 1 = true → ∃ t, exec (.remoteStore id) s = .next t ∧
      s.AnsweredPacket t id k ocDenied 0 []) ∧
    (sp = 0 → k.misaligned = false → off % 128 + n ≤ 128 → 0 < n → s.view.ddrReachable off n = true →
      s.view.rangeLost off n = false →
      let c := chanOf off
      let held := s.view.rangeHeld off n
      let r : DdrReq := { user := .remote id, off := off, len := n, due := s.view.now, age := (s.view.ch c).ages }
      (op = opLoad → ∃ t, exec (.remoteLoad id) s = .next t ∧ t.mem = s.mem ∧ taken t 1 (zeros k.len) (!held) ∧
        (t.view.ch c).port = (s.view.ch c).port ++ [r]) ∧
      (op = opStore → ∃ t, exec (.remoteStore id) s = .next t ∧ t.mem = s.mem ∧ taken t 1 k.data (!held) ∧
        (t.view.ch c).port = (s.view.ch c).port ++ [{ r with write := true, data := k.data }])) ∧
    (sp = 1 → k.misaligned = false → off % 128 + n ≤ 128 → 0 < n → s.view.slabExists off n = true →
      let port := fun (s : State) => (s.view.portOf (spStn off) (spBay off)).reqs
      (op = opLoad → ∃ t q, exec (.remoteLoad id) s = .next t ∧ t.mem = s.mem ∧ taken t 1 (zeros k.len) true ∧
        port t = port s ++ [q] ∧ q.order = 4 ∧ q.write = false ∧ q.addr = spAddr off ∧ q.len = n) ∧
      (op = opStore → off % 4 = 0 → n % 4 = 0 → ∃ t q, exec (.remoteStore id) s = .next t ∧ t.mem = s.mem ∧
        taken t 1 k.data true ∧ port t = port s ++ [q] ∧ q.order = 4 ∧ q.write = true ∧ q.addr = spAddr off ∧
        q.words = lineWords [(off, k.data)])) ∧
    (∀ st q idx, k.addr % 2 ^ 46 = idx * 2 ^ 16 + st * 2 ^ 12 + q → q < 4096 → st < 16 → st < s.view.stations →
      idx < 64 → (op = opMessage ∧ idx = 0) ∨ op = opCombine → s.QueueIsPresent st q →
      let c : Instr := if op = opMessage then .remoteMessage id else .remoteCombine id
      let d := s.view.qdesc st q
      let qIn := if op = opMessage then q else d.srcQ + idx
      let runs := (s.view.stnJob st).any (fun x => x.2.started && x.2.phase == .running) = true
      let takes := if op = opMessage then d.kind = 1 ∨ d.kind = 2 else d.combines = true ∧ idx < d.senders
      (runs → takes → ∃ t, exec c s = .next t ∧ t.mem = s.mem ∧ taken t 1 k.data false ∧
        (t.view.queue st qIn).reqs = (s.view.queue st qIn).reqs ++ [{
          due := s.view.now, arc := true, key := 8, router := true, st := bits k.ctx 19 16, pkt := some id
          len := k.data.length, bytes := k.data }]) ∧
      (¬ runs ∨ ¬ takes → ∃ t, exec c s = .next t ∧ s.AnsweredPacket t id k ocRefused 0 [] ∧
        t.dev.queues = s.dev.queues ∧ t.reg (Reg.qRefused st) = statBump (s.reg (Reg.qRefused st)) % 2 ^ 64))

/-! ### Jobs, the timetable and installation -/

/-- SET_TIMETABLE leaves an image that passes the checks pending, in force from the next whole microsecond where none is in
force or pending; a refused one is recorded in TT_ERR, whose value is the DETAIL, and changes nothing else. A header that is
wrong fails check 1.
Completes: setTimetable.
SLOT_BOUNDARY: at the cycle that it is due, the next entry is in force, after the last one entry 0, of the pending table
where there is one; the table's power is admitted, the length of the slot that ended is added to the time, and no line of a
remote line store is valid.
Completes: slotBoundary.
RUN_END: a real-time job that has not started when its run ends completes with DEADLINE_MISS.
Completes: runEnd. -/
def Obligations.Timetable : Prop :=
  (∀ (s : State) (r : Nat) (b : Bytes) (c : Cmd), s.Ready → r < 16 → s.Serves r 0x30 c →
     let image := b.take (c.p 1)
     (∃ t, exec (.setTimetable r none) s = .next t ∧ s.Replied t r c [] scBadParam 16 0 ∧ s.RepliesAlone t r []) ∧
     (∀ e, s.view.checkTable image (c.p 1) = .error e → ∃ t, exec (.setTimetable r (some b)) s = .next t ∧
       s.Replied t r c [] (e % 2 ^ 16) e 0 ∧ s.RepliesAlone t r [Reg.ttErr] ∧ t.reg Reg.ttErr = e % 2 ^ 64) ∧
     (let n := leNat image 0 4
      n = 0 ∨ 4096 < n ∨ leNat image 4 4 ≠ 0 ∨ c.p 1 ≠ 136 + 32 * n →
       ∃ t, exec (.setTimetable r (some b)) s = .next t ∧ s.RepliesAlone t r [Reg.ttErr] ∧
         t.reg Reg.ttErr = 2 ^ 63 + 2 ^ 43 + 2 ^ 40 + scBadParam) ∧
     ∀ x, s.view.checkTable image (c.p 1) = .ok x → s.dev.jobs = [] →
       ∃ t, exec (.setTimetable r (some b)) s = .next t ∧ s.Replied t r c [] scOk 0 0 ∧
         s.KeepsBut t [Reg.ringStatus r] ∧
         t.dev.tt = { s.dev.tt with
           pending := some x
           next := if s.dev.tt.inForce.isSome ∨ s.dev.tt.pending.isSome then s.dev.tt.next
             else (s.view.now / 1900 + 1) * 1900 }) ∧
  (∀ s : State, s.Ready →
     let tt := s.dev.tt
     ((tt.inForce = none ∧ tt.pending = none) ∨ s.view.now < tt.next → exec .slotBoundary s = .next s) ∧
     (∀ x, tt.inForce = none → tt.pending = some x → tt.next ≤ s.view.now → s.dev.jobs = [] →
       ∃ t, exec .slotBoundary s = .next t ∧
         t.dev.tt = { tt with
           inForce := some x, pending := none, entry := 0, next := tt.next + 1900 * (nth {} x.entries 0).len
           runs := t.dev.tt.runs } ∧
         t.reg Reg.pwrAdmit = x.power % 2 ^ 64 ∧ t.reg Reg.ttTime = s.reg Reg.ttTime) ∧
     (∀ x, tt.inForce = some x → tt.next ≤ s.view.now → s.dev.jobs = [] → tt.entry < x.entries.length →
       let last := tt.entry + 1 = x.entries.length
       let y := if last then tt.pending.getD x else x
       let e := if last then 0 else tt.entry + 1
       ∃ t, exec .slotBoundary s = .next t ∧
         t.dev.tt = { tt with
           inForce := some y, pending := if last then none else tt.pending
           entry := e, next := tt.next + 1900 * (nth {} y.entries e).len
           runs := t.dev.tt.runs } ∧
         t.reg Reg.pwrAdmit = y.power % 2 ^ 64 ∧
         t.reg Reg.ttTime = (s.reg Reg.ttTime + (nth {} x.entries tt.entry).len) % 2 ^ 64 ∧
         ∀ k, k / 256 < 16 → ffind t.dev.rls k = none)) ∧
  (∀ (s : State) (h : Nat) (j : Job), s.Ready → h < 4096 → s.dev.jobs = [(h, j)] →
     (j.rtWaits = true → j.runBegin.isSome = true → (∃ e, j.runEnd = some e ∧ e ≤ s.view.now) →
       ∃ t j', exec (.runEnd h) s = .next t ∧ t.view.job h = some j' ∧ j'.status = scMiss ∧ j'.install = none ∧
         j'.started = j.started ∧ j'.phase = if j.window.isSome || s.view.busMaster then .ended else .finishing) ∧
     (j.rtWaits = false ∨ j.runBegin = none ∨ (∀ e, j.runEnd = some e → s.view.now < e) →
       exec (.runEnd h) s = .next s))

/-- An installation starts on stations whose standby planes are free, which it puts back to Reset; a frame is written every
16 cycles to every plane it is meant for, one whose CRC fails is a CONFIG_UPSET and starts no job; once the last is written
the standby planes are armed for every bay and vector unit. The command waits where a station has no free standby plane or
does not run.
Completes: installationStart, installFrameWrite. -/
def Obligations.Installation : Prop :=
  (∀ (s : State) (h : Nat) (j : Job) (c : Consist), s.Ready → h < 4096 → s.view.job h = some j →
    s.view.consist j.consist = some c → j.phase = .queued →
    let free := fun st => (s.view.stn st).standby = none ∧ (s.view.stn st).prev = none ∧
      (s.view.stn st).job ≠ some h ∧ (s.view.stn st).testDue = none ∧ (s.view.stn st).drainDue = none
    ((∃ st ∈ s.view.jobStations j, ¬ free st) → exec (.installationStart h) s = .next s) ∧
    ((∀ st ∈ s.view.jobStations j, free st) → s.view.goldenIsBad j.consist = false →
      ∃ t y, exec (.installationStart h) s = .next t ∧
        t.view.job h = some { j with phase := .installing, install := some y } ∧ y.next = s.view.now + 16 ∧
        y.armed = false ∧
        (∀ i, i ∈ y.frames ↔ i < c.frames.length ∧ (nth {} c.frames i).kind ≤ 2 ∧
          (nth {} c.frames i).on s.dev.chip.grade = true) ∧
        (∀ i, i ∈ y.slab ↔ i < c.frames.length ∧ (nth {} c.frames i).kind = 3 ∧
          (nth {} c.frames i).on s.dev.chip.grade = true) ∧
        t.view.consist j.consist = some { c with regInv := 0 } ∧
        (∀ st ∈ s.view.jobStations j, t.view.stn st = { s.view.stn st with
          standby := some h, armed := false, bayWait := 0, vuWait := 0 }) ∧
        (c.bankHash = false → ∀ st ∈ s.view.jobStations j, ∀ kind idx, kind < 3 → idx < 2 ^ 32 →
          let k := planeKey st (!(s.view.stn st).plane) kind idx
          t.planeAt k = (planeReset k).toNat) ∧
        t.mem.slab = s.mem.slab ∧ t.mem.ddr = s.mem.ddr ∧ t.mem.regs = s.mem.regs)) ∧
  ∀ (s : State) (h : Nat) (j : Job) (y : Install), s.Ready → h < 4096 → s.view.job h = some j → j.install = some y →
    let c := s.view.consistOf j
    (s.view.stationsRun j = false → exec (.installFrameWrite h) s = .next s) ∧
    (s.view.stationsRun j = true → (s.view.dueToStart j = false ∨ c.regInv = 0) →
      (y.frames = [] → y.armed = false → ∃ t, exec (.installFrameWrite h) s = .next t ∧ t.mem = s.mem ∧
        t.view.job h = some { j with install := some { y with armed := true } } ∧
        ∀ st ∈ s.view.jobStations j, t.view.stn st = { s.view.stn st with
          armed := true, bayWait := 2 ^ 256 - 1, vuWait := 2 ^ 32 - 1 }) ∧
      (y.frames ≠ [] → s.view.now < y.next → exec (.installFrameWrite h) s = .next s) ∧
      ∀ i i' l, y.frames = i :: i' :: l → y.next ≤ s.view.now →
        let f := nth {} c.frames i
        (f.bad = false → ∃ t, exec (.installFrameWrite h) s = .next t ∧
          t.view.job h = some { j with install := some { y with frames := i' :: l, next := s.view.now + 16 } } ∧
          t.dev = { s.dev with jobs := t.dev.jobs } ∧ t.mem.slab = s.mem.slab ∧ t.mem.ddr = s.mem.ddr ∧
          t.mem.regs = s.mem.regs ∧
          ∀ st w, s.view.frameStations f = [st] → f.words st = [w] → w.mask ≠ 0 → w.value < 2 ^ 64 →
            let k := planeKey st (s.view.jobPlane st h) w.kind w.idx
            t.planeAt k = (s.planeAt k - (s.planeAt k &&& w.mask) + w.value) % 2 ^ 64 ∧
              ∀ k', k' ≠ k → t.planeAt k' = s.planeAt k') ∧
        (f.bad = true → j.consist < 64 → s.dev.jobs = [(h, j)] → j.phase = .installing → j.window = none → s.view.busMaster = false →
          ∃ t j', exec (.installFrameWrite h) s = .next t ∧ t.view.job h = some j' ∧ j'.phase = .finishing ∧
            j'.status = scFault ∧ j'.started = j.started ∧ bit (t.reg Reg.goldenBad) j.consist = true))

/-- An armed plane is taken up by each bay and vector unit once it is idle, by the signal box once its program has ended;
where no job runs on a station the whole station takes it up.
Completes: bayPlaneSwitch, vuPlaneSwitch, sbPlaneTakeup. -/
def Obligations.PlanesAreTakenUp : Prop :=
  (∀ (s : State) (st u h : Nat), s.Ready → st < 16 → (s.view.stn st).standby = some h →
    let x := s.view.stn st
    let target := s.view.jobPlane st h
    (x.armed = false → (u < 256 → exec (.bayPlaneSwitch st u) s = .next s) ∧
      (u < 32 → exec (.vuPlaneSwitch st u) s = .next s) ∧ exec (.sbPlaneTakeup st) s = .next s) ∧
    (x.armed = true → s.view.planesWritten h = true → x.prev = none → x.job ≠ some h →
      (u < 256 → bit x.bayWait u = true → s.view.bayInvalid h st u = false →
        (s.view.muOf st u).run = none → (s.view.muOf st u).pipe = [] → (s.view.muOf st u).drains = [] →
        s.view.senderBusy st u (muUnit st u) = false → (∀ e ∈ (s.view.muOf st u).slots, e.2.state = .free) →
        (s.view.oldBox st h).quiet 0 u = true →
        ∃ t, exec (.bayPlaneSwitch st u) s = .next t ∧
          t.view.stn st = { x with bayWait := x.bayWait - (x.bayWait &&& 2 ^ u), bayPlane := fput x.bayPlane u target } ∧
          t.view.bayPlane st u = target ∧ ∀ b, b ≠ u → t.view.bayPlane st b = s.view.bayPlane st b) ∧
      (u < 32 → bit x.vuWait u = true → (s.view.vuOf st u).run = none → (s.view.vuOf st u).writes = [] →
        (∀ e ∈ (s.view.vuOf st u).comps, e.2 = []) → (s.view.oldBox st h).quiet 1 u = true →
        ∃ t, exec (.vuPlaneSwitch st u) s = .next t ∧ t.mem = s.mem ∧
          t.view.stn st = { x with vuWait := x.vuWait - (x.vuWait &&& 2 ^ u), vuPlane := fput x.vuPlane u target } ∧
          t.view.vuPlane st u = target ∧ (∀ n, n ≠ st → t.view.stn n = s.view.stn n) ∧
          t.dev = { s.dev with stn := t.dev.stn }) ∧
      (∀ k j, x.job = some k → s.view.job k = some j → j.started = true → j.phase = .running →
        x.bayWait ≠ 0 ∨ x.vuWait ≠ 0 →
        (bit j.progEnd st = false → exec (.sbPlaneTakeup st) s = .next s) ∧
        (bit j.progEnd st = true → ∃ t, exec (.sbPlaneTakeup st) s = .next t ∧ t.mem = s.mem ∧
          t.view.stn st = { x with
            job := some h, plane := !x.plane, sb := {}, late := [], milesRun := 0, ptSeen := false
            prev := some { job := k, plane := x.plane, sb := x.sb, late := x.late, milesRun := x.milesRun
                           ptSeen := x.ptSeen, work := x.work, moved := x.moved } } ∧
          t.dev = { s.dev with stn := t.dev.stn })) ∧
      (x.job = none → (∀ b, b < 256 → s.view.bayInvalid h st b = false) →
        bit (s.reg (Reg.stFaultStatus st)) 0 = false → x.testDue = none → x.drainDue = none →
        ∃ t, exec (.sbPlaneTakeup st) s = .next t ∧ t.mem = s.mem ∧ (t.view.stn st).job = some h ∧
          (t.view.stn st).plane = (!x.plane) ∧ (t.view.stn st).standby = none ∧ (t.view.stn st).armed = false ∧
          (∀ b, b < 256 → t.view.bayPlane st b = (!x.plane)) ∧ (∀ v, v < 32 → t.view.vuPlane st v = (!x.plane)) ∧
          (t.view.sb st) = {} ∧ ∀ n, n ≠ st → t.view.stn n = s.view.stn n))) ∧
  ∀ (s : State) (st u : Nat), s.Ready → st < 16 → (s.view.stn st).standby = none →
    (u < 256 → exec (.bayPlaneSwitch st u) s = .next s) ∧ (u < 32 → exec (.vuPlaneSwitch st u) s = .next s) ∧
      exec (.sbPlaneTakeup st) s = .next s

/-- CONSIST_TIME_ZERO: in a cycle divisible by 64 an installed real-time job whose run has begun starts on its stations, its
consist time 0, its signal boxes at instruction 0 with the arguments in s1 to s8. In any other cycle it does not.
Completes: consistTimeZero. -/
def Obligations.ConsistTimeZero : Prop :=
  ∀ (s : State) (h : Nat) (j : Job) (y : Install) (b e : Nat), s.Ready → h < 4096 → s.dev.jobs = [(h, j)] →
    j.install = some y → y.frames = [] → y.slab = [] → y.armed = true → j.phase = .installing → j.rt = true →
    j.runBegin = some b → j.runEnd = some e → b ≤ s.view.now → s.view.now < e →
    let c := s.view.consistOf j
    c.regInv = 0 → s.view.stationsRun j = true →
    (∀ st ∈ s.view.jobStations j, (s.view.stn st).job = some h ∧ (s.view.stn st).prev = none ∧
      s.view.freeFor st h = true) →
    (∀ k, k < 16 → bit c.ttMask k = true → (s.view.ch k).retrain = none) → s.view.goldenIsBad j.consist = false →
    (s.view.now % 64 = 0 → (∀ n ∈ c.late, n = 0) →
      ∃ t, exec (.consistTimeZero h) s = .next t ∧
        t.view.job h = some { j with
          started := true, phase := .running, cyc := 0, install := none, flags := 0
          late := j.late || decide (roundUp b 64 < s.view.now) } ∧
        (∀ st ∈ s.view.jobStations j,
          t.view.sb st = { regs := j.args.zipIdx.map fun a => (a.2 + 1, a.1), running := true }) ∧
        (∀ d, c.tokens = [d] → let x := t.view.token d.st d.slot
          x.state = .active ∧ x.owner = h ∧ x.prod = d.init ∧ x.cons = [0, 0, 0, 0]) ∧
        ∀ k, k < 16 → bit c.ttMask k = true →
          (t.view.ch k).service = svTimetabled ∧ (t.view.ch k).job = some h) ∧
    (s.view.now % 64 ≠ 0 → exec (.consistTimeZero h) s = .next s)

/-- A job ends: its fault or cancellation stops its units in the next cycle; JOB_END, once nothing of it is at work, gives
it its status; the completion record is written once every write of the job has taken effect, to host memory in three
writes of which the one with the phase is the last, or to its result window; its vector follows.
Completes: jobFaultStop, jobEnd, completionRecord. -/
def Obligations.JobsEnd : Prop :=
  (∀ (s : State) (h : Nat) (j : Job), s.Ready → h < 4096 → s.view.job h = some j →
    (j.phase ≠ .running ∨ (j.fault = none ∧ j.cancel = false) ∨ s.view.now ≤ j.faultAt →
      exec (.jobFaultStop h) s = .next s) ∧
    (j.phase = .running → j.fault.isSome = true ∨ j.cancel = true → j.faultAt < s.view.now →
      ∃ t, exec (.jobFaultStop h) s = .next t ∧
        t.view.job h = some { j with
          phase := .stopping, endCyc := j.cyc, frozen := false, freezeAt := none, stalls := [], spills := []
          frozenCyc := j.frozenCyc + (if j.frozen then s.view.now - j.frozenAt else 0)
          request := none } ∧
        ∀ st ∈ s.view.heldStations j, (s.view.stn st).job = some h → (t.view.sb st).running = false) ∧
    (s.view.canEnd h j = false → exec (.jobEnd h) s = .next s) ∧
    (s.view.canEnd h j = true → s.OnlyJob h j → j.phase = .stopping ∨ s.dev.queues = [] →
      ∃ t j', exec (.jobEnd h) s = .next t ∧ t.view.job h = some j' ∧ j'.phase = .finishing ∧
        j'.status = (if j.fault.isSome then j.status
          else if j.cancel ∨ j.lost ≠ 0 then 0x50
          else if (if j.rt then j.runEnd.any fun e => decide (e < s.view.now)
            else decide (j.deadline < s.view.now)) then 0x40
          else 0) ∧
        j'.cyc = j.cyc ∧ j'.endCyc = j.endCyc ∧ j'.request = none) ∧
    (j.phase ≠ .finishing ∨ s.view.jobWrites h = true → exec (.completionRecord h) s = .next s) ∧
    (j.phase = .finishing → s.view.jobWrites h = false → 0x300 ≤ s.view.version → j.status ≠ scMiss →
      let wb := waybill (s.view.consistOf j) j j.status
      (j.window = none → s.view.busMaster = true → j.countersign = false → j.vector = none →
        ∃ t, exec (.completionRecord h) s = .next t ∧ t.mem = s.mem ∧
          t.dev = { s.dev with
            jobs := fput s.dev.jobs h { j with phase := .ended }
            out := .hostWrite (j.result + 120) (toLe 8 (pack [(0, 12, h), (16, 16, j.status), (32, 1, 0), (33, 1, 0),
                (63, 1, b2n j.recPhase)])) :: .hostWrite (j.result + 112) (toLe 8 j.seq) ::
              .hostWrite j.result wb :: s.dev.out }) ∧
      (∀ k, j.window = some k → j.vector = none →
        ∃ t, exec (.completionRecord h) s = .next t ∧ t.mem = s.mem ∧ t.dev.out = s.dev.out ∧
          t.view.job h = some { j with phase := .ended } ∧
          t.view.window k = { s.view.window k with
            status := j.status
            record := wb ++ toLe 8 j.seq ++
              toLe 8 (pack [(0, 12, h), (16, 16, j.status), (32, 1, 0), (33, 1, 0), (63, 1, 1)]) }))) ∧
  ∀ (s : State) (h : Nat), s.Ready → h < 4096 → s.view.job h = none →
    exec (.jobFaultStop h) s = .next s ∧ exec (.jobEnd h) s = .next s ∧ exec (.completionRecord h) s = .next s

/-- QUIESCENCE: once every station of a job waits at the stopping point that was asked for and nothing of the job moves, it
is being stabled. STABLING_DONE saves its state with its consist, frees its stations, and the job is stabled. RESTORE_DONE:
the job goes on from the stopping point at its saved consist time, in a cycle congruent to it modulo 64.
Completes: quiescence, stablingDone, restoreDone. -/
def Obligations.Stabling : Prop :=
  (∀ (s : State) (h : Nat) (j : Job), s.Ready → h < 4096 → s.view.job h = some j →
    (s.view.atStop j = none ∨ j.phase ≠ .running ∨ j.fault.isSome = true ∨ j.cancel = true ∨ j.frozen = true →
      exec (.quiescence h) s = .next s) ∧
    (∀ k, s.view.atStop j = some k → j.phase = .running → j.fault = none → j.cancel = false → j.frozen = false →
      (∀ st ∈ s.view.jobStations j, (s.view.stn st).prev = none ∧ s.view.unitsIdle st h = true ∧
        s.view.moving st = false ∧ (∀ e ∈ s.view.myOutboxes st, e.2 = []) ∧
        ∀ q ∈ s.view.myQueues st, (s.view.queue st q).reqs = []) →
      s.view.tokMoving h = false → s.view.storesWait h = false → (∀ e ∈ s.dev.rem, e.2.job ≠ h) →
      ∃ t, exec (.quiescence h) s = .next t ∧ t.mem = s.mem ∧
        t.view.job h = some { j with
          phase := .stabling, due := s.view.now + (s.view.consistOf j).stableTime k } ∧
        t.dev = { s.dev with jobs := t.dev.jobs }) ∧
    (j.phase ≠ .stabling → exec (.stablingDone h) s = .next s) ∧
    (j.phase ≠ .restoring → exec (.restoreDone h) s = .next s)) ∧
  (∀ (s : State) (h : Nat) (j : Job) (c : Consist), s.Ready → h < 4096 → s.OnlyJob h j → j.phase = .stabling →
    s.view.consist j.consist = some c → j.rt = false → (∀ d ∈ c.counters, d.phys < 64) →
    let k := j.request.getD 0
    (s.view.saveBad j k = none → j.cancel = false → ∃ t, exec (.stablingDone h) s = .next t ∧
      t.view.consist j.consist = some { c with saved := some (s.view.saveJob j k) } ∧
      t.view.job h = some { j with
        phase := .stabled, request := none, limit := none, filled := false, endCyc := j.cyc } ∧
      (∀ st ∈ s.view.heldStations j, (s.view.stn st).job = some h → (s.view.stn st).prev = none →
        (t.view.stn st).job = none ∧ (t.view.sb st).running = false) ∧
      t.reg Reg.ttStablings = statBump (s.reg Reg.ttStablings) % 2 ^ 64) ∧
    (∀ u a, s.view.saveBad j k = some (u, a) → j.fault = none → ∃ t j', exec (.stablingDone h) s = .next t ∧
      t.view.job h = some j' ∧ j'.phase = .finishing ∧ j'.status = 0x50 ∧
      j'.fault = some (ctxId (some h) u, 1, a) ∧ t.view.consist j.consist = some c)) ∧
  ∀ (s : State) (h : Nat) (j : Job) (c : Consist) (x : Saved) (y : Install), s.Ready → h < 4096 → s.OnlyJob h j →
    j.phase = .restoring → j.rt = false → j.limit = none → s.view.consist j.consist = some c → c.saved = some x →
    j.install = some y → y.frames = [] → y.slab = [] → y.armed = true → c.regInv = 0 → s.view.stationsRun j = true →
    (∀ st ∈ s.view.jobStations j, (s.view.stn st).job = some h ∧ (s.view.stn st).prev = none ∧
      (s.view.stn st).standby = none ∧ (s.view.stn st).drainDue = none ∧
      bit (s.reg (Reg.stFaultStatus st)) 0 = false) →
    s.view.goldenIsBad j.consist = false → s.view.areaBad c = none →
    (∀ d ∈ c.counters, d.phys < 64) →
    (s.view.now % 64 = x.cyc % 64 → ∃ t, exec (.restoreDone h) s = .next t ∧
      t.view.consist j.consist = some { c with saved := none } ∧
      t.view.job h = some { j with
        phase := .running, install := none, cyc := x.cyc, request := none, passed := x.k, passedAt := x.cyc
        passing := fdel j.passing x.k, frozen := false, freezeAt := none, stalls := [], limit := none, quorum := 0
        flags := j.flags ||| 2 ^ fgRestored
        faultAt := if j.cancel then s.view.now else j.faultAt } ∧
      (∀ st b, x.boxes = [(st, b)] → (t.view.sb st).pc = (b.pc + 1) % 4096 ∧ (t.view.sb st).wait = .none ∧
        (t.view.sb st).next = x.cyc ∧ ∀ n, (t.view.sb st).reg n = b.reg n) ∧
      t.reg Reg.ttRestores = statBump (s.reg Reg.ttRestores) % 2 ^ 64) ∧
    (s.view.now % 64 ≠ x.cyc % 64 → exec (.restoreDone h) s = .next s)

/-! ### Power, configuration scrub and events -/

/-- STATION_WAKE: a station that needs a higher state begins to enter the next one where the power limit admits it and no
lower station waits, 19 µs from PARKED and 1 µs from WARM, and shows ADMIT_WAIT otherwise. POWER_TRANSITION_DONE: in the
cycle that the transition ends it has the state, and one that leaves PARKED holds no valid line in its remote line store.
Completes: stationWake, powerTransitionDone.
ST_REPAIR names a station's unused bay row: the logical rows below it keep their number and the others lie one row
further on, so that no logical row lies on it and no two lie on one; a row's bays, with their slabs, and its two vector
units follow it (R19). -/
def Obligations.StationPower : Prop :=
  (∀ (s : State) (st : Nat), s.Ready → st < 16 →
     let x := s.view.stn st
     let o := Reg.stPwrStatus st
     let at_ := s.view.pwr st
     (x.pwrDue = none → at_ ≠ 0 → at_ < s.view.pwrGoal st →
       let admitted := s.view.pwrAdmitted (some st) ≤ bits (s.reg Reg.pwrCap) 11 0
       let first := ∀ k, k < st → (s.view.stn k).pwrWait = false
       (admitted → first → ∃ t, exec (.stationWake st) s = .next t ∧ s.KeepsBut t [o] ∧ t.view.pwr st = at_ ∧
         t.view.pwrTarget st = at_ + 1 ∧ bit (t.reg o) 4 = false ∧
         t.view.stn st = { x with
           pwrDue := some (s.view.now + 1900 * (if at_ = 1 then 19 else 1)), pwrWait := false } ∧
         t.dev = { s.dev with stn := t.dev.stn }) ∧
       (¬(admitted ∧ first) → ∃ t, exec (.stationWake st) s = .next t ∧ s.KeepsBut t [o] ∧ bit (t.reg o) 4 = true ∧
         t.view.pwr st = at_ ∧ t.view.pwrTarget st = s.view.pwrTarget st ∧
         t.view.stn st = { x with pwrWait := true } ∧ t.dev = { s.dev with stn := t.dev.stn })) ∧
     (x.pwrDue.isSome = true ∨ s.view.pwrGoal st ≤ at_ → x.pwrWait = false → exec (.stationWake st) s = .next s) ∧
     (∀ due, x.pwrDue = some due →
       (s.view.now < due → exec (.powerTransitionDone st) s = .next s) ∧
       (due ≤ s.view.now → s.view.pwrBusy st = true →
         (s.view.pwrTarget st = 3 → at_ ≠ 1 → ∃ t, exec (.powerTransitionDone st) s = .next t ∧ s.KeepsBut t [o] ∧
           t.view.pwr st = 3 ∧ t.view.pwrTarget st = 3 ∧ t.view.stn st = { x with pwrDue := none } ∧
           t.dev = { s.dev with stn := t.dev.stn }) ∧
         (s.view.pwrTarget st = 2 → at_ = 1 → ∃ t, exec (.powerTransitionDone st) s = .next t ∧ s.KeepsBut t [o] ∧
           t.view.pwr st = 2 ∧ t.view.pwrTarget st = 3 ∧
           (t.view.stn st).pwrDue = some (s.view.now + 1900) ∧ (∀ k, k / 256 = st → ffind t.dev.rls k = none) ∧
           t.dev = { s.dev with stn := t.dev.stn, rls := t.dev.rls, fills := t.dev.fills }))) ∧
     (x.pwrDue = none → exec (.powerTransitionDone st) s = .next s)) ∧
  (∀ (s : State) (n : Nat), nth 16 s.dev.chip.spareRow n < 32 →
     let spare := bits (s.view.stRepairValue n) 4 0
     (∀ r, s.view.physRow n r = if r < spare then r else r + 1) ∧
       (∀ r, s.view.physRow n r ≠ spare ∧ ∀ r', s.view.physRow n r = s.view.physRow n r' → r = r') ∧
       (∀ b, s.view.physBay n b / 16 = s.view.physRow n (b / 16) ∧ s.view.physBay n b % 16 = b % 16) ∧
       ∀ v, s.view.physVu n v / 2 = s.view.physRow n (v / 2) ∧ s.view.physVu n v % 2 = v % 2)

/-- GANGER_FRAME_CHECK: three copies that all differ stop the ganger, with GANGER_FAULT named after the triplet; one copy
that differs is rewritten and counted; a frame whose golden copy is sound moves the cursor on to the next; a plane that does
not hold what its frame gives is written again and counted. Nothing happens while the ganger does not run or before its
next check is due.
Completes: gangerFrameCheck. -/
def Obligations.GangerChecks : Prop :=
  ∀ s : State, s.Ready →
    let g := s.dev.gang
    (bit (s.reg Reg.gangStatus) 0 = false ∨ s.view.now < g.next → exec .gangerFrameCheck s = .next s) ∧
    (bit (s.reg Reg.gangStatus) 0 = true → g.next ≤ s.view.now →
      (allDiffer g.enable = true → ∃ t, exec .gangerFrameCheck s = .next t ∧ bit (t.reg Reg.gangStatus) 0 = false ∧
        bit (t.reg Reg.gangStatus) 1 = true ∧ bits (t.reg Reg.gangStatus) 4 3 = 0 ∧ t.dev.gang = g ∧
        (∀ a, t.slabAt a = s.slabAt a) ∧ ∀ k, t.planeAt k = s.planeAt k) ∧
      (∀ e i c n : Nat, g.interval = [i, i, i] → g.cursor = [c, c, c] → g.total = [n, n, n] →
        (∀ z, z ≠ e → g.enable = [e, z, e] → s.dev.consists = [] → ∃ t, exec .gangerFrameCheck s = .next t ∧
          t.dev.gang = { g with
            enable := [e, e, e], next := s.view.now + (if i % 65536 = 0 then 65536 else i % 65536) } ∧
          s.RegsBecome t [(Reg.gangVotes, statBump (s.reg Reg.gangVotes) % 2 ^ 64)]) ∧
        (g.enable = [e, e, e] → ∀ x y left k f, s.view.gangFrames = x :: y :: left → c = x →
          (∀ z ∈ y :: left, gangOrder x < gangOrder z) → g.expect = g.counted + 1 + (y :: left).length →
          s.view.consist (x / 2 ^ 33) = some k → k.frames[x % 2 ^ 32]? = some f → f.bad = false →
          (x / 2 ^ 32 % 2 = 1 → ∃ t, exec .gangerFrameCheck s = .next t ∧ t.mem = s.mem ∧
            t.dev = { s.dev with gang := { g with
              cursor := [y, y, y], counted := g.counted + 1
              next := s.view.now + (if i % 65536 = 0 then 65536 else i % 65536) } }) ∧
          (x / 2 ^ 32 % 2 = 0 → ∀ st p, s.view.frameStations f = [st] →
            s.view.planesOf st (x / 2 ^ 33) (x % 2 ^ 32) f.region = [p] → s.view.holds f st p.1 = false →
            s.view.goldenIsBad (x / 2 ^ 33) = false →
            ∃ t, exec .gangerFrameCheck s = .next t ∧
              t.reg Reg.gangRepairs = statBump (s.reg Reg.gangRepairs) % 2 ^ 64 ∧ t.dev.gang.cursor = [y, y, y] ∧
              ∀ w, f.words st = [w] → w.mask ≠ 0 → w.value < 2 ^ 64 →
                let key := planeKey st p.1 w.kind w.idx
                t.planeAt key = (s.planeAt key - (s.planeAt key &&& w.mask) + w.value) % 2 ^ 64))))

/-- EVENT_TAKEN: the arbiter takes an event and advances EVSEQ; its record is written at the write pointer, which goes on,
and the vector follows; a full ring drops it, counts it and marks the next record; a ring that is off takes it without a
record; without Bus Master Enable it waits.
Completes: eventTaken. -/
def Obligations.EventTaken : Prop :=
  ∀ s : State, s.Ready →
    let host := s.dev.host
    let ctl := s.reg Reg.evqCtrl
    let size := 2 ^ bits ctl 4 1
    let write := bits (s.reg Reg.evqStatus) 11 0
    let head := bits (s.reg Reg.evqHead) 11 0
    let live := bit ctl 0 = true ∧ bit (s.reg Reg.evqStatus) 14 = false
    (host.events = [] → exec .eventTaken s = .next s) ∧
    (live → s.view.busMaster = false → exec .eventTaken s = .next s) ∧
    ∀ e, host.events = [e] →
      (¬live → exec .eventTaken s = .next { s with dev := { s.dev with host := { host with
        events := [], evSeq := host.evSeq + 1 } } }) ∧
      (live → s.view.busMaster = true → (write + size - head) % size = size - 1 →
        ∃ t, exec .eventTaken s = .next t ∧ s.KeepsBut t [Reg.evqStatus, Reg.evLost] ∧
          bit (t.reg Reg.evqStatus) 12 = true ∧ t.reg Reg.evLost = statBump (s.reg Reg.evLost) % 2 ^ 64 ∧
          t.dev = { s.dev with host := { host with events := [], evSeq := host.evSeq + 1, evLost := true } }) ∧
      (live → s.view.busMaster = true → (write + size - head) % size ≠ size - 1 → ∃ t vec,
        exec .eventTaken s = .next t ∧ s.KeepsBut t [Reg.evqStatus] ∧
          bits (t.reg Reg.evqStatus) 11 0 = (write + 1) % size % 4096 ∧
          (size ≤ 4096 → bit (t.reg Reg.evqStatus) 12 = (((write + 1) % size + size - head) % size == size - 1)) ∧
          t.dev.host.evSeq = host.evSeq + 1 ∧ t.dev.host.events = [] ∧ t.dev.host.evLost = false ∧
          t.dev.host.evPhase = (if write + 1 = size then !host.evPhase else host.evPhase) ∧
          (∀ o ∈ vec, o = Output.msix (bits ctl 10 5)) ∧
          t.dev.out = vec ++ .hostWrite (s.reg Reg.evqBase + 32 * write)
            (eventRecord e s.view.now (host.evSeq + 1) host.evLost host.evPhase) :: s.dev.out)

/-- R362: the arbiter takes the event that reached it first, and of those that reached it in the same cycle the one of the
least ADDR, then the least BIT; EVSEQ counts the events in the order in which they are taken. -/
def Obligations.EventOrder : Prop :=
  ∀ s : State, s.Ready → s.view.busMaster = true → s.dev.host.events ≠ [] →
    (∀ e ∈ s.dev.host.events, e.addr < 2 ^ 26 ∧ e.bit < 32) →
    ∃ t e, exec .eventTaken s = .next t ∧ e ∈ s.dev.host.events ∧
      (∀ f ∈ s.dev.host.events, e.due < f.due ∨ (e.due = f.due ∧ (e.addr < f.addr ∨
        (e.addr = f.addr ∧ e.bit ≤ f.bit)))) ∧
      t.dev.host.events = removeFirst (· == e) s.dev.host.events ∧ t.dev.host.evSeq = s.dev.host.evSeq + 1

end Statements
end

