-- ==== Sys2Proof/Laws/Bits.lean ====
section
/-! SUPPORT. Bit fields: every field operation by the bits that it reads and writes. -/

namespace Sys2Proof.Machine
open Sys2Proof

theorem bit_eq_testBit (x i : Nat) : bit x i = x.testBit i := by
  rw [bit, Nat.testBit_eq_decide_div_mod_eq]
  by_cases h : x / 2 ^ i % 2 = 1 <;> simp [h]

theorem bits_testBit (x hi lo i : Nat) : (bits x hi lo).testBit i = (decide (i < hi + 1 - lo) && x.testBit (lo + i)) := by
  rw [bits, Nat.testBit_mod_two_pow, Nat.testBit_div_two_pow, Nat.add_comm i lo]

theorem bits_lt (x hi lo : Nat) : bits x hi lo < 2 ^ (hi + 1 - lo) := Nat.mod_lt _ (Nat.two_pow_pos _)

/-- A field of a number is that of its low bits. -/
theorem bits_mod (x hi lo n : Nat) (h : hi < n) : bits (x % 2 ^ n) hi lo = bits x hi lo := by
  apply Nat.eq_of_testBit_eq; intro i
  simp only [bits_testBit, Nat.testBit_mod_two_pow]
  by_cases hi' : i < hi + 1 - lo
  · have : lo + i < n := by omega
    simp [this]
  · simp [hi']

theorem bit_mod (x i n : Nat) (h : i < n) : bit (x % 2 ^ n) i = bit x i := by
  simp [bit_eq_testBit, Nat.testBit_mod_two_pow, h]

/-- Setting bit i reads 1 there and leaves the others. -/
@[simp] theorem bit_or_two_pow (x i j : Nat) : bit (x ||| 2 ^ i) j = (bit x j || decide (i = j)) := by
  simp [bit_eq_testBit, Nat.testBit_or, Nat.testBit_two_pow]

theorem bits_or_two_pow (x i hi lo : Nat) (h : i < lo ∨ hi < i) : bits (x ||| 2 ^ i) hi lo = bits x hi lo := by
  apply Nat.eq_of_testBit_eq; intro k
  simp only [bits_testBit, Nat.testBit_or, Nat.testBit_two_pow]
  by_cases hk : k < hi + 1 - lo
  · have : ¬ i = lo + k := by omega
    simp [hk, this]
  · simp [hk]

/-- A word below 2^n with bit i set, i < n, is below 2^n. -/
theorem or_two_pow_lt (x i n : Nat) (hx : x < 2 ^ n) (hi : i < n) : x ||| 2 ^ i < 2 ^ n :=
  Nat.or_lt_two_pow hx (Nat.pow_lt_pow_right (by decide) hi)

/-- What a set field puts in the word, bit by bit. -/
theorem setBits_testBit (x hi lo v i : Nat) :
    (setBits x hi lo v).testBit i =
      if lo ≤ i ∧ i < lo + (hi + 1 - lo) then v.testBit (i - lo) else x.testBit i := by
  have hx := Nat.div_add_mod x (2 ^ lo)
  have hy := Nat.div_add_mod (x / 2 ^ lo) (2 ^ (hi + 1 - lo))
  have hdd : x / 2 ^ lo / 2 ^ (hi + 1 - lo) = x / 2 ^ (lo + (hi + 1 - lo)) := by
    rw [Nat.div_div_eq_div_mul, Nat.pow_add]
  have key : setBits x hi lo v =
      2 ^ (lo + (hi + 1 - lo)) * (x / 2 ^ (lo + (hi + 1 - lo))) +
        (2 ^ lo * (v % 2 ^ (hi + 1 - lo)) + x % 2 ^ lo) := by
    unfold setBits bits
    rw [← hdd, Nat.pow_add, Nat.mul_assoc]
    generalize x / 2 ^ lo / 2 ^ (hi + 1 - lo) = q at *
    generalize x / 2 ^ lo % 2 ^ (hi + 1 - lo) = f at *
    generalize v % 2 ^ (hi + 1 - lo) = w at *
    generalize x % 2 ^ lo = r at *
    generalize hQ : 2 ^ (hi + 1 - lo) * q = Q at *
    rw [← hy] at hx
    rw [Nat.mul_add] at hx
    rw [Nat.mul_comm f, Nat.mul_comm w]
    omega
  rw [key]
  have hlow : 2 ^ lo * (v % 2 ^ (hi + 1 - lo)) + x % 2 ^ lo < 2 ^ (lo + (hi + 1 - lo)) := by
    have h1 : v % 2 ^ (hi + 1 - lo) + 1 ≤ 2 ^ (hi + 1 - lo) := Nat.mod_lt _ (Nat.two_pow_pos _)
    have h2 : x % 2 ^ lo < 2 ^ lo := Nat.mod_lt _ (Nat.two_pow_pos _)
    have h3 := Nat.mul_le_mul_left (2 ^ lo) h1
    rw [Nat.pow_add]
    rw [Nat.mul_add] at h3
    omega
  rw [Nat.testBit_two_pow_mul_add _ hlow]
  by_cases h : i < lo + (hi + 1 - lo)
  · rw [if_pos h, Nat.testBit_two_pow_mul_add _ (Nat.mod_lt _ (Nat.two_pow_pos _))]
    by_cases hl : i < lo
    · have : ¬ lo ≤ i := by omega
      simp [hl, this, Nat.testBit_mod_two_pow]
    · have h1 : lo ≤ i := by omega
      have h2 : i - lo < hi + 1 - lo := by omega
      simp [hl, h1, h, Nat.testBit_mod_two_pow, h2]
  · have hn : ¬ (lo ≤ i ∧ i < lo + (hi + 1 - lo)) := fun hh => h hh.2
    rw [if_neg h, if_neg hn, Nat.testBit_div_two_pow]
    congr 1; omega

/-- A field that was set reads as what was put there. -/
theorem bits_setBits (x hi lo v : Nat) : bits (setBits x hi lo v) hi lo = v % 2 ^ (hi + 1 - lo) := by
  apply Nat.eq_of_testBit_eq; intro k
  simp only [bits_testBit, setBits_testBit, Nat.testBit_mod_two_pow]
  by_cases hk : k < hi + 1 - lo
  · have : lo + k < lo + (hi + 1 - lo) := by omega
    simp [hk]
  · simp [hk]

/-- A field beside the one that was set reads as before. -/
theorem bits_setBits_other (x hi lo v hi' lo' : Nat) (h : hi' < lo ∨ hi < lo') :
    bits (setBits x hi lo v) hi' lo' = bits x hi' lo' := by
  apply Nat.eq_of_testBit_eq; intro k
  simp only [bits_testBit, setBits_testBit]
  by_cases hk : k < hi' + 1 - lo'
  · have : ¬ (lo ≤ lo' + k ∧ lo' + k < lo + (hi + 1 - lo)) := by omega
    simp only [if_neg this]
  · simp [hk]

theorem bit_setBits (x hi lo v i : Nat) :
    bit (setBits x hi lo v) i = if lo ≤ i ∧ i < lo + (hi + 1 - lo) then bit v (i - lo) else bit x i := by
  simp only [bit_eq_testBit, setBits_testBit]

/-- Setting a field of a word of n bits leaves a word of n bits. -/
theorem setBits_lt (x hi lo v n : Nat) (hx : x < 2 ^ n) (h : hi < n) : setBits x hi lo v < 2 ^ n := by
  apply Nat.lt_pow_two_of_testBit; intro i hi'
  rw [setBits_testBit, if_neg (by omega)]
  exact Nat.testBit_lt_two_pow (Nat.lt_of_lt_of_le hx (Nat.pow_le_pow_right (by decide) hi'))

end Sys2Proof.Machine
end

