-- ==== Sys2Proof/Laws/Store.lean ====
section
/-! SUPPORT. The finite maps and stores: what a read brings after a write, and the canonical form that every write
keeps. -/

namespace Sys2Proof.Machine
open Sys2Proof

variable {α : Type}

@[simp] theorem ffind_fput (m : FMap α) (k k' : Nat) (v : α) :
    ffind (fput m k v) k' = if k = k' then some v else ffind m k' := by
  induction m with
  | nil => simp [fput, ffind]
  | cons p m ih =>
    obtain ⟨a, w⟩ := p
    simp only [fput]
    split
    · simp only [ffind]
    · split
      · subst_vars; simp only [ffind]; split <;> simp_all
      · simp only [ffind, ih]; split
        · split <;> simp_all
        · rfl

@[simp] theorem fget_fput (d : α) (m : FMap α) (k k' : Nat) (v : α) :
    fget d (fput m k v) k' = if k = k' then v else fget d m k' := by
  simp only [fget, ffind_fput]; split <;> rfl

theorem ffind_filter (m : FMap α) (p : Nat → Bool) (k : Nat) :
    ffind (m.filter fun e => p e.1) k = if p k then ffind m k else none := by
  induction m with
  | nil => simp [ffind]
  | cons q m ih =>
    obtain ⟨a, w⟩ := q
    by_cases hk : a = k
    · subst hk
      cases h : p a <;> simp [List.filter, h, ffind, ih]
    · cases h : p a <;> simp [List.filter, h, ffind, ih, hk]

@[simp] theorem ffind_fdel (m : FMap α) (k k' : Nat) :
    ffind (fdel m k) k' = if k = k' then none else ffind m k' := by
  unfold fdel; rw [ffind_filter m (fun x => x != k)]
  by_cases h : k = k'
  · simp [h]
  · have : k' ≠ k := fun e => h e.symm
    simp [h, this]

@[simp] theorem fget_fdel (d : α) (m : FMap α) (k k' : Nat) :
    fget d (fdel m k) k' = if k = k' then d else fget d m k' := by
  simp only [fget, ffind_fdel]; split <;> rfl

@[simp] theorem ffind_fkeep (m : FMap α) (p : Nat → Bool) (k : Nat) :
    ffind (fkeep m p) k = if p k then ffind m k else none := ffind_filter m p k

@[simp] theorem storeGet_storePut [DecidableEq α] (d : Nat → α) (m : List (Nat × α)) (k k' : Nat) (v : α) :
    storeGet d (storePut d m k v) k' = if k = k' then v else storeGet d m k' := by
  unfold storePut storeGet
  split
  · rw [fget_fdel]; split <;> simp_all
  · rw [fget_fput]

@[simp] theorem storeGet_storeClear (d : Nat → α) (m : List (Nat × α)) (lo hi k : Nat) :
    storeGet d (storeClear m lo hi) k = if lo ≤ k ∧ k < hi then d k else storeGet d m k := by
  unfold storeGet storeClear fget
  rw [ffind_filter m (fun x => decide (x < lo) || decide (hi ≤ x))]
  by_cases h : lo ≤ k ∧ k < hi
  · have h1 : ¬ k < lo := by omega
    have h2 : ¬ hi ≤ k := by omega
    simp [h, h1, h2]
  · have : k < lo ∨ hi ≤ k := by omega
    simp [h, this]

/-- A committed log reads as the log itself reads. -/
theorem storeGet_applyLog [DecidableEq α] (d : Nat → α) (m : List (Nat × α)) (l : List (WEntry α)) (k : Nat) :
    storeGet d (applyLog d m l) k = readLog d m l k := by
  induction l with
  | nil => rfl
  | cons e l ih => cases e <;> simp [applyLog, applyEntry, readLog, ih]

/-! ### The canonical form -/

theorem fput_mem {m : FMap α} {k : Nat} {v : α} {p : Nat × α} (h : p ∈ fput m k v) : p = (k, v) ∨ p ∈ m := by
  induction m with
  | nil => simp [fput] at h; exact .inl h
  | cons q m ih =>
    obtain ⟨a, w⟩ := q
    simp only [fput] at h
    split at h
    · rcases List.mem_cons.1 h with h | h
      · exact .inl h
      · exact .inr h
    · split at h
      · rcases List.mem_cons.1 h with h | h
        · exact .inl h
        · exact .inr (List.mem_cons_of_mem _ h)
      · rcases List.mem_cons.1 h with h | h
        · exact .inr (h ▸ List.mem_cons_self)
        · rcases ih h with h | h
          · exact .inl h
          · exact .inr (List.mem_cons_of_mem _ h)

theorem fput_pairwise {m : FMap α} (k : Nat) (v : α) (h : m.Pairwise fun a b => a.1 < b.1) :
    (fput m k v).Pairwise fun a b => a.1 < b.1 := by
  induction m with
  | nil => simp [fput]
  | cons q m ih =>
    obtain ⟨a, w⟩ := q
    rw [List.pairwise_cons] at h
    obtain ⟨h1, h2⟩ := h
    simp only [fput]
    split
    · rename_i hk
      refine List.pairwise_cons.2 ⟨fun p hp => ?_, List.pairwise_cons.2 ⟨h1, h2⟩⟩
      rcases List.mem_cons.1 hp with rfl | hp
      · exact hk
      · exact Nat.lt_trans hk (h1 p hp)
    · split
      · subst_vars; exact List.pairwise_cons.2 ⟨h1, h2⟩
      · refine List.pairwise_cons.2 ⟨fun p hp => ?_, ih h2⟩
        rcases fput_mem hp with rfl | hp
        · simp only; omega
        · exact h1 p hp

/-- A write of one key keeps the canonical form. -/
theorem storePut_wf [DecidableEq α] (d : Nat → α) (m : List (Nat × α)) (k : Nat) (v : α) (h : storeWf d m) :
    storeWf d (storePut d m k v) := by
  unfold storePut
  split
  · exact ⟨h.1.filter _, fun p hp => h.2 p (List.mem_filter.1 hp).1⟩
  · rename_i hv
    refine ⟨fput_pairwise k v h.1, fun p hp => ?_⟩
    rcases fput_mem hp with rfl | hp
    · exact hv
    · exact h.2 p hp

/-- Putting a range back keeps the canonical form. -/
theorem storeClear_wf (d : Nat → α) (m : List (Nat × α)) (lo hi : Nat) (h : storeWf d m) :
    storeWf d (storeClear m lo hi) := by
  exact ⟨h.1.filter _, fun p hp => h.2 p (List.mem_filter.1 hp).1⟩

/-- A command's writes keep the canonical form. -/
theorem applyLog_wf [DecidableEq α] (d : Nat → α) (m : List (Nat × α)) (l : List (WEntry α)) (h : storeWf d m) :
    storeWf d (applyLog d m l) := by
  induction l with
  | nil => exact h
  | cons e l ih =>
    cases e with
    | put k v => exact storePut_wf d _ k v ih
    | clear lo hi => exact storeClear_wf d _ lo hi ih

end Sys2Proof.Machine
end

