-- ==== Sys2Proof/Laws/State.lean ====
section
/-! SUPPORT. One lemma for each field that a named update of the machine touches or keeps, so that no proof unfolds a
record update. -/

namespace Sys2Proof.Machine
open Sys2Proof

variable (m : Mach)

@[simp] theorem Mach.setStn_mem (n : Nat) (x : Station) : (m.setStn n x).mem = m.mem := rfl
@[simp] theorem Mach.setStn_log (n : Nat) (x : Station) : (m.setStn n x).log = m.log := rfl
@[simp] theorem Mach.setStn_dev (n : Nat) (x : Station) : (m.setStn n x).dev =
    { m.dev with stn := fput m.dev.stn n x } := rfl

@[simp] theorem Mach.setMu_mem (n b : Nat) (x : Mu) : (m.setMu n b x).mem = m.mem := rfl
@[simp] theorem Mach.setMu_log (n b : Nat) (x : Mu) : (m.setMu n b x).log = m.log := rfl
@[simp] theorem Mach.setMu_dev (n b : Nat) (x : Mu) : (m.setMu n b x).dev =
    { m.dev with mu := fput m.dev.mu (n * 256 + b) x } := rfl

@[simp] theorem Mach.setVu_mem (n v : Nat) (x : Vu) : (m.setVu n v x).mem = m.mem := rfl
@[simp] theorem Mach.setVu_log (n v : Nat) (x : Vu) : (m.setVu n v x).log = m.log := rfl
@[simp] theorem Mach.setVu_dev (n v : Nat) (x : Vu) : (m.setVu n v x).dev =
    { m.dev with vu := fput m.dev.vu (n * 32 + v) x } := rfl

@[simp] theorem Mach.setPort_mem (n b : Nat) (x : SlabPort) : (m.setPort n b x).mem = m.mem := rfl
@[simp] theorem Mach.setPort_log (n b : Nat) (x : SlabPort) : (m.setPort n b x).log = m.log := rfl
@[simp] theorem Mach.setPort_dev (n b : Nat) (x : SlabPort) : (m.setPort n b x).dev =
    { m.dev with slabPort := fput m.dev.slabPort (n * 256 + b) x } := rfl

@[simp] theorem Mach.setQueue_mem (n q : Nat) (x : Queue) : (m.setQueue n q x).mem = m.mem := rfl
@[simp] theorem Mach.setQueue_log (n q : Nat) (x : Queue) : (m.setQueue n q x).log = m.log := rfl
@[simp] theorem Mach.setQueue_dev (n q : Nat) (x : Queue) : (m.setQueue n q x).dev =
    { m.dev with queues := fput m.dev.queues (n * 4096 + q) x } := rfl

@[simp] theorem Mach.setPoints_mem (n b e : Nat) (x : Points) : (m.setPoints n b e x).mem = m.mem := rfl
@[simp] theorem Mach.setPoints_log (n b e : Nat) (x : Points) : (m.setPoints n b e x).log = m.log := rfl
@[simp] theorem Mach.setPoints_dev (n b e : Nat) (x : Points) : (m.setPoints n b e x).dev =
    { m.dev with points := fput m.dev.points (ptKey n b e) x } := rfl

@[simp] theorem Mach.setToken_mem (n t : Nat) (x : Token) : (m.setToken n t x).mem = m.mem := rfl
@[simp] theorem Mach.setToken_log (n t : Nat) (x : Token) : (m.setToken n t x).log = m.log := rfl
@[simp] theorem Mach.setToken_dev (n t : Nat) (x : Token) : (m.setToken n t x).dev =
    { m.dev with tokens := fput m.dev.tokens (n * 48 + t) x } := rfl

@[simp] theorem Mach.setEngine_mem (n e : Nat) (x : Engine) : (m.setEngine n e x).mem = m.mem := rfl
@[simp] theorem Mach.setEngine_log (n e : Nat) (x : Engine) : (m.setEngine n e x).log = m.log := rfl
@[simp] theorem Mach.setEngine_dev (n e : Nat) (x : Engine) : (m.setEngine n e x).dev =
    { m.dev with eng := fput m.dev.eng (n * 8 + e) x } := rfl

@[simp] theorem Mach.setCh_mem (c : Nat) (x : DdrCh) : (m.setCh c x).mem = m.mem := rfl
@[simp] theorem Mach.setCh_log (c : Nat) (x : DdrCh) : (m.setCh c x).log = m.log := rfl
@[simp] theorem Mach.setCh_dev (c : Nat) (x : DdrCh) : (m.setCh c x).dev =
    { m.dev with ddr := fput m.dev.ddr c x } := rfl

@[simp] theorem Mach.setEp_mem (p : Nat) (x : EpPort) : (m.setEp p x).mem = m.mem := rfl
@[simp] theorem Mach.setEp_log (p : Nat) (x : EpPort) : (m.setEp p x).log = m.log := rfl
@[simp] theorem Mach.setEp_dev (p : Nat) (x : EpPort) : (m.setEp p x).dev =
    { m.dev with ep := fput m.dev.ep p x } := rfl

@[simp] theorem Mach.setJob_mem (h : Nat) (x : Job) : (m.setJob h x).mem = m.mem := rfl
@[simp] theorem Mach.setJob_log (h : Nat) (x : Job) : (m.setJob h x).log = m.log := rfl
@[simp] theorem Mach.setJob_dev (h : Nat) (x : Job) : (m.setJob h x).dev =
    { m.dev with jobs := fput m.dev.jobs h x } := rfl

@[simp] theorem Mach.setConsist_mem (c : Nat) (x : Consist) : (m.setConsist c x).mem = m.mem := rfl
@[simp] theorem Mach.setConsist_log (c : Nat) (x : Consist) : (m.setConsist c x).log = m.log := rfl
@[simp] theorem Mach.setConsist_dev (c : Nat) (x : Consist) : (m.setConsist c x).dev =
    { m.dev with consists := fput m.dev.consists c x } := rfl

@[simp] theorem Mach.emit_mem (o : Output) : (m.emit o).mem = m.mem := rfl
@[simp] theorem Mach.emit_log (o : Output) : (m.emit o).log = m.log := rfl
@[simp] theorem Mach.emit_dev (o : Output) : (m.emit o).dev =
    { m.dev with out := o :: m.dev.out } := rfl

@[simp] theorem Mach.setRaw_mem (o v : Nat) : (m.setRaw o v).mem = m.mem := rfl
@[simp] theorem Mach.setRaw_dev (o v : Nat) : (m.setRaw o v).dev = m.dev := rfl
@[simp] theorem Mach.setRaw_log (o v : Nat) : (m.setRaw o v).log =
    { m.log with regs := .put o (BitVec.ofNat 64 v) :: m.log.regs } := rfl

@[simp] theorem Mach.resetRegs_mem (lo hi : Nat) : (m.resetRegs lo hi).mem = m.mem := rfl
@[simp] theorem Mach.resetRegs_dev (lo hi : Nat) : (m.resetRegs lo hi).dev = m.dev := rfl
@[simp] theorem Mach.resetRegs_log (lo hi : Nat) : (m.resetRegs lo hi).log =
    { m.log with regs := .clear lo hi :: m.log.regs } := rfl

@[simp] theorem Mach.noteClear_mem (l : List Nat) : (m.noteClear l).mem = m.mem := rfl
@[simp] theorem Mach.noteClear_log (l : List Nat) : (m.noteClear l).log = m.log := rfl
@[simp] theorem Mach.noteClear_dev (l : List Nat) : (m.noteClear l).dev =
    { m.dev with cleared := m.dev.cleared ++ l } := rfl

@[simp] theorem Mach.raiseFlags_mem (o fl : Nat) : (m.raiseFlags o fl).mem = m.mem := by
  simp only [Mach.raiseFlags]; split <;> rfl
@[simp] theorem Mach.raiseFlags_log (o fl : Nat) : (m.raiseFlags o fl).log =
    { m.log with regs := .put o (BitVec.ofNat 64 (m.raw o ||| fl)) :: m.log.regs } := by
  simp only [Mach.raiseFlags]; split <;> rfl
@[simp] theorem Mach.raiseFlags_dev (o fl : Nat) : (m.raiseFlags o fl).dev =
    if fl = 0 then m.dev else { m.dev with raised := fput m.dev.raised o (fget 0 m.dev.raised o ||| fl) } := by
  simp only [Mach.raiseFlags]; split <;> rfl

@[simp] theorem Mach.setPlane_mem (k v : Nat) : (m.setPlane k v).mem = m.mem := rfl
@[simp] theorem Mach.setPlane_dev (k v : Nat) : (m.setPlane k v).dev = m.dev := rfl
@[simp] theorem Mach.setPlane_log (k v : Nat) : (m.setPlane k v).log =
    { m.log with plane := .put k (BitVec.ofNat 64 v) :: m.log.plane } := rfl

@[simp] theorem Mach.resetPlanes_mem (n : Nat) : (m.resetPlanes n).mem = m.mem := rfl
@[simp] theorem Mach.resetPlanes_dev (n : Nat) : (m.resetPlanes n).dev = m.dev := rfl
@[simp] theorem Mach.resetPlanes_log (n : Nat) : (m.resetPlanes n).log =
    { m.log with plane := .clear (n * 8 * 2 ^ 32) ((n + 1) * 8 * 2 ^ 32) :: m.log.plane } := rfl

/-! ### What the accessors read after an update of the same kind -/

@[simp] theorem Mach.stn_setStn (n : Nat) (x : Station) : (m.setStn n x).stn n = x := by
  simp [Mach.stn, Mach.setStn]
@[simp] theorem Mach.muOf_setMu (n b : Nat) (x : Mu) : (m.setMu n b x).muOf n b = x := by
  simp [Mach.muOf, Mach.setMu]
@[simp] theorem Mach.vuOf_setVu (n b : Nat) (x : Vu) : (m.setVu n b x).vuOf n b = x := by
  simp [Mach.vuOf, Mach.setVu]
@[simp] theorem Mach.portOf_setPort (n b : Nat) (x : SlabPort) : (m.setPort n b x).portOf n b = x := by
  simp [Mach.portOf, Mach.setPort]
@[simp] theorem Mach.queue_setQueue (n b : Nat) (x : Queue) : (m.setQueue n b x).queue n b = x := by
  simp [Mach.queue, Mach.setQueue]
@[simp] theorem Mach.token_setToken (n b : Nat) (x : Token) : (m.setToken n b x).token n b = x := by
  simp [Mach.token, Mach.setToken]
@[simp] theorem Mach.engine_setEngine (n b : Nat) (x : Engine) : (m.setEngine n b x).engine n b = x := by
  simp [Mach.engine, Mach.setEngine]
@[simp] theorem Mach.ch_setCh (n : Nat) (x : DdrCh) : (m.setCh n x).ch n = x := by
  simp [Mach.ch, Mach.setCh]
@[simp] theorem Mach.ep_setEp (n : Nat) (x : EpPort) : (m.setEp n x).ep n = x := by
  simp [Mach.ep, Mach.setEp]
@[simp] theorem Mach.job_setJob (n : Nat) (x : Job) : (m.setJob n x).job n = some x := by
  simp [Mach.job, Mach.setJob]
@[simp] theorem Mach.consist_setConsist (n : Nat) (x : Consist) : (m.setConsist n x).consist n = some x := by
  simp [Mach.consist, Mach.setConsist]

/-! ### Registers -/

@[simp] theorem Mach.raw_setRaw (o o' v : Nat) :
    (m.setRaw o v).raw o' = if o = o' then v % 2 ^ 64 else m.raw o' := by
  simp only [Mach.raw, Mach.setRaw, readLog]
  split <;> simp [BitVec.toNat_ofNat]

/-- An update of the running parts alone leaves every register. -/
theorem Mach.raw_congr (m m' : Mach) (h : m'.mem = m.mem) (h' : m'.log = m.log) (o : Nat) : m'.raw o = m.raw o := by
  simp [Mach.raw, h, h']

theorem Mach.raw_lt (o : Nat) : m.raw o < 2 ^ 64 := BitVec.isLt _

end Sys2Proof.Machine
end

