-- ==== Sys2Proof/Laws/Act.lean ====
section
/-! SUPPORT. The frame of a command: what `act` answers, and how the state that it leaves reads. -/

namespace Sys2Proof.Machine
open Sys2Proof

/-- What `act` answers, in its four cases. -/
theorem act_cases (n : Need) (i : Instr) (s : State) (f : Mach → Mach) :
    act n i s f =
      if s.dev.clk.undef = true ∧ n ≠ .always then .fault .undefinedState
      else if i.wellFormed = false then .refused .illFormed
      else if s.dev.runs n = false then .next s
      else .next (s.after (f s.view)) := rfl

/-- A well-formed command on a running device answers the state that its effect makes. -/
theorem act_run {i : Instr} {s : State} (f : Mach → Mach) (h : s.Ready) (hi : i.wellFormed = true) :
    act .run i s f = .next (s.after (f s.view)) := by
  simp [act_cases, h.1, h.2, hi]

/-- A command of the always-on domain on a powered device. -/
theorem act_aon {i : Instr} {s : State} (f : Mach → Mach) (h : s.Powered) (hi : i.wellFormed = true) :
    act .aon i s f = .next (s.after (f s.view)) := by
  simp [act_cases, h.1, hi, Dev.runs, h.2]

/-- Power comes and goes whatever the device's state is. -/
theorem act_always {i : Instr} {s : State} (f : Mach → Mach) (hi : i.wellFormed = true) :
    act .always i s f = .next (s.after (f s.view)) := by
  simp [act_cases, hi, Dev.runs]

/-- A device of undefined state faults on whatever needs more than power's coming or going. -/
theorem act_undef {n : Need} {i : Instr} {s : State} (f : Mach → Mach) (h : s.dev.clk.undef = true) (hn : n ≠ .always) :
    act n i s f = .fault .undefinedState := by
  simp [act_cases, h, hn]

/-- A command that names nothing on the part is refused. -/
theorem act_illFormed {n : Need} {i : Instr} {s : State} (f : Mach → Mach) (h : s.dev.clk.undef = false)
    (hi : i.wellFormed = false) : act n i s f = .refused .illFormed := by
  simp [act_cases, h, hi]

/-- Whatever `act` answers as the next state holds the queue that it was given. -/
theorem act_pending {n : Need} {i : Instr} {s t : State} {f : Mach → Mach} (h : act n i s f = .next t) :
    t.pending = s.pending := by
  rw [act_cases] at h
  split at h
  · cases h
  · split at h
    · cases h
    · split at h <;> cases h <;> rfl

/-- A command's writes keep the stores' canonical form. -/
theorem act_wf {n : Need} {i : Instr} {s t : State} {f : Mach → Mach} (hw : s.Wf) (h : act n i s f = .next t) :
    t.Wf := by
  rw [act_cases] at h
  split at h
  · cases h
  · split at h
    · cases h
    · split at h <;> cases h
      · exact hw
      · exact ⟨applyLog_wf _ _ _ hw.1, applyLog_wf _ _ _ hw.2.1, applyLog_wf _ _ _ hw.2.2.1,
          applyLog_wf _ _ _ hw.2.2.2⟩

/-! ### How the state after a command reads -/

variable (s : State) (m : Mach)

@[simp] theorem State.after_dev : (s.after m).dev = m.dev := rfl
@[simp] theorem State.after_pending : (s.after m).pending = s.pending := rfl
@[simp] theorem State.view_dev : s.view.dev = s.dev := rfl
@[simp] theorem State.view_mem : s.view.mem = s.mem := rfl
@[simp] theorem State.view_log : s.view.log = {} := rfl
@[simp] theorem State.view_raw (o : Nat) : s.view.raw o = s.reg o := rfl

/-- A command that changed nothing leaves the state as it was. -/
@[simp] theorem State.after_view : s.after s.view = s := rfl

theorem State.after_reg (o : Nat) : (s.after m).reg o = (readLog regReset s.mem.regs m.log.regs o).toNat := by
  simp [State.reg, State.after, Mems.commit, storeGet_applyLog]

theorem State.after_slabAt (a : Nat) : (s.after m).slabAt a = readLog memReset s.mem.slab m.log.slab a := by
  simp [State.slabAt, State.after, Mems.commit, storeGet_applyLog]

theorem State.after_ddrAt (a : Nat) : (s.after m).ddrAt a = readLog memReset s.mem.ddr m.log.ddr a := by
  simp [State.ddrAt, State.after, Mems.commit, storeGet_applyLog]

theorem State.after_planeAt (k : Nat) :
    (s.after m).planeAt k = (readLog planeReset s.mem.plane m.log.plane k).toNat := by
  simp [State.planeAt, State.after, Mems.commit, storeGet_applyLog]

/-- A register reads after the command as the command's own machine read it at its end. -/
theorem State.after_reg_raw (h : m.mem = s.mem) (o : Nat) : (s.after m).reg o = m.raw o := by
  rw [State.after_reg, Mach.raw, h]

/-- A command that wrote registers of `l` alone keeps all else that `KeepsBut` names. -/
theorem State.after_keepsBut (l : List Nat) (hs : m.log.slab = []) (hd : m.log.ddr = []) (hp : m.log.plane = [])
    (hr : ∀ o, o ∉ l → readLog regReset s.mem.regs m.log.regs o = storeGet regReset s.mem.regs o) :
    s.KeepsBut (s.after m) l := by
  refine ⟨fun o ho => ?_, fun a => ?_, fun a => ?_, fun k => ?_, rfl⟩
  · rw [State.after_reg, hr o ho]; rfl
  · rw [State.after_slabAt, hs]; rfl
  · rw [State.after_ddrAt, hd]; rfl
  · rw [State.after_planeAt, hp]; rfl

/-! ### Commands that write registers of a list alone -/

/-- A machine of the state `s` that has written registers of `l` alone. -/
structure Mach.Wrote (s : State) (m : Mach) (l : List Nat) : Prop where
  mem : m.mem = s.mem
  slab : m.log.slab = []
  ddr : m.log.ddr = []
  plane : m.log.plane = []
  regs : ∀ o, o ∉ l → readLog regReset s.mem.regs m.log.regs o = storeGet regReset s.mem.regs o

variable {s m} {l : List Nat}

theorem Mach.wrote_view : Mach.Wrote s s.view l := ⟨rfl, rfl, rfl, rfl, fun _ _ => rfl⟩

theorem Mach.Wrote.setRaw (h : Mach.Wrote s m l) {o v : Nat} (ho : o ∈ l) : Mach.Wrote s (m.setRaw o v) l :=
  ⟨h.mem, h.slab, h.ddr, h.plane, fun k hk => by
    have : ¬ o = k := fun e => hk (e ▸ ho)
    simp [readLog, this, h.regs k hk]⟩

theorem Mach.Wrote.setBit (h : Mach.Wrote s m l) {o i : Nat} (ho : o ∈ l) : Mach.Wrote s (m.setBit o i) l := h.setRaw ho

theorem Mach.Wrote.setField (h : Mach.Wrote s m l) {o hi lo v : Nat} (ho : o ∈ l) :
    Mach.Wrote s (m.setField o hi lo v) l := h.setRaw ho

/-- An update of the running parts writes no register. -/
theorem Mach.Wrote.dev (h : Mach.Wrote s m l) (m' : Mach) (hm : m'.mem = m.mem) (hl : m'.log = m.log) :
    Mach.Wrote s m' l :=
  ⟨hm ▸ h.mem, hl ▸ h.slab, hl ▸ h.ddr, hl ▸ h.plane, hl ▸ h.regs⟩

theorem Mach.Wrote.keepsBut (h : Mach.Wrote s m l) : s.KeepsBut (s.after m) l :=
  State.after_keepsBut s m l h.slab h.ddr h.plane h.regs

theorem Mach.Wrote.reg (h : Mach.Wrote s m l) (o : Nat) : (s.after m).reg o = m.raw o := State.after_reg_raw s m h.mem o

/-- What a command whose effect is `f` answers, with what is known of the state that it leaves. -/
theorem exec_run {c : Instr} {f : Mach → Mach} {P : State → Prop} (he : ∀ s, exec c s = act .run c s f) (h : s.Ready)
    (hw : c.wellFormed = true) (hp : P (s.after (f s.view))) : ∃ t, exec c s = .next t ∧ P t :=
  ⟨_, (he s).trans (act_run f h hw), hp⟩

@[simp] theorem Mach.raw_setBit (m : Mach) (o i o' : Nat) (h : i < 64) :
    (m.setBit o i).raw o' = if o = o' then m.raw o ||| 2 ^ i else m.raw o' := by
  have := or_two_pow_lt (m.raw o) i 64 (m.raw_lt o) h
  rw [Mach.setBit, Mach.raw_setRaw, Nat.mod_eq_of_lt this]

@[simp] theorem Mach.raw_setField (m : Mach) (o hi lo v o' : Nat) (h : hi < 64) :
    (m.setField o hi lo v).raw o' = if o = o' then setBits (m.raw o) hi lo v else m.raw o' := by
  have := setBits_lt (m.raw o) hi lo v 64 (m.raw_lt o) h
  rw [Mach.setField, Mach.raw_setRaw, Nat.mod_eq_of_lt this]

@[simp] theorem Mach.setBit_dev (m : Mach) (o i : Nat) : (m.setBit o i).dev = m.dev := rfl
@[simp] theorem Mach.setField_dev (m : Mach) (o hi lo v : Nat) : (m.setField o hi lo v).dev = m.dev := rfl

theorem State.reg_lt (s : State) (o : Nat) : s.reg o < 2 ^ 64 := BitVec.isLt _

end Sys2Proof.Machine
end

