-- ==== Sys2Proof/Laws/Exec.lean ====
section
/-! SUPPORT. Every command runs in the frame `act`, with the need that `needOf` names. -/

namespace Sys2Proof.Machine
open Sys2Proof

/-- Every command is one effect on the machine, in the frame that its need gives. -/
theorem exec_act (c : Instr) : ∃ f, ∀ s, exec c s = act (needOf c) c s f := by
  cases c with
  | negotiate ring => apply Exists.intro; intro s; show execNegotiate ring s = _; unfold execNegotiate; rfl
  | identify ring => apply Exists.intro; intro s; show execIdentify ring s = _; unfold execIdentify; rfl
  | loadFirmware ring image => apply Exists.intro; intro s; show execLoadFirmware ring image s = _; unfold execLoadFirmware; rfl
  | loadConsist ring image pass2 patch => apply Exists.intro; intro s; show execLoadConsist ring image pass2 patch s = _; unfold execLoadConsist; rfl
  | loadPartial ring image => apply Exists.intro; intro s; show execLoadPartial ring image s = _; unfold execLoadPartial; rfl
  | unloadConsist ring => apply Exists.intro; intro s; show execUnloadConsist ring s = _; unfold execUnloadConsist; rfl
  | setTimetable ring image => apply Exists.intro; intro s; show execSetTimetable ring image s = _; unfold execSetTimetable; rfl
  | submitJob ring args => apply Exists.intro; intro s; show execSubmitJob ring args s = _; unfold execSubmitJob; rfl
  | cancelJob ring => apply Exists.intro; intro s; show execCancelJob ring s = _; unfold execCancelJob; rfl
  | releaseResult ring => apply Exists.intro; intro s; show execReleaseResult ring s = _; unfold execReleaseResult; rfl
  | dumpTokens ring => apply Exists.intro; intro s; show execDumpTokens ring s = _; unfold execDumpTokens; rfl
  | readCounters ring offsets => apply Exists.intro; intro s; show execReadCounters ring offsets s = _; unfold execReadCounters; rfl
  | startMaintenance ring => apply Exists.intro; intro s; show execStartMaintenance ring s = _; unfold execStartMaintenance; rfl
  | stopMaintenance ring => apply Exists.intro; intro s; show execStopMaintenance ring s = _; unfold execStopMaintenance; rfl
  | sampleScratchpad ring => apply Exists.intro; intro s; show execSampleScratchpad ring s = _; unfold execSampleScratchpad; rfl
  | resetDomain ring => apply Exists.intro; intro s; show execResetDomain ring s = _; unfold execResetDomain; rfl
  | portClose ring => apply Exists.intro; intro s; show execPortClose ring s = _; unfold execPortClose; rfl
  | portOpen ring => apply Exists.intro; intro s; show execPortOpen ring s = _; unfold execPortOpen; rfl
  | attest ring nonce => apply Exists.intro; intro s; show execAttest ring nonce s = _; unfold execAttest; rfl
  | lifecycleAdvance ring record => apply Exists.intro; intro s; show execLifecycleAdvance ring record s = _; unfold execLifecycleAdvance; rfl
  | wipe ring => apply Exists.intro; intro s; show execWipe ring s = _; unfold execWipe; rfl
  | commandFetch ring packet => apply Exists.intro; intro s; show execCommandFetch ring packet s = _; unfold execCommandFetch; rfl
  | doorbellWrite ring value => apply Exists.intro; intro s; show execDoorbellWrite ring value s = _; unfold execDoorbellWrite; rfl
  | ringCtrlWrite ring value => apply Exists.intro; intro s; show execRingCtrlWrite ring value s = _; unfold execRingCtrlWrite; rfl
  | evqCtrlWrite value => apply Exists.intro; intro s; show execEvqCtrlWrite value s = _; unfold execEvqCtrlWrite; rfl
  | evqHeadWrite value => apply Exists.intro; intro s; show execEvqHeadWrite value s = _; unfold execEvqHeadWrite; rfl
  | faultHeadWrite value => apply Exists.intro; intro s; show execFaultHeadWrite value s = _; unfold execFaultHeadWrite; rfl
  | release => apply Exists.intro; intro s; show execRelease s = _; unfold execRelease; rfl
  | burn value => apply Exists.intro; intro s; show execBurn value s = _; unfold execBurn; rfl
  | burnDone => apply Exists.intro; intro s; show execBurnDone s = _; unfold execBurnDone; rfl
  | revoke value => apply Exists.intro; intro s; show execRevoke value s = _; unfold execRevoke; rfl
  | tkoValueWrite k value => apply Exists.intro; intro s; show execTkoValueWrite k value s = _; unfold execTkoValueWrite; rfl
  | coPwrCapWrite value => apply Exists.intro; intro s; show execCoPwrCapWrite value s = _; unfold execCoPwrCapWrite; rfl
  | epTopologyWrite which value => apply Exists.intro; intro s; show execEpTopologyWrite which value s = _; unfold execEpTopologyWrite; rfl
  | secBootDeadlineWrite value => apply Exists.intro; intro s; show execSecBootDeadlineWrite value s = _; unfold execSecBootDeadlineWrite; rfl
  | registerWrite bar offset size value => apply Exists.intro; intro s; show execRegisterWrite bar offset size value s = _; unfold execRegisterWrite; rfl
  | muClrSat st bay => apply Exists.intro; intro s; show execMuClrSat st bay s = _; unfold execMuClrSat; rfl
  | muClrCe st bay => apply Exists.intro; intro s; show execMuClrCe st bay s = _; unfold execMuClrCe; rfl
  | vuClrSat st vu => apply Exists.intro; intro s; show execVuClrSat st vu s = _; unfold execVuClrSat; rfl
  | vuClrNan st vu => apply Exists.intro; intro s; show execVuClrNan st vu s = _; unfold execVuClrNan; rfl
  | vuClrAmax st vu => apply Exists.intro; intro s; show execVuClrAmax st vu s = _; unfold execVuClrAmax; rfl
  | slabClrCe st bay => apply Exists.intro; intro s; show execSlabClrCe st bay s = _; unfold execSlabClrCe; rfl
  | slabClrUe st bay => apply Exists.intro; intro s; show execSlabClrUe st bay s = _; unfold execSlabClrUe; rfl
  | slabClrConf st bay => apply Exists.intro; intro s; show execSlabClrConf st bay s = _; unfold execSlabClrConf; rfl
  | slabClrUnsched st bay => apply Exists.intro; intro s; show execSlabClrUnsched st bay s = _; unfold execSlabClrUnsched; rfl
  | ptClrOvf st bay => apply Exists.intro; intro s; show execPtClrOvf st bay s = _; unfold execPtClrOvf; rfl
  | ptClrBadtag st bay => apply Exists.intro; intro s; show execPtClrBadtag st bay s = _; unfold execPtClrBadtag; rfl
  | qClrLenerr st => apply Exists.intro; intro s; show execQClrLenerr st s = _; unfold execQClrLenerr; rfl
  | qClrSat st => apply Exists.intro; intro s; show execQClrSat st s = _; unfold execQClrSat; rfl
  | qClrLeftover st => apply Exists.intro; intro s; show execQClrLeftover st s = _; unfold execQClrLeftover; rfl
  | qClrRefused st => apply Exists.intro; intro s; show execQClrRefused st s = _; unfold execQClrRefused; rfl
  | qClrQsel st => apply Exists.intro; intro s; show execQClrQsel st s = _; unfold execQClrQsel; rfl
  | tkClrLost st => apply Exists.intro; intro s; show execTkClrLost st s = _; unfold execTkClrLost; rfl
  | tkoClrPlain => apply Exists.intro; intro s; show execTkoClrPlain s = _; unfold execTkoClrPlain; rfl
  | meClrMerged st mask => apply Exists.intro; intro s; show execMeClrMerged st mask s = _; unfold execMeClrMerged; rfl
  | meClrRls st => apply Exists.intro; intro s; show execMeClrRls st s = _; unfold execMeClrRls; rfl
  | dmClrCe ch => apply Exists.intro; intro s; show execDmClrCe ch s = _; unfold execDmClrCe; rfl
  | dmClrUe ch => apply Exists.intro; intro s; show execDmClrUe ch s = _; unfold execDmClrUe; rfl
  | dmClrTt ch => apply Exists.intro; intro s; show execDmClrTt ch s = _; unfold execDmClrTt; rfl
  | epClrTimeouts => apply Exists.intro; intro s; show execEpClrTimeouts s = _; unfold execEpClrTimeouts; rfl
  | epClrLate => apply Exists.intro; intro s; show execEpClrLate s = _; unfold execEpClrLate; rfl
  | epClrTarget => apply Exists.intro; intro s; show execEpClrTarget s = _; unfold execEpClrTarget; rfl
  | epClrErr port => apply Exists.intro; intro s; show execEpClrErr port s = _; unfold execEpClrErr; rfl
  | epClrDiscard port => apply Exists.intro; intro s; show execEpClrDiscard port s = _; unfold execEpClrDiscard; rfl
  | ilClrRefusals => apply Exists.intro; intro s; show execIlClrRefusals s = _; unfold execIlClrRefusals; rfl
  | ttClrStable => apply Exists.intro; intro s; show execTtClrStable s = _; unfold execTtClrStable; rfl
  | ttClrAbort => apply Exists.intro; intro s; show execTtClrAbort s = _; unfold execTtClrAbort; rfl
  | ttClrMiss => apply Exists.intro; intro s; show execTtClrMiss s = _; unfold execTtClrMiss; rfl
  | coClrBar2 => apply Exists.intro; intro s; show execCoClrBar2 s = _; unfold execCoClrBar2; rfl
  | coClrEvlost => apply Exists.intro; intro s; show execCoClrEvlost s = _; unfold execCoClrEvlost; rfl
  | gangClrRepairs => apply Exists.intro; intro s; show execGangClrRepairs s = _; unfold execGangClrRepairs; rfl
  | gangClrVotes => apply Exists.intro; intro s; show execGangClrVotes s = _; unfold execGangClrVotes; rfl
  | faultClrLost => apply Exists.intro; intro s; show execFaultClrLost s = _; unfold execFaultClrLost; rfl
  | faultClrDrain => apply Exists.intro; intro s; show execFaultClrDrain s = _; unfold execFaultClrDrain; rfl
  | cdcClrOverruns => apply Exists.intro; intro s; show execCdcClrOverruns s = _; unfold execCdcClrOverruns; rfl
  | cdcClrTimeouts => apply Exists.intro; intro s; show execCdcClrTimeouts s = _; unfold execCdcClrTimeouts; rfl
  | bar2Read addr len => apply Exists.intro; intro s; show execBar2Read addr len s = _; unfold execBar2Read; rfl
  | bar2Write addr data => apply Exists.intro; intro s; show execBar2Write addr data s = _; unfold execBar2Write; rfl
  | pcieConfigRequest write reg value => apply Exists.intro; intro s; show execPcieConfigRequest write reg value s = _; unfold execPcieConfigRequest; rfl
  | sbNop st => apply Exists.intro; intro s; show execSbNop st s = _; unfold execSbNop; rfl
  | sbEnd st => apply Exists.intro; intro s; show execSbEnd st s = _; unfold execSbEnd; rfl
  | sbJmp st => apply Exists.intro; intro s; show execSbJmp st s = _; unfold execSbJmp; rfl
  | sbBnz st => apply Exists.intro; intro s; show execSbBnz st s = _; unfold execSbBnz; rfl
  | sbLoop st => apply Exists.intro; intro s; show execSbLoop st s = _; unfold execSbLoop; rfl
  | sbLi st => apply Exists.intro; intro s; show execSbLi st s = _; unfold execSbLi; rfl
  | sbLih st => apply Exists.intro; intro s; show execSbLih st s = _; unfold execSbLih; rfl
  | sbAlu st => apply Exists.intro; intro s; show execSbAlu st s = _; unfold execSbAlu; rfl
  | sbFpu st => apply Exists.intro; intro s; show execSbFpu st s = _; unfold execSbFpu; rfl
  | sbRecv st => apply Exists.intro; intro s; show execSbRecv st s = _; unfold execSbRecv; rfl
  | sbSend st => apply Exists.intro; intro s; show execSbSend st s = _; unfold execSbSend; rfl
  | sbCtl st => apply Exists.intro; intro s; show execSbCtl st s = _; unfold execSbCtl; rfl
  | sbMugo st => apply Exists.intro; intro s; show execSbMugo st s = _; unfold execSbMugo; rfl
  | sbVugo st => apply Exists.intro; intro s; show execSbVugo st s = _; unfold execSbVugo; rfl
  | sbJoin st => apply Exists.intro; intro s; show execSbJoin st s = _; unfold execSbJoin; rfl
  | sbSig st => apply Exists.intro; intro s; show execSbSig st s = _; unfold execSbSig; rfl
  | sbWait st => apply Exists.intro; intro s; show execSbWait st s = _; unfold execSbWait; rfl
  | sbFence st => apply Exists.intro; intro s; show execSbFence st s = _; unfold execSbFence; rfl
  | sbTkrd st => apply Exists.intro; intro s; show execSbTkrd st s = _; unfold execSbTkrd; rfl
  | sbTicket st => apply Exists.intro; intro s; show execSbTicket st s = _; unfold execSbTicket; rfl
  | sbTkld st => apply Exists.intro; intro s; show execSbTkld st s = _; unfold execSbTkld; rfl
  | sbTkst st => apply Exists.intro; intro s; show execSbTkst st s = _; unfold execSbTkst; rfl
  | sbMgo st => apply Exists.intro; intro s; show execSbMgo st s = _; unfold execSbMgo; rfl
  | sbMgor st => apply Exists.intro; intro s; show execSbMgor st s = _; unfold execSbMgor; rfl
  | sbMjoin st => apply Exists.intro; intro s; show execSbMjoin st s = _; unfold execSbMjoin; rfl
  | sbMstat st => apply Exists.intro; intro s; show execSbMstat st s = _; unfold execSbMstat; rfl
  | sbRld st => apply Exists.intro; intro s; show execSbRld st s = _; unfold execSbRld; rfl
  | sbRst st => apply Exists.intro; intro s; show execSbRst st s = _; unfold execSbRst; rfl
  | sbRsig st => apply Exists.intro; intro s; show execSbRsig st s = _; unfold execSbRsig; rfl
  | sbRwait st => apply Exists.intro; intro s; show execSbRwait st s = _; unfold execSbRwait; rfl
  | sbRtkt st => apply Exists.intro; intro s; show execSbRtkt st s = _; unfold execSbRtkt; rfl
  | sbRmsg st => apply Exists.intro; intro s; show execSbRmsg st s = _; unfold execSbRmsg; rfl
  | sbRstat st => apply Exists.intro; intro s; show execSbRstat st s = _; unfold execSbRstat; rfl
  | sbStop st => apply Exists.intro; intro s; show execSbStop st s = _; unfold execSbStop; rfl
  | sbMilepost st => apply Exists.intro; intro s; show execSbMilepost st s = _; unfold execSbMilepost; rfl
  | unitCompletionSeen st kind unit => apply Exists.intro; intro s; show execUnitCompletionSeen st kind unit s = _; unfold execUnitCompletionSeen; rfl
  | muStart st bay => apply Exists.intro; intro s; show execMuStart st bay s = _; unfold execMuStart; rfl
  | weightBlockLoad st bay => apply Exists.intro; intro s; show execWeightBlockLoad st bay s = _; unfold execWeightBlockLoad; rfl
  | rowIssue st bay => apply Exists.intro; intro s; show execRowIssue st bay s = _; unfold execRowIssue; rfl
  | accumulatorUpdate st bay => apply Exists.intro; intro s; show execAccumulatorUpdate st bay s = _; unfold execAccumulatorUpdate; rfl
  | slotDrain st bay => apply Exists.intro; intro s; show execSlotDrain st bay s = _; unfold execSlotDrain; rfl
  | vuStart st vu => apply Exists.intro; intro s; show execVuStart st vu s = _; unfold execVuStart; rfl
  | vuNop st vu => apply Exists.intro; intro s; show execVuNop st vu s = _; unfold execVuNop; rfl
  | vuCopy st vu => apply Exists.intro; intro s; show execVuCopy st vu s = _; unfold execVuCopy; rfl
  | vuAdd st vu => apply Exists.intro; intro s; show execVuAdd st vu s = _; unfold execVuAdd; rfl
  | vuSub st vu => apply Exists.intro; intro s; show execVuSub st vu s = _; unfold execVuSub; rfl
  | vuMul st vu => apply Exists.intro; intro s; show execVuMul st vu s = _; unfold execVuMul; rfl
  | vuFma st vu => apply Exists.intro; intro s; show execVuFma st vu s = _; unfold execVuFma; rfl
  | vuMin st vu => apply Exists.intro; intro s; show execVuMin st vu s = _; unfold execVuMin; rfl
  | vuMax st vu => apply Exists.intro; intro s; show execVuMax st vu s = _; unfold execVuMax; rfl
  | vuAbs st vu => apply Exists.intro; intro s; show execVuAbs st vu s = _; unfold execVuAbs; rfl
  | vuNeg st vu => apply Exists.intro; intro s; show execVuNeg st vu s = _; unfold execVuNeg; rfl
  | vuCmplt st vu => apply Exists.intro; intro s; show execVuCmplt st vu s = _; unfold execVuCmplt; rfl
  | vuSel st vu => apply Exists.intro; intro s; show execVuSel st vu s = _; unfold execVuSel; rfl
  | vuDiv st vu => apply Exists.intro; intro s; show execVuDiv st vu s = _; unfold execVuDiv; rfl
  | vuSqrt st vu => apply Exists.intro; intro s; show execVuSqrt st vu s = _; unfold execVuSqrt; rfl
  | vuRcp st vu => apply Exists.intro; intro s; show execVuRcp st vu s = _; unfold execVuRcp; rfl
  | vuRcpe st vu => apply Exists.intro; intro s; show execVuRcpe st vu s = _; unfold execVuRcpe; rfl
  | vuRsqe st vu => apply Exists.intro; intro s; show execVuRsqe st vu s = _; unfold execVuRsqe; rfl
  | vuExp st vu => apply Exists.intro; intro s; show execVuExp st vu s = _; unfold execVuExp; rfl
  | vuLog st vu => apply Exists.intro; intro s; show execVuLog st vu s = _; unfold execVuLog; rfl
  | vuRowsum st vu => apply Exists.intro; intro s; show execVuRowsum st vu s = _; unfold execVuRowsum; rfl
  | vuRowmax st vu => apply Exists.intro; intro s; show execVuRowmax st vu s = _; unfold execVuRowmax; rfl
  | vuRowamax st vu => apply Exists.intro; intro s; show execVuRowamax st vu s = _; unfold execVuRowamax; rfl
  | vuCvt st vu => apply Exists.intro; intro s; show execVuCvt st vu s = _; unfold execVuCvt; rfl
  | vuScalesel st vu => apply Exists.intro; intro s; show execVuScalesel st vu s = _; unfold execVuScalesel; rfl
  | vuResultWrite st vu => apply Exists.intro; intro s; show execVuResultWrite st vu s = _; unfold execVuResultWrite; rfl
  | elasticResultDue st => apply Exists.intro; intro s; show execElasticResultDue st s = _; unfold execElasticResultDue; rfl
  | slabAccess st bay => apply Exists.intro; intro s; show execSlabAccess st bay s = _; unfold execSlabAccess; rfl
  | slabScrubRead st => apply Exists.intro; intro s; show execSlabScrubRead st s = _; unfold execSlabScrubRead; rfl
  | messageOffer st bay route => apply Exists.intro; intro s; show execMessageOffer st bay route s = _; unfold execMessageOffer; rfl
  | admissionRequest st q => apply Exists.intro; intro s; show execAdmissionRequest st q s = _; unfold execAdmissionRequest; rfl
  | admission st q => apply Exists.intro; intro s; show execAdmission st q s = _; unfold execAdmission; rfl
  | admissionGrant st bay route => apply Exists.intro; intro s; show execAdmissionGrant st bay route s = _; unfold execAdmissionGrant; rfl
  | wordSend st bay route => apply Exists.intro; intro s; show execWordSend st bay route s = _; unfold execWordSend; rfl
  | wordArrival st q => apply Exists.intro; intro s; show execWordArrival st q s = _; unfold execWordArrival; rfl
  | queueRead st q => apply Exists.intro; intro s; show execQueueRead st q s = _; unfold execQueueRead; rfl
  | pointsDecision st bay entry => apply Exists.intro; intro s; show execPointsDecision st bay entry s = _; unfold execPointsDecision; rfl
  | epochEnd st bay entry => apply Exists.intro; intro s; show execEpochEnd st bay entry s = _; unfold execEpochEnd; rfl
  | combination st q => apply Exists.intro; intro s; show execCombination st q s = _; unfold execCombination; rfl
  | freezeBegin job => apply Exists.intro; intro s; show execFreezeBegin job s = _; unfold execFreezeBegin; rfl
  | freezeEnd job => apply Exists.intro; intro s; show execFreezeEnd job s = _; unfold execFreezeEnd; rfl
  | quorumFire job => apply Exists.intro; intro s; show execQuorumFire job s = _; unfold execQuorumFire; rfl
  | spillDone job => apply Exists.intro; intro s; show execSpillDone job s = _; unfold execSpillDone; rfl
  | tokenOpArrival st slot => apply Exists.intro; intro s; show execTokenOpArrival st slot s = _; unfold execTokenOpArrival; rfl
  | waiterWake st => apply Exists.intro; intro s; show execWaiterWake st s = _; unfold execWaiterWake; rfl
  | ticketRequestArrival k => apply Exists.intro; intro s; show execTicketRequestArrival k s = _; unfold execTicketRequestArrival; rfl
  | ticketReply st => apply Exists.intro; intro s; show execTicketReply st s = _; unfold execTicketReply; rfl
  | engineStart st e => apply Exists.intro; intro s; show execEngineStart st e s = _; unfold execEngineStart; rfl
  | engineRequest st e => apply Exists.intro; intro s; show execEngineRequest st e s = _; unfold execEngineRequest; rfl
  | rlsFill st tag => apply Exists.intro; intro s; show execRlsFill st tag s = _; unfold execRlsFill; rfl
  | descriptorComplete st e => apply Exists.intro; intro s; show execDescriptorComplete st e s = _; unfold execDescriptorComplete; rfl
  | ddrRequest ch => apply Exists.intro; intro s; show execDdrRequest ch s = _; unfold execDdrRequest; rfl
  | ddrReadData ch => apply Exists.intro; intro s; show execDdrReadData ch s = _; unfold execDdrReadData; rfl
  | ddrReorderServe ch pick => apply Exists.intro; intro s; show execDdrReorderServe ch pick s = _; unfold execDdrReorderServe; rfl
  | refreshGap ch rank => apply Exists.intro; intro s; show execRefreshGap ch rank s = _; unfold execRefreshGap; rfl
  | ddrWriteBack ch => apply Exists.intro; intro s; show execDdrWriteBack ch s = _; unfold execDdrWriteBack; rfl
  | ddrScrubRead ch => apply Exists.intro; intro s; show execDdrScrubRead ch s = _; unfold execDdrScrubRead; rfl
  | ddrRetrainDone ch => apply Exists.intro; intro s; show execDdrRetrainDone ch s = _; unfold execDdrRetrainDone; rfl
  | ddrTrainingDone trained capacity => apply Exists.intro; intro s; show execDdrTrainingDone trained capacity s = _; unfold execDdrTrainingDone; rfl
  | portTrainingDone port => apply Exists.intro; intro s; show execPortTrainingDone port s = _; unfold execPortTrainingDone; rfl
  | ident port device torus dir versions => apply Exists.intro; intro s; show execIdent port device torus dir versions s = _; unfold execIdent; rfl
  | noSignal port => apply Exists.intro; intro s; show execNoSignal port s = _; unfold execNoSignal; rfl
  | hostReadCompletion tag data => apply Exists.intro; intro s; show execHostReadCompletion tag data s = _; unfold execHostReadCompletion; rfl
  | completionTimeout tag => apply Exists.intro; intro s; show execCompletionTimeout tag s = _; unfold execCompletionTimeout; rfl
  | flitReceive port flit fec => apply Exists.intro; intro s; show execFlitReceive port flit fec s = _; unfold execFlitReceive; rfl
  | nak port seq => apply Exists.intro; intro s; show execNak port seq s = _; unfold execNak; rfl
  | linkAckDue port => apply Exists.intro; intro s; show execLinkAckDue port s = _; unfold execLinkAckDue; rfl
  | laneLockLoss port => apply Exists.intro; intro s; show execLaneLockLoss port s = _; unfold execLaneLockLoss; rfl
  | ackTimeout port => apply Exists.intro; intro s; show execAckTimeout port s = _; unfold execAckTimeout; rfl
  | retrainAttemptDone port ok => apply Exists.intro; intro s; show execRetrainAttemptDone port ok s = _; unfold execRetrainAttemptDone; rfl
  | packetTransit pkt => apply Exists.intro; intro s; show execPacketTransit pkt s = _; unfold execPacketTransit; rfl
  | remoteLoad pkt => apply Exists.intro; intro s; show execRemoteLoad pkt s = _; unfold execRemoteLoad; rfl
  | remoteStore pkt => apply Exists.intro; intro s; show execRemoteStore pkt s = _; unfold execRemoteStore; rfl
  | remoteMessage pkt => apply Exists.intro; intro s; show execRemoteMessage pkt s = _; unfold execRemoteMessage; rfl
  | remoteCombine pkt => apply Exists.intro; intro s; show execRemoteCombine pkt s = _; unfold execRemoteCombine; rfl
  | remoteTokenSignal pkt => apply Exists.intro; intro s; show execRemoteTokenSignal pkt s = _; unfold execRemoteTokenSignal; rfl
  | remoteTokenWait pkt => apply Exists.intro; intro s; show execRemoteTokenWait pkt s = _; unfold execRemoteTokenWait; rfl
  | remoteTicketFetch pkt => apply Exists.intro; intro s; show execRemoteTicketFetch pkt s = _; unfold execRemoteTicketFetch; rfl
  | remoteResponse pkt => apply Exists.intro; intro s; show execRemoteResponse pkt s = _; unfold execRemoteResponse; rfl
  | remoteTimeout st tag => apply Exists.intro; intro s; show execRemoteTimeout st tag s = _; unfold execRemoteTimeout; rfl
  | portDrainDone port => apply Exists.intro; intro s; show execPortDrainDone port s = _; unfold execPortDrainDone; rfl
  | slotBoundary => apply Exists.intro; intro s; show execSlotBoundary s = _; unfold execSlotBoundary; rfl
  | runEnd job => apply Exists.intro; intro s; show execRunEnd job s = _; unfold execRunEnd; rfl
  | installationStart job => apply Exists.intro; intro s; show execInstallationStart job s = _; unfold execInstallationStart; rfl
  | installFrameWrite job => apply Exists.intro; intro s; show execInstallFrameWrite job s = _; unfold execInstallFrameWrite; rfl
  | bayPlaneSwitch st bay => apply Exists.intro; intro s; show execBayPlaneSwitch st bay s = _; unfold execBayPlaneSwitch; rfl
  | vuPlaneSwitch st vu => apply Exists.intro; intro s; show execVuPlaneSwitch st vu s = _; unfold execVuPlaneSwitch; rfl
  | sbPlaneTakeup st => apply Exists.intro; intro s; show execSbPlaneTakeup st s = _; unfold execSbPlaneTakeup; rfl
  | consistTimeZero job => apply Exists.intro; intro s; show execConsistTimeZero job s = _; unfold execConsistTimeZero; rfl
  | jobEnd job => apply Exists.intro; intro s; show execJobEnd job s = _; unfold execJobEnd; rfl
  | completionRecord job => apply Exists.intro; intro s; show execCompletionRecord job s = _; unfold execCompletionRecord; rfl
  | quiescence job => apply Exists.intro; intro s; show execQuiescence job s = _; unfold execQuiescence; rfl
  | stablingDone job => apply Exists.intro; intro s; show execStablingDone job s = _; unfold execStablingDone; rfl
  | restoreDone job => apply Exists.intro; intro s; show execRestoreDone job s = _; unfold execRestoreDone; rfl
  | jobFaultStop job => apply Exists.intro; intro s; show execJobFaultStop job s = _; unfold execJobFaultStop; rfl
  | drainForced fn st unit => apply Exists.intro; intro s; show execDrainForced fn st unit s = _; unfold execDrainForced; rfl
  | eventTaken => apply Exists.intro; intro s; show execEventTaken s = _; unfold execEventTaken; rfl
  | cdcOverrun far => apply Exists.intro; intro s; show execCdcOverrun far s = _; unfold execCdcOverrun; rfl
  | cdcTimeout far idx => apply Exists.intro; intro s; show execCdcTimeout far idx s = _; unfold execCdcTimeout; rfl
  | pllLockLoss far idx => apply Exists.intro; intro s; show execPllLockLoss far idx s = _; unfold execPllLockLoss; rfl
  | sysclkLoss => apply Exists.intro; intro s; show execSysclkLoss s = _; unfold execSysclkLoss; rfl
  | gangerFrameCheck => apply Exists.intro; intro s; show execGangerFrameCheck s = _; unfold execGangerFrameCheck; rfl
  | stationWake st => apply Exists.intro; intro s; show execStationWake st s = _; unfold execStationWake; rfl
  | powerTransitionDone st => apply Exists.intro; intro s; show execPowerTransitionDone st s = _; unfold execPowerTransitionDone; rfl
  | domainReset kind idx => apply Exists.intro; intro s; show execDomainReset kind idx s = _; unfold execDomainReset; rfl
  | stationWipeDone st => apply Exists.intro; intro s; show execStationWipeDone st s = _; unfold execStationWipeDone; rfl
  | coldReset => apply Exists.intro; intro s; show execColdReset s = _; unfold execColdReset; rfl
  | warmDeviceReset => apply Exists.intro; intro s; show execWarmDeviceReset s = _; unfold execWarmDeviceReset; rfl
  | perstNDeassert => apply Exists.intro; intro s; show execPerstNDeassert s = _; unfold execPerstNDeassert; rfl
  | pcieHotReset => apply Exists.intro; intro s; show execPcieHotReset s = _; unfold execPcieHotReset; rfl
  | bootDeadline => apply Exists.intro; intro s; show execBootDeadline s = _; unfold execBootDeadline; rfl
  | railExcursion => apply Exists.intro; intro s; show execRailExcursion s = _; unfold execRailExcursion; rfl
  | thermalTrip => apply Exists.intro; intro s; show execThermalTrip s = _; unfold execThermalTrip; rfl
  | sensorUpdate temps avg1 avg100 => apply Exists.intro; intro s; show execSensorUpdate temps avg1 avg100 s = _; unfold execSensorUpdate; rfl
  | i3cPrivateWrite data => apply Exists.intro; intro s; show execI3cPrivateWrite data s = _; unfold execI3cPrivateWrite; rfl
  | i3cPrivateRead => apply Exists.intro; intro s; show execI3cPrivateRead s = _; unfold execI3cPrivateRead; rfl
  | setdasa addr => apply Exists.intro; intro s; show execSetdasa addr s = _; unfold execSetdasa; rfl
  | entdaa addr => apply Exists.intro; intro s; show execEntdaa addr s = _; unfold execEntdaa; rfl
  | rstdaa => apply Exists.intro; intro s; show execRstdaa s = _; unfold execRstdaa; rfl
  | enec events => apply Exists.intro; intro s; show execEnec events s = _; unfold execEnec; rfl
  | disec events => apply Exists.intro; intro s; show execDisec events s = _; unfold execDisec; rfl
  | getpid => apply Exists.intro; intro s; show execGetpid s = _; unfold execGetpid; rfl
  | getstatus => apply Exists.intro; intro s; show execGetstatus s = _; unfold execGetstatus; rfl
  | samplePreload pins load => apply Exists.intro; intro s; show execSamplePreload pins load s = _; unfold execSamplePreload; rfl
  | bypass => apply Exists.intro; intro s; show execBypass s = _; unfold execBypass; rfl
  | idcode => apply Exists.intro; intro s; show execIdcode s = _; unfold execIdcode; rfl
  | extest => apply Exists.intro; intro s; show execExtest s = _; unfold execExtest; rfl
  | lossOfPower => apply Exists.intro; intro s; show execLossOfPower s = _; unfold execLossOfPower; rfl
  | linkEntryIntoL0 => apply Exists.intro; intro s; show execLinkEntryIntoL0 s = _; unfold execLinkEntryIntoL0; rfl

/-- The two commands that need nothing. -/
theorem needOf_always (c : Instr) : needOf c = .always ↔ c = .coldReset ∨ c = .lossOfPower := by
  cases c <;> first | exact ⟨fun _ => .inl rfl, fun _ => rfl⟩ | exact ⟨fun _ => .inr rfl, fun _ => rfl⟩ | exact ⟨nofun, nofun⟩

end Sys2Proof.Machine
end

