-- ==== Sys2Proof/Laws/Grid.lean ====
section
/-! SUPPORT. The grid at run time: what taking a way changes, and where a booked slot lies. -/

namespace Sys2Proof.Machine
open Sys2Proof

@[simp] theorem Mach.takeWay_mem (m : Mach) (w : Way) : (m.takeWay w).mem = m.mem := rfl
@[simp] theorem Mach.takeWay_log (m : Mach) (w : Way) : (m.takeWay w).log = m.log := rfl
@[simp] theorem Mach.takeWay_dev (m : Mach) (w : Way) : (m.takeWay w).dev =
    { m.dev with gridUsed := (m.dev.gridUsed.filter fun s => decide (m.now ≤ s.1)) ++ w.slots } := rfl

@[simp] theorem Way.on_slots (w : Way) (n : Nat) : (w.on n).slots = w.slots := rfl
@[simp] theorem Way.on_there (w : Way) (n : Nat) : (w.on n).there = w.there + n := rfl
@[simp] theorem Way.take_there (w : Way) (s : Nat × Nat) : (w.take s).there = s.1 := rfl
@[simp] theorem Way.take_slots (w : Way) (s : Nat × Nat) : (w.take s).slots = w.slots ++ [s] := rfl

/-- The search for a free slot goes on by whole turns of a wheel. -/
theorem slotGo_mod (used : List (Nat × Nat)) (id n t : Nat) : slotGo used id n t % 64 = t % 64 := by
  induction n generalizing t with
  | zero => rfl
  | succ n ih => simp only [slotGo]; split <;> simp [ih]

theorem slotGo_ge (used : List (Nat × Nat)) (id n t : Nat) : t ≤ slotGo used id n t := by
  induction n generalizing t with
  | zero => exact Nat.le_refl t
  | succ n ih =>
    simp only [slotGo]; split
    · exact Nat.le_trans (by omega) (ih (t + 64))
    · exact Nat.le_refl t

/-- A booking's slot lies in its entry of the wheel, and not before the cycle asked for (R142). -/
theorem Booking.free_mod (b : Booking) (used : List (Nat × Nat)) (t : Nat) : b.free used t % 64 = b.entry % 64 := by
  simp only [Booking.free, slotGo_mod]; omega
theorem Booking.free_ge (b : Booking) (used : List (Nat × Nat)) (t : Nat) : t ≤ b.free used t :=
  Nat.le_trans (Nat.le_add_right _ _) (slotGo_ge _ _ _ _)

/-- A word that takes a way changes no store, and leaves the registers. -/
theorem Mach.ride_mem {m m' : Mach} {u : UnitRef} {arc : Bool} {t due : Nat} {f : Nat → Option Way}
    (h : m.ride u arc t f = some (due, m')) : m'.mem = m.mem ∧ m'.log = m.log := by
  simp only [Mach.ride, Option.map_eq_some_iff, Prod.mk.injEq] at h
  obtain ⟨w, -, -, rfl⟩ := h
  simp only [Mach.noteResult]
  split
  · exact ⟨rfl, rfl⟩
  · exact ⟨rfl, rfl⟩

end Sys2Proof.Machine
end

