-- ==== Sys2Proof/Laws/Rings.lean ====
section
/-! SUPPORT. Small facts about the command rings and MSI-X. -/

namespace Sys2Proof.Machine
open Sys2Proof

/-- An MSI-X message changes the pending bits and the outputs alone. -/
theorem Mach.msix_dev (m : Mach) (v : Nat) : ∃ out pend,
    m.msix v = { m with dev := { m.dev with host := { m.dev.host with msixPend := pend }, out := out ++ m.dev.out } } ∧
      ∀ o ∈ out, o = Output.msix v := by
  unfold Mach.msix
  simp only
  split
  · split
    · exact ⟨[], _, rfl, by simp⟩
    · exact ⟨[.msix v], m.dev.host.msixPend, rfl, by simp⟩
  · exact ⟨[], m.dev.host.msixPend, rfl, by simp⟩

theorem Mach.ring_setRing (m : Mach) (r r' : Nat) (x : Ring) :
    (m.setRing r x).ring r' = if r = r' then x else m.ring r' := by
  simp [Mach.ring, Mach.setRing]

/-- A command that its ring serves comes to its own effect. -/
theorem Mach.command_served {m : Mach} {r op : Nat} {c : Cmd} (f : Cmd → Mach → Mach) (h : (m.ring r).cmd = some c)
    (ho : c.opcode = op) (hb : c.begun = false) (hw : m.waitsTurn r c = false)
    (hg : m.gate op = none) : m.command r op f = f c m := by
  simp [Mach.command, h, ho, hb, hw, hg]

/-- A command that the gates turn away is answered with their status alone. -/
theorem Mach.command_gated {m : Mach} {r op st : Nat} {c : Cmd} (f : Cmd → Mach → Mach) (h : (m.ring r).cmd = some c)
    (ho : c.opcode = op) (hb : c.begun = false) (hw : m.waitsTurn r c = false)
    (hg : m.gate op = some st) : m.command r op f = m.refuse r st 0 := by
  simp [Mach.command, h, ho, hb, hw, hg]

end Sys2Proof.Machine
end

