-- ==== Sys2Proof/Tests/Slice0.lean ====
section
/-! SUPPORT. Tests: ill-formed terms that the form check refuses, single commands with the values the spec gives, and
one witness theorem for each statement with hypotheses. -/

open Sys2Proof Sys2Proof.Machine

namespace Sys2Proof.Tests

set_option maxRecDepth 100000
set_option Elab.async false
set_option autoImplicit false
set_option linter.unusedVariables false

/-! ### Deciding hypotheses on concrete states -/

/-- The state that a command answers. -/
def getNext (o : Host.Outcome State Fault Refusal) : State := match o with | .next t => t | _ => State.reset
theorem eqErr {ε α : Type} [DecidableEq ε] {x : Except ε α} {e : ε}
    (h : (match x with | .error e' => decide (e' = e) | .ok _ => false) = true) : x = .error e := by
  cases x <;> simp_all
theorem eqOk {ε α : Type} [DecidableEq α] {x : Except ε α} {e : α}
    (h : (match x with | .ok e' => decide (e' = e) | .error _ => false) = true) : x = .ok e := by
  cases x <;> simp_all
theorem allHead {α : Type} {l : List α} {P : α → Prop} [DecidablePred P]
    (h : (match l with | d :: _ => decide (P d) | [] => true) = true) : ∀ d ds, l = d :: ds → P d := by
  intro d ds e; subst e; simpa using h
theorem allTwo {α β : Type} {a b : α} {y z : β} {P : α → β → Prop} (h : P a y ∧ P b z) :
    ∀ q x, (q = a ∧ x = y) ∨ (q = b ∧ x = z) → P q x := by
  rintro q x (⟨rfl, rfl⟩ | ⟨rfl, rfl⟩)
  · exact h.1
  · exact h.2
theorem tkoElse {s : State} {k : Nat} (h : ∀ e ∈ s.dev.stn, e.1 ≠ k → e.2.tkoOps = []) :
    ∀ n, n ≠ k → (s.view.stn n).tkoOps = [] := by
  intro n hn
  have : ∀ l : FMap Station, (∀ e ∈ l, e.1 ≠ k → e.2.tkoOps = []) → (fget {} l n).tkoOps = [] := by
    intro l
    induction l with
    | nil => intro _; rfl
    | cons e l ih =>
      intro hl
      by_cases he : e.1 = n
      · simpa [fget, ffind, he] using hl e (by simp) (by omega)
      · simpa [fget, ffind, he] using ih fun x hx => hl x (by simp [hx])
  exact this _ h
theorem exOk {ε α : Type} {x : Except ε α} {P : α → Prop} [DecidablePred P]
    (h : (match x with | .ok p => decide (P p) | .error _ => false) = true) : ∃ p, x = .ok p ∧ P p := by
  cases x with
  | error e => simp at h
  | ok p => exact ⟨p, rfl, by simpa using h⟩
theorem exErr {ε α : Type} {x : Except ε α} {P : ε → Prop} [DecidablePred P]
    (h : (match x with | .error p => decide (P p) | .ok _ => false) = true) : ∃ p, x = .error p ∧ P p := by
  cases x with
  | ok e => simp at h
  | error p => exact ⟨p, rfl, by simpa using h⟩

theorem sliceApp {a b c d : Bytes} {off n : Nat} (e : d = a ++ (b ++ c)) (ha : a.length = off) (hb : b.length = n) :
    slice d off n = b := by
  subst e ha hb
  have : List.drop a.length (a ++ (b ++ c)) = b ++ c := by simp
  simp [slice, padTo, this]

theorem sha3_length (m : Bytes) : (sha3 m).length = 64 := rfl

theorem digestOk {b pre f0 f1 hd tail : Bytes}
    (e : b = pre ++ (f0 ++ (f1 ++ (hd ++ (sha3 (pre ++ (sha3 (f0.take 1060) ++ sha3 (f1.take 1060))) ++ tail)))))
    (h : leNat b 16 4 = 1 ∧ leNat b 20 4 = 2 ∧ pre.length = 320 ∧ f0.length = 1064 ∧ f1.length = 1064 ∧ hd.length = 16) :
    (parseImage b).recomputed = (parseImage b).digest := by
  obtain ⟨h1, h2, h3, h4, h5, h6⟩ := h
  have d : slice b 2464 64 = sha3 (pre ++ (sha3 (f0.take 1060) ++ sha3 (f1.take 1060))) :=
    sliceApp (a := pre ++ (f0 ++ (f1 ++ hd))) (by simpa using e) (by simp; omega) (sha3_length _)
  have g0 : slice b 320 1064 = f0 := sliceApp e h3 h4
  have g1 : slice b 1384 1064 = f1 := sliceApp (a := pre ++ f0) (by simpa using e) (by simp; omega) h5
  have p : b.take 320 = pre := by subst e; simp [← h3]
  simp [Image.recomputed, Image.frameBytes, parseImage, h1, h2, d, g0, g1, p, List.range_succ]
theorem readOk {m : Mach} {b : Bytes} {len : Nat} {room : Nat → Bool}
    (h : (decide (¬ b.length < min 256 len) && (headerWrong b len).isNone && room (leNat b 20 4) &&
      decide (¬ b.length < len) &&
      ((List.range (parseImage b).nFrames).find? fun i => !frameSound i ((parseImage b).frameBytes i)).isNone &&
      m.signatureOk (parseImage b)) = true)
    (d : (parseImage b).recomputed = (parseImage b).digest) : m.readImage b len room = .ok (parseImage b) := by
  simp only [Bool.and_eq_true, decide_eq_true_eq, Option.isNone_iff_eq_none] at h
  obtain ⟨⟨⟨⟨⟨h1, h2⟩, h3⟩, h4⟩, h5⟩, h6⟩ := h
  simp [Mach.readImage, h1, h2, h3, h4, h5, h6, d]
theorem exOk' {ε α : Type} {x : Except ε α} (h : x.isOk = true) : ∃ p, x = .ok p := by
  cases x with
  | error e => simp [Except.isOk, Except.toBool] at h
  | ok p => exact ⟨p, rfl⟩
theorem allLines {α : Type} {ls : List α} {o : Option α} {c : Prop} [Decidable c] {P : α → Prop} [DecidablePred P]
    (h : (∀ l ∈ ls, P l) ∧ (∀ l ∈ o.toList, c → P l)) : ∀ l, l ∈ ls ∨ o = some l ∧ c → P l := by
  rintro l (hl | ⟨rfl, hc⟩)
  · exact h.1 l hl
  · exact h.2 l (by simp) hc
theorem exBelow {n : Nat} {P : Nat → Prop} [DecidablePred P] (h : ∃ c ∈ List.range n, P c) : ∃ c, c < n ∧ P c := by
  obtain ⟨c, hc, hp⟩ := h
  exact ⟨c, List.mem_range.mp hc, hp⟩
theorem someOf {x : Option (Bytes × Bool)} (h : x.isSome = true) :
    x = some ((x.getD ([], true)).1, (x.getD ([], true)).2) := by
  cases x with
  | none => simp at h
  | some a => rfl
theorem takeOf {x : Option (Bytes × Bool) × Mach} (h : x.1.isSome = true) :
    x = (some ((x.1.getD ([], true)).1, (x.1.getD ([], true)).2), x.2) := Prod.ext (someOf h) rfl
theorem getSome {α : Type} {x : Option α} {d : α} (h : x.isSome = true) : x = some (x.getD d) := by
  cases x with
  | none => simp at h
  | some a => rfl

/-! ### States, images and operands -/

def setD (f : Dev → Dev) (s : State) : State := { s with dev := f s.dev }
def clkOf (f : Clk → Clk) (s : State) : State := setD (fun d => { d with clk := f d.clk }) s
/-- A device with a register set, with a byte of DDR space, with a plane word, and with the running parts changed. -/
def setR (o v : Nat) (s : State) : State :=
  { s with mem := { s.mem with regs := storePut regReset s.mem.regs o (BitVec.ofNat 64 v) } }
/-- A device out of reset with its clocks running. -/
def up : State :=
  { State.reset with dev := { State.reset.dev with
      clk := { State.reset.dev.clk with perst := false, arclkOn := true, hclkOn := true, arclk := 1000 } } }
/-- A device whose firmware runs, with an interface version, DDR ready with 2^40 bytes, and Bus Master Enable. -/
def fw : State :=
  setR Reg.coIfVersion 0x301 <| setR 0x2100 (2 ^ 16) <| setR Reg.dmCapacity (2 ^ 40) <|
    setD (fun d => { d with boot := { d.boot with fw := true }, host := { d.host with cfg := [(1, 4)] } }) up
def off : State := { setR Reg.pwrCap 5 (clkOf (fun c => {c with powered := false}) fw) with mem := { slab := [(5, 9)], ddr := [(2^40 - 1, 8)], regs := [(Reg.pwrCap, 5)], plane := [(7, 9)] } }
def G (dev sp off : Nat) : Nat := dev * 2^46 + sp * 2^43 + off
def A : Nat := G (1 + 4 * 64) 2 40
def linesFor (addrs : List (Nat × Nat × Nat)) : List (Nat × Nat × Bytes) :=
  addrs.map fun x => (x.1, 15 * 2^28 + (240 + 8 + x.2.1) * 2^20 + x.2.2, (List.range 128).map fun i => BitVec.ofNat 8 (i * 37 + x.2.2 / 128 * 11 + x.1 * 91))
def L : List (Nat × Nat × Bytes) := linesFor ((List.range 10).flatMap fun k => [(2, 0, 128*k), (3, 1, 128 * k), (4, 2, 128*k), (5, 3, 128*k)])
def con (i : Nat) (c : Consist) (s : State) : State := setD (fun d => { d with consists := fput d.consists i c }) s
def cons0 : Consist := { decl := (List.range 39).map (· + 3), stations := 2 ^ 15 }
def job (j : Job) (h : Nat) (s : State) : State := setD (fun d => { d with jobs := fput d.jobs h j }) s
def job0 : Job := { consist := 5, phase := .running, started := true, cyc := 500 }
def ga (dev sp off : Nat) : Nat := dev * 2^46 + sp * 2^43 + off
def rd (e : Nat) : DdrReq := { user := .bar2 3, off := 15*4096 + 260, len := 3, data := [1, 2, 3], err := e, due := 1000 }
def py : Piece := { run := 4, row := 2, off := 200, src := 5, dst := ga 0 0 (2^32 + 4096*12 + 28), len := 100, rd := 8, stage := 1, data := List.replicate 100 (7:Byte), due := 5000, arc := true }
def pc : Piece := { py with stage := 3, due := 1000, left := 0 }
def stn (i : Nat) (x : Station) (s : State) : State := setD (fun d => { d with stn := fput d.stn i x }) s
/-- A running job of handle 9 on station 15, whose signal box runs at instruction 7. -/
def run0 : State := con 5 cons0 (job job0 9 (stn 15 { job := some 9, sb := { running := true, pc := 7, next := 400, regs := [(1, 0x8000000000000001), (2, 5)] } } fw))
def setP (k v : Nat) (s : State) : State :=
  { s with mem := { s.mem with plane := storePut planeReset s.mem.plane k (BitVec.ofNat 64 v) } }
def vuW (o v : Nat) (s : State) : State := setP (planeKey 15 false 0 (0x40000 + 31 * 0x2000 + o)) v s
def sd (i ty bay lw addr : Nat) (bc : Nat := 0) (inner : Nat := 100) (outer : Nat := 2) (s : State) : State :=
  vuW (0x400+16*i) (ty*4 + bay * 64 + lw * 512 + bc * 2048) (vuW (0x404 + 16*i) addr (vuW (0x408 + 16*i) (inner + outer*4096 + 2^24) (vuW (0x40C+16*i) (0x40) s)))
def base0 (ty : Nat) : State := sd 1 ty 0 0 0 (s := sd 2 ty 1 0 0 (s := sd 3 ty 2 0 0 (s := sd 4 11 3 0 0 (s := sd 5 ty 4 0 0 (s := vuW 0 3 run0)))))
def row0 : MuRow := { due := 495, slot := 15, tag := 77, int := true, isInit := true, first := true, rowInTile := 15, groups := [(List.range 64).map fun (c : Nat) => (0, (c : Int) - 5, 0), (List.range 64).map fun c => (0, 2 ^ 31 - 3, 0)] }
def fl : MuRow := { row0 with int := false, isInit := false, colBase := 32, groups := [(List.range 32).map fun (c : Nat) => (if c = 3 then 1 else if c = 4 then 3 else 0, (c : Int) - 5, -3)] }
def ins (op rnd f64 flags dst a b c m : Nat) (imm : Nat := 0) (s : State) : State :=
  vuW 0x10F0 (op + rnd * 64 + f64 * 512 + flags) (vuW 0x10F4 (dst + a * 32 + b * 1024 + c * 2^15 + m * 2^20) (vuW 0x10F8 imm s))
def vuS (u : Vu) (s : State) : State := setD (fun d => { d with vu := fput d.vu (15 * 32 + 31) u }) s
def B (ty op rnd f64 fl m imm : Nat) (r : VuRun) : State := vuS { run := some r, lines := L, writes := [{due := 3}] } (ins op rnd f64 fl 5 1 2 3 m imm (base0 ty))
def C (ty op rnd f64 fl m imm inner outer : Nat) (r : VuRun) : State := vuS { run := some r, lines := L, writes := [{due := 3}] } (ins op rnd f64 fl 5 1 2 3 m imm (
 sd 1 ty 0 0 0 0 inner outer (s := sd 2 ty 1 0 0 0 inner outer (s := sd 3 ty 2 0 0 0 inner outer (s := sd 4 11 3 0 0 0 inner outer (s := sd 5 0 4 0 0 0 inner outer (s := vuW 0 3 run0)))))))
def JS (j : Job) : State := job j 4095 (con 5 cons0 (stn 15 { job := some 4095, sb := {running := true} } fw))
def je (f : Job → Job) : Job := f { consist := 5, phase := .running, started := true, cyc := 500, result := 0x9000, seq := 12, deadline := 2000 }
def jend (f : Job → Job) : Job := f (je fun j => {j with progEnd := 2^15})
def jx (f : Job → Job) : State := stn 15 { job := some 4095, sb := {ended := true} } (JS (jend f))
def E1 (f : Job → Job) : State := jx f
def EV (l : List Event) (s : State) : State := setD (fun d => { d with host := { d.host with events := l, evSeq := 2^64-1, evLost := true, evPhase := true } }) s
def gg (f : Ganger → Ganger) (s : State) : State := setR Reg.gangStatus 1 (setD (fun d => {d with gang := f d.gang}) s)
def GS (x : Nat) (g : Ganger → Ganger) (s : State) : State := gg (fun q => g {q with next := 5, enable := [1,1,1], interval := [7,7,7], cursor := [x,x,x], total := [9,9,9], counted := 4, expect := 8}) s
def declRec (ty : Nat) (ws : List Nat) : Bytes := toLe 1 ty ++ zeros 1 ++ toLe 2 (4 + 4 * ws.length) ++ ws.flatMap (toLe 4)
def latRec : Bytes := declRec 1 ((Config.latencies 1).zipIdx.map fun x => x.2 + (x.1 + 3) * 256)
def padR (n : Nat) (b : Bytes) : Bytes := b ++ zeros (n - b.length)
def regionRec (i : Nat) : Bytes := padR 64 (toLe 4 i ++ toLe 4 1 ++ toLe 4 (15 * 16 + 15 * 4096) ++ toLe 4 0 ++ toLe 4 (if i = 0 then 786432 else 0) ++ toLe 4 (if i = 0 then 15 * 4096 else 0))
/-- A consist of station 0 with a declaration frame and a frame of the timetable RAM, and the device that holds it. -/
def c0 : Consist :=
  { cons0 with
    stations := 1, nRegions := 1, base := 2 ^ 20, golden := (0, 1), stabling := (1, 336)
    regions := [{ stations := 1, rowLast := 15, colLast := 15, slabEnd := 786432, qLast := 15, raw := regionRec 0 }]
    frames := [{ kind := 5, stations := 1, payload := latRec },
      { kind := 1, index := 1, stations := 1, offset := 3, payload := toLe 8 (2 ^ 58) }]
    tokens := [{ cursors := 2, init := 9 }], counters := [{ init := 11 }] }
def resident : State := con 0 c0 (setR Reg.ilCtrl 0 fw)
def R0 : State := setR (Reg.stPwrStatus 0) 3 resident
def ji (y : Install) : Job := { consist := 0, phase := .installing, install := some y }
def IS (y : Install) : State := stn 0 {standby := some 4095} (job (ji y) 4095 R0)
def PS (x : Station) : State := job (ji {}) 4095 (job {job0 with progEnd := 2^15} 9 (stn 15 x (con 0 c0 (con 5 cons0 fw))))
def qW (q w v : Nat) (s : State) : State := setP (planeKey 15 false 2 (4 * q + w)) v s
def qd (q kind net bay late dep : Nat) (decl : Nat := 0) (s : State) : State := qW q 0 (kind + net * 8 + bay * 32 + late * 2^13 + dep * 2^15 + decl * 2^45) s
def que (q : Nat) (x : Queue) (s : State) : State := setD (fun d => { d with queues := fput d.queues (15 * 4096 + q) x }) s
def st0 : Station := { standby := some 4095, armed := true, bayWait := 2^256-1, vuWait := 2^32-1, job := some 9 }
def PSu : State := que 200 { msgs := [{}] } (que 201 { msgs := [{}, {}] } (qd 200 1 2 248 0 0 (s := qd 201 1 1 248 0 0 (s := setP (planeKey 15 false 1 (2 + 248 * 16 + 15 * 2^12)) (2 + 200 * 256 + 201 * 2^20) (PS st0)))))
def PW (x : Station) (cap reg : Nat) : State := setR (Reg.stPwrStatus 15) reg (setR Reg.pwrCap cap (job {job0 with phase := .running} 9 (con 5 cons0 (stn 15 {x with job := some 9} fw))))
def RQ (op sp off len : Nat) (arg : Nat := 7) (data : Bytes := []) (ctx : Nat := 0xF0003) : Packet := { op := op, src := 77, dest := 194, ctx := ctx, addr := G 194 sp off, tag := 9, len := len, arg := BitVec.ofNat 64 arg, data := data, arrived := true }
def box (f : SigBox → SigBox) (s : State) : State := setD (fun d => { d with stn := fput d.stn 15 { (fget {} d.stn 15 : Station) with sb := f (fget {} d.stn 15 : Station).sb } }) s
def fab (st : Nat) (p : Nat) (s : State) : State := setR (Reg.portStatus p) (st + 2 * 8 + 1 * 64) (setR Reg.epDimMap (0 + 1*8 + 2*64 + 3*512 + 4*4096 + 5 * 32768) (setR Reg.epTorus (3 + 4 * 128 + 5 * 2^14) (setR Reg.epDeviceId (2^31 + 2 + 3 * 64 + 0 * 4096) (setR Reg.epCtrl 3 s))))
def rb : DdrReq := { user := .bar2 3, off := 15*4096 + 256, len := 8, due := 1000, arc := true }
def RW (ra rb : Nat) (b : SigBox → SigBox) : State := fab 3 0 (box (fun x => b { x with regs := [(1, BitVec.ofNat 64 ra), (2, BitVec.ofNat 64 rb)] }) run0)
def rtW (b r v : Nat) (s : State) : State := setP (planeKey 15 false 1 (b * 16 + r * 4096)) v s
def rt (b r d q n : Nat) (s : State) : State := rtW b r (q + d * 2^12 + n * 2^16 + 2^18) s
def S0 : State := rt 248 63 15 100 1 (qd 100 1 1 255 0 0 (s := run0))
def U : UnitRef := { cls := 1, st := 15, bay := 248 }
def SR (a b : Nat) (o : Option Nat) : StallReq := { unit := U, queue := a, raised := b, cleared := o }
def SRC : Nat := ga 0 0 (2^32 + 4096*10 + 100)
def cS : Consist := { cons0 with stations := 2^15, ttMask := 2^15, stops := [{k := 1, dist := 100, ranges := []}], tokens := [{st := 15, slot := 47, init := 5, rebase := true}], counters := [{logical := 1, phys := 63, init := 9}], stabling := (3, 2) }
def SS (j : Job) (sb : SigBox → SigBox) : State := setR (Reg.stPwrStatus 15) 3 (job j 4095 (con 5 cS (stn 15 { job := some 4095, sb := sb {running := true, wait := .stop 1, pc := 4095} } fw)))
def pks (l : List (Nat × Packet)) (s : State) : State := setD (fun d => { d with pkts := l, pktNext := 50 }) s
def T (k : Packet) (f : State → State := id) : State := f (setR Reg.ilStatus 1 (pks [(8, k)] (RW 5 5 id)))
def cz : Consist := { decl := (List.range 39).map (· + 3), stations := 2 ^ 15 }
def T0 : State := con 5 cz fw
def czz : Consist := { cons0 with ttMask := 2^15 + 1, tokens := [{st := 15, slot := 47, init := 77}] }
def ZS (now : Nat) (j : Job) : State := clkOf (fun c => {c with arclk := now}) (setR (Reg.stPwrStatus 15) 3 (con 5 czz (job j 4095 (stn 15 {job := some 4095} fw))))
def a0 : AdmReq := { due := 500, key := 3, st := 15, bay := 248, route := 63, len := 300, valid := true }
def a1 : AdmReq := { a0 with arrived := true, adm := 500 }
def muS (u : Mu) (s : State) : State := setD (fun d => { d with mu := fput d.mu (15 * 256 + 255) u }) s
def r0 : MuRun := { desc := 2, ldDesc := 2, next := 480 }
def accS (r : MuRow) (sl : FMap Slot) : State := muS { pipe := [r, { r with due := 496 }], slots := sl, acc := [(15*1024 + 15 * 64 + 3, 9), (14*1024 + 15 * 64 + 3, 8)], run := some r0 } run0
/-- Puts an instruction where station 15's signal box stands. -/
def atPc (i : Nat) (s : State) : State := setP (planeKey 15 false 1 (3 + 16 * 7)) i s
def bad (b : Bytes) : Bytes := b.set 20 0xFF
def bb : Bytes := (List.range 128).map fun i => BitVec.ofNat 8 (i * 3 + 1)
def begun (c : Cmd) (s : State) : State := setD (fun d => { d with host := { d.host with rings := [(15, { cmd := some { c with begun := true } })] } }) s
def ps (b : Bytes) : List Nat := [0, b.length]
/-- A command in progress on a ring, and the device that serves it. -/
def cmdOf (op : Nat) (ps : List Nat) : Cmd :=
  { opcode := op, tag := 7, plen := 8 * ps.length, params := ps.map (BitVec.ofNat 64 ·), entry := 2 }
def bg (op : Nat) (ps : List Nat) (s : State) : State := setD (fun d => { d with host := { d.host with rings := [(15, { cmd := some { cmdOf op ps with begun := true } })] } }) s
def big := [0, 7184, 0, 0, 257, 0]
def c0P : Consist := { c0 with digest := List.replicate 64 5 }
def jS (f : Job → Job) : Job := f { consist := 5, phase := .running, started := true, cyc := 500, result := 0x9000, seq := 12, deadline := 2000, request := some 1 }
def jT : Job := jS fun j => {j with phase := .stabling, limit := some 3, filled := true}
def tk (st n : Nat) (x : Token) (s : State) : State := setD (fun d => {d with tokens := fput d.tokens (st * 48 + n) x}) s
def sT : State := tk 15 47 { state := .active, owner := 4095, prod := 77 } (que 3 { msgs := [{len := 4}] } (muS { slots := [(3, {state := .live, tag := 4})], acc := [(3*1024, 5)] } (SS jT id)))
def svd : Saved := match (getNext (exec (.stablingDone 4095) sT)).view.consist 5 with | some c => c.saved.getD {} | none => {}
def cR : Consist := { cS with saved := some { svd with cyc := 1000 - 64 * 5 } }
def cR2 : Consist := { cS with saved := some { svd with cyc := 1001 } }
def cT : Consist := {c0 with regInv := 5, stations := 2^15+1, frames := c0.frames ++ [{kind := 3, grades := 7, all := true}, {kind := 2, grades := 7}, {kind := 0, grades := 0}]}
def cdc (f : Cdc → Cdc) (s : State) : State := setD (fun d => { d with cdc := f d.cdc }) s
def ch (i : Nat) (x : DdrCh) (s : State) : State := setD (fun d => { d with ddr := fput d.ddr i x }) s
def cm (k : Nat) (valid : Bool) : Msg := { len := 13, valid := valid, bytes := (List.range 12).map fun i => (i, BitVec.ofNat 8 (0x7F - i * (k + 1))), words := [(0, 3), (1, 5), (2, 7), (3, 9)], seq := 8 }
def comb (ctype : Nat) (ms : List Msg) : State := (ms.zip (List.range ms.length)).foldl (fun s m => que (400 + m.2) { msgs := [m.1] } (qd (400 + m.2) 0 0 248 0 0 (s := s))) (que 300 { seq := 2^32-1, tail := 2^32 - 1, msgs := [{seq := 7, len := 8}] } (qW 300 2 (400 + (ms.length-1) * 2^12 + ctype * 2^18) (qd 300 3 0 250 0 0 12 (s := run0))))
def d8 : Bytes := [1,2,3,4,5,6,7,0xFF]
def used : State := setR Reg.coSeqNext 99 (setR Reg.ttCtrl 0 (setR Reg.pwrCap 1000 (setR Reg.epDeviceId 0x80000001 (job {} 3 (con 5 {} fw)))))
def dirty : State := { used with mem := { used.mem with slab := [(15*2^28, 3)], ddr := [(2^40-2^32-1, 1), (2^40-2^32, 2)] } }
def dr (r : Nat) : MuDrain := { slot := 15, mode := 1, row := r, next := 500 }
def dr2 (r : Nat) : MuDrain := { slot := 15, mode := 2, queue := 4095, row := r, next := 500 }
def drS (r : Nat) (l : List MuDrain) : State := setD (fun d => {d with vu := [(15 * 32 + 31, { comps := [(7, List.replicate 31 {})] })] }) (muS { drains := dr r :: l, slots := [(15, {state := .draining, tag := 5, int := true})], acc := [(15*1024 + 15 * 64 + 3, 9), (14*1024 + 15 * 64 + 3, 8)] } run0)
def dsc : EngDesc := { id := 4, desc := 511 }
def dsi : EngDesc := { dsc with issued := true }
def e0 : Engine := { runNext := 5, pieceNext := 9, prevLine := some {}, wdue := 3, rowBuf := some (1,2,[],3) }
def e1 : Engine := { e0 with busy := true, job := 9, descs := [dsc], next := 500, pieces := [], row := 2, off := 28, rowBuf := none, count := 4, first := 300 }
def e2 (y : Piece) : Engine := { e1 with descs := [dsi], pieces := [(8, y)] }
def ph : Piece := { py with src := 0x12345684, rd := 9, stage := 0, data := [], len := 20, row := 65535 }
def e3 : Engine := { e1 with descs := [dsi], pieces := [(8, { py with rd := 8, stage := 0 }), (9, ph), (10, { ph with src := 0x12345698, len := 3 }), (11, {ph with stage := 1})], lines := [{ kind := 1, line := 0x12345680, rd := 9 }] }
def eng (x : Engine) (s : State) : State := setD (fun d => { d with eng := fput d.eng (15 * 8 + 7) x }) s
def ent (op rd size : Nat) : RemEntry := { op := op, rd := rd, size := size, addr := A, job := 9 }
def epp (p : Nat) (x : EpPort) (s : State) : State := setD (fun d => { d with ep := fput d.ep p x }) s
def ev : Event := { addr := 0x3000, bit := 31, ctx := 5, info := 6, due := 10 }
def ff : List Frame := c0.frames
def fl1 : RlsFill := { addr := ga 5 0 0x7F80, data := some bb }
def fl5 (t seq : Nat) (ack : Option Nat) (dest : Nat) (pl : Bytes) : Bytes := flitOf { ftype := t, seq := seq, ack := ack, dest := dest, plen := pl.length, cls := 0, vc := 1, cred := (3, 5) } pl
def hd (s : State) (q : Nat) : Bytes × Bool := ((s.view.take 15 q).1).getD ([], true)
def hm (s : State) (q : Nat) : Nat × Bool × Nat × Nat := match s.view.head 15 q with | .message l v n b => (l, v, n, b) | _ => default
def hq (s : State) (q : Nat) : Queue := (s.view.take 15 q).2.queue 15 q
def iFr : Nat := (c0.frames.findIdx? fun f => f.kind = 1).getD 0
def insW (op d a b imm : Nat) : Nat := op * 2 ^ 58 + d * 2 ^ 53 + a * 2 ^ 48 + b * 2 ^ 43 + imm
def ii (op d a b imm : Nat) : Nat := insW op d a b imm
def frameRec (kind region index stations off : Nat) (payload : Bytes) : Bytes :=
  let body := toLe 4 (kind + region * 256 + (payload.length - 1) * 65536) ++ toLe 4 index ++ toLe 4 stations ++ toLe 4 0 ++
    toLe 8 off ++ zeros 8 ++ padR 1024 payload
  body ++ toLe 4 (crc32c body) ++ zeros 4
def declFrame : Bytes := frameRec 5 0 0 1 0 (latRec ++ declRec 2 [0 + 0 * 16 + 1 * 1024, 9] ++ declRec 3 [0, 11, 0])
def imageHead (flags : Nat) (base : Bytes) : Bytes :=
  padR 64 (toLe 4 0x54534E43 ++ toLe 2 4 ++ toLe 2 256 ++ toLe 4 flags ++ toLe 4 0 ++ toLe 4 1 ++ toLe 4 2 ++ toLe 8 0) ++
    base ++ zeros 128 ++ regionRec 0
/-- An image of one region and two frames, with its digest (R292). -/
def imageOf (pre f0 f1 : Bytes) : Bytes :=
  pre ++ (f0 ++ (f1 ++ ((toLe 4 4736 ++ zeros 12) ++
    (sha3 (pre ++ (sha3 (f0.take 1060) ++ sha3 (f1.take 1060))) ++ zeros 4656))))
def tblFrame (region index : Nat) : Bytes := frameRec 1 region index 1 3 (toLe 8 (2 ^ 58))
def image1 : Bytes := imageOf (imageHead 0x80 (zeros 64)) declFrame (tblFrame 0 1)
def image1P : Bytes :=
  imageOf (imageHead 0x81 (List.replicate 64 5)) (frameRec 5 0 0 1 0 latRec) (frameRec 1 0 1 1 3 (toLe 8 (2 ^ 58 + 5)))
def image3 : Bytes :=
  imageOf (padR 64 (toLe 4 0x54534E43 ++ toLe 2 4 ++ toLe 2 256 ++ toLe 4 0x80 ++ toLe 4 0 ++ toLe 4 1 ++ toLe 4 2 ++ toLe 8 65536) ++
    zeros 64 ++ zeros 128 ++ ((regionRec 0).take 32 ++ toLe 8 65536 ++ (regionRec 0).drop 40)) declFrame
    (frameRec 4 0 1 0 0 (List.replicate 64 9))
def codes (k : Nat) : List Nat := List.replicate 15 0x80 ++ [k]
def ent1 (len : Nat) (rebase : Nat) (codes : List Nat) : Bytes := toLe 4 (len + rebase * 65536) ++ codes.flatMap (toLe 1 ·) ++ zeros 12
def tti (n : Nat) (es : List Bytes) : Bytes := toLe 4 n ++ toLe 4 0 ++ (List.range 16).flatMap (fun _ => toLe 8 32) ++ es.flatten
def img2t : Bytes := tti 2 [ent1 10 0 (codes 5), ent1 65535 1 (codes 0x41)]
def imgB : Bytes := tti 2 [ent1 10 0 (codes 6), ent1 0 1 (codes 0x41)]
def jR : Job := jS fun j => {j with phase := .restoring, install := some {armed := true}, request := none, passing := [(1, 3), (2, 5)], flags := 1, waves := 4}
def jb (f : Job → Job) : Job := f job0
def jf (f : Job → Job) (s : State) : State := setD (fun d => { d with jobs := fput d.jobs 9 (f (fget {} d.jobs 9)) }) s
def jf1 : Job := je fun j => {j with fault := some (1,2,3), faultAt := 999, frozen := true, frozenAt := 900, frozenCyc := 5, spills := [{queue := 1, msgs := 2}], request := some 4, stalls := [{}], freezeAt := some 3}
def jfz : Job := jb (fun j => {j with stalls := [SR (4096+7) 4 none, SR 2 5 none], freezeAt := some 1000, flags := 1})
def jq : Job := { consist := 0, phase := .queued }
def jr : Job := { consist := 5, rt := true, phase := .installing, install := some {}, runBegin := some 500, runEnd := some 1000, result := 0x9000 }
def jr1 : Job := je fun j => {j with phase := .finishing, status := 0x50, fault := some (0x80010203, 9, 5), faultAt := 7, endCyc := 77, passed := 3, recPhase := true}
def jr2 : Job := {jr1 with window := some 239, recPhase := true, countersign := true}
def jsp : Job := jb (fun j => {j with spills := [{ queue := 15*4096+4095, msgs := 1, done := some 500 }, { queue := 15 * 4096 + 7, msgs := 3 }], quorum := 5})
def jsp2 (f : Job → Job) : Job := f jsp
def jz (c la : Nat) : Job := jb (fun j => {j with stalls := [SR (4096+7) 4 (some c)], freezeAt := some 1000, frozen := true, frozenAt := c, lastClear := la, flags := 1, frozenCyc := 6})
def jz0 : Job := { consist := 5, rt := true, phase := .installing, install := some {armed := true}, runBegin := some 961, runEnd := some 1025, args := [7, 8, 2^63], flags := 99, cyc := 44 }
def l0 : WLoad := { bytes := (List.range 1024).map (BitVec.ofNat 8 ·), need := 1024, ready := 500 }
def img : Bytes := toLe 4 0x57464C53 ++ toLe 2 1 ++ zeros 2 ++ toLe 4 0x123 ++ toLe 4 64 ++ zeros 240 ++ List.replicate 2592 (5 : Byte) ++ List.replicate 64 (7:Byte) 
def lps : List Nat := [0, 7184, 0x100000, 0x8000, 1, 0x5000]
def serve (r op : Nat) (ps : List Nat) (s : State) : State :=
  setD (fun d => { d with host := { d.host with rings := fput d.host.rings r { cmd := some (cmdOf op ps) } } }) s
def ldS : State := serve 15 0x20 (lps) (setR Reg.ilCtrl 0 (con 0 {} (setD (fun d => {d with tokens := [(0, {state := .idle})] }) fw)))
def ldx (img p2 : HostData) (e : Option (Nat × Nat)) : LoadRun :=
  { ring := 15, cmd := cmdOf 0x20 (lps), extent := e, image := img, pass2 := p2, patch := some (toLe 8 77) }
def ldg (img p2 : HostData) : State := begun (cmdOf 0x20 (lps)) (setD (fun d => { d with
  load := some (ldx img p2 (ldS.view.goldenExtent (img.getD []) 7184)) }) (setR Reg.ilStatus 4 ldS))
def ldOk : State := ldg (some image1) (some image1)
def ldTwo : State := ldg (some image3) none
def pps : List Nat := [0, 7184, 0]
def ldp (img : HostData) : LoadRun := { ring := 15, cmd := cmdOf 0x21 pps, partialLoad := true, consist := 0, target := 0, image := img }
def ldxOk : LoadRun := ldx (some image1) (some image1) (ldS.view.goldenExtent image1 7184)
def ldxTwo : LoadRun := ldx (some image3) none (ldS.view.goldenExtent image3 7184)
/-- The machine in which a load in progress is judged. -/
def loadAt (s : State) : BitVec 64 × Mach :=
  (({ s.view with dev := { s.dev with load := none } } : Mach).setField Reg.ilStatus 2 2 0).freeVal
def lr : LateResult := { unit := U, due := 500, act := 500, id := 7 }
def m1 : Msg := { len := 128 * 5, seq := 3, words := (List.range 5).map fun i => (i, 400) }
def m4 : Msg := { len := 4, bytes := [(0, 1), (1, 2), (2, 3), (3, 0x84)], words := [(0, 500)] }
def m5 : UnitMsg := { kind := 0, unit := 255, idx := 31, due := 500 }
def reads (s : State) : State := setD (fun d => { d with host := { d.host with reads := [(3, (0,0,0)), (5, (15, 7, 9))] } }) s
def manyReads (s : State) : State := setD (fun d => { d with host := { d.host with reads := (List.range 768).map fun i => (i, (0,0,0)), readNext := 768 } }) s
def me : UnitMsg := { kind := 2, unit := 7, idx := 511, due := 500, ovr := 77 }
def mu0 : Mu := { run := some { desc := 2, ldDesc := 2, next := 480 } }
def mv : UnitMsg := { kind := 1, unit := 31, idx := 255, due := 500 }
def my : Msg := { len := 300, seq := 3, bytes := [(5, 1), (270, 4)], words := [(1, 4)] }
def nw : NetWord := { due := 500, unit := U, seq := 3, idx := 2, bytes := List.replicate 128 (9 : Byte) }
def o0 : OutMsg := { unit := U, dstSt := 15, queue := 100, net := 1, bytes := List.replicate 300 (7:Byte) }
def o3 : OutMsg := {o0 with stage := 3, due := 500}
def o4 : OutMsg := {o0 with stage := 4, due := 500, sent := 1, seq := 77}
def okT (s : State) (b : Bytes) : Table := match s.view.checkTable b b.length with | .ok t => t | .error _ => {}
def outb (b r : Nat) (l : List OutMsg) (s : State) : State := setD (fun d => { d with outbox := fput d.outbox ((15 * 256 + b) * 64 + r) l }) s
def om (l : List OutMsg) (s : State) : State := outb 248 63 l s
def on (size w h : Nat) (st : Nat) (s : State) : State := setR Reg.evqCtrl (1 + size * 2 + 7 * 32 + 0) (setR Reg.evqStatus (w + st * 4096) (setR Reg.evqHead h (setR Reg.evqBase 0x100000 s)))
def owe (l : List (Nat × Nat)) (s : State) : State := setD (fun d => { d with boot := { d.boot with owed := l}}) s
def pk : Packet := { op := 1, src := 77, dest := 3 + 3 * 64, ctx := 0xABCD1234, addr := 2^60 + 5, tag := 65535, len := 8, arg := 0x1122334455667788, data := [1,2,3,4,5,6,7,8] }
def pb : Bytes := pk.header ++ pk.data
def pdW (i k v : Nat) (s : State) : State := setP (planeKey 15 false 0 (0x80000 + 255 * 0x800 + 0x400 + 32 * i + 4 * k)) v s
def pgo (img : HostData) : State :=
  begun (cmdOf 0x21 pps) (setD (fun d => { d with load := some (ldp img) }) (setR Reg.ilStatus 13 (con 0 c0P resident)))
def pkL : Packet := { pk with data := (List.range 600).map (BitVec.ofNat 8 ·), len := 600 }
def pkt (op plen : Nat) (ps : List Nat) : Bytes := toLe 2 op ++ zeros 2 ++ toLe 4 77 ++ toLe 2 plen ++ zeros 6 ++ (ps ++ List.replicate (6 - ps.length) 0).flatMap (toLe 8)
def plS : State := serve 15 0x21 pps (con 0 c0P resident)
def port (x : SlabPort) (s : State) : State := setD (fun d => { d with slabPort := fput d.slabPort (15*256+255) x }) s
def pq : PortReq := { user := .vuWrite 31, write := true, addr := 0xBFF80, words := [(31, 0xAABBCCDD)], due := 500, job := some 9 }
def pr : PortReq := { user := .vuRead 31 4, addr := 0xBFF80, due := 500, job := some 9 }
def prov : State := setD (fun d => { d with chip := { d.chip with lcFuse := 3 } }) fw
def ptW (w v : Nat) (s : State) : State := setP (planeKey 15 false 1 (2 + 248 * 16 + 15 * 2^12 + w * 2^16)) v s
def wq (len : Nat) : Msg := { len := len, bytes := (List.range len).map fun i => (i, BitVec.ofNat 8 (i+1)), words := (List.range (len/128+1)).map fun i => (i, 400), seq := 5 }
def ptm (m : Nat) (s : State) : State := ptW 0 (m + (5-1) * 4 + 200 * 256 + 201 * 2^20) (que 203 { msgs := [{ wq 120 with valid := false }] } (que 202 { msgs := [wq 200] } (qd 202 1 1 248 0 0 (s := qd 203 1 1 248 0 0 (s := s)))))
def ctl (item : Nat) : Msg := { len := 2, bytes := [(0, BitVec.ofNat 8 item), (1, BitVec.ofNat 8 (item / 256))], words := [(0, 400)], seq := 1 }
def pts (routes cap epoch : Nat) (inv : Nat) (item : Nat) (p : Points) : State := setD (fun d => { d with points := fput d.points ((15 * 256 + 248) * 16 + 15) p }) <|
  que 200 { msgs := [ctl item] } <| que 201 { msgs := [wq 300] } <| qd 200 1 2 248 0 0 (s := qd 201 1 1 248 0 0 (s :=
   (ptW 0 (2 + (routes-1) * 4 + inv * 64 + 200 * 256 + 201 * 2^20) <| ptW 1 (59 + 3 * 64 + cap * 2^12) <| ptW 2 epoch <| rt 248 63 15 100 1 (rt 248 60 14 77 0 S0))))
def ym : Msg := { len := 300, valid := true, srcBay := 9, srcStn := 4, seq := 5, pos := 77, bytes := (List.range 300).map fun i => (i, BitVec.ofNat 8 (3 * i)), words := [(0, 1), (1, 2), (2, 500)] }
def qf (sEn : Nat) (sz : Nat) (j : Job) : State := que 4095 { msgs := [{ym with words := [(0, 1), (1, 2), (2, 400)]}], reqs := [a1], head := 2^32-1, tail := 2, sidePos := 4000, siding := [{len := 5}], sideUsed := 32 } (qW 4095 3 (sEn + 3 * 4096 * 0 + (15*2^28 + 3 * 4096) + sz) (qd 4095 1 1 255 0 0 (s := jf (fun _ => j) run0)))
def rr : VuRun := { inst := 15, elem := 0, next := 500, tick := 0, asked := 1000 }
def r2 : VuRun := { rr with elem := 64, tick := 4 }
def r4 : VuRun := { rr with elem := 32, tick := 1 }
def rsp (op : Nat) : Packet := { op := op, addr := A, tag := 65535, data := if op = 8 then toLe 8 0x99 else [], arrived := true, arg := 0xABCDEF0123456789 }
def rS (op rd size pop : Nat) : State := pks [(8, rsp pop)] (setD (fun d => {d with rem := [(15 * 65536 + 65535, ent op rd size)]}) (RW A 5 fun b => {b with wait := .remote 65535}))
def rem0 (l : List (Nat × RemEntry)) (s : State) : State := setD (fun d => {d with rem := l, remNext := 65535, pktNext := 50}) s
def rom : State := setD (fun d => { d with boot := { d.boot with rom := true }, host := { d.host with cfg := [(1, 4)] } }) up
def wb : WBlock := { codes := List.range 1024 }
def rowS (f row mt : Nat) : State := pdW 2 2 1 <| pdW 2 0 (f + mt * 2^13 + 7 * 2^17 + 2^28 + 2 ^ 29) (pdW 2 1 77 (pdW 2 7 (2^8) (muS { run := some {r0 with row := row}, active := some wb, actLine := some (16 * row / 128 * 128, (List.range 128).map (BitVec.ofNat 8 ·)) } run0)))
def runS : State := con 5 { cons0 with stops := [{k := 1}, {k := 2}], stations := 2^15 + 1, miles := [{mp := 4095, role := 2, taps := [{st := 15, queue := 9, count := 3}, {st := 0, queue := 9, count := 1}]}] } run0
def tok0 : TokDecl := { st := 3, logical := 5, slot := 47, cursors := 2 }
def runT : State := con 5 { cons0 with tokens := [{ st := 15, logical := 0, slot := 1}, tok0], counters := [{logical := 63, phys := 62}] } run0
def rung (r : Nat) (s : State) : State := setR (Reg.ringCtrl r) (1 + 2 * 12) (setR (Reg.ringStatus r) 0x2FFF (setD (fun d => { d with host := { d.host with rings := fput d.host.rings r { tail := 5 } } }) s))
def rw : DdrReq := { user := .bar2 3, off := 15*4096 + 260, len := 3, data := [1, 2, 3], write := true, arrived := true, due := 900 }
def sR (j : Job) (c : Consist) : State := setR (Reg.ttRestores) (2^48-1) (setR (Reg.stPwrStatus 15) 3 (job j 4095 (con 5 c (stn 15 {job := some 4095} fw))))
def scr (cur : Nat) : State := setR (Reg.scrubPasses 15) 3 (setR (Reg.scrubStatus 15) (1 + 4 * cur) (setR (Reg.stPwrStatus 15) 2 (stn 15 { scrubOn := true, scrubNext := 1000} fw)))
def side (f : Side → Side) (s : State) : State := setD (fun d => { d with side := f d.side }) s
def spS : State := que 4095 { msgs := [ym], head := 2^32-1, tail := 2, sidePos := 4000, siding := [{len := 5}], sideUsed := 32 } (qW 4095 3 (1 + 3 * 4096 * 0 + (15*2^28 + 3 * 4096) + 0) (qd 4095 1 1 255 0 0 (s := jf (fun _ => jsp) run0)))
def stf (f : Station → Station) (s : State) : State := setD (fun d => { d with stn := fput d.stn 15 (f (fget {} d.stn 15)) }) s
def sub (w : Nat) : List Nat := [w, 500, 0x2000, 65280, 0x9000]
def tbl : Table := okT T0 img2t
def tmE : RemEntry := { ent 0 31 8 with issued := 500, limit := 500 }
def train (s : State) : State := setD (fun d => {d with boot := { d.boot with training := true}}) { s with mem := { s.mem with ddr := [(3, 1), (2^40-2^32-1, 7), (2^40-2^32, 8)]} }
def ttS (f : Timetable → Timetable) (s : State) : State := setD (fun d => {d with tt := f d.tt, rls := [(15*256+255, [{}])]}) s
def twoCmds (c d : Cmd) (s : State) : State := setD (fun x => { x with host := { x.host with rings := [(3, { cmd := some d }), (15, { cmd := some c })] } }) s
def vuq (q : Nat) (s : State) : State := vuW 0x410 2 <| vuW 0x414 (q * 2^20) <| vuS { run := some rr } (ins 1 1 0 0 5 1 0 0 0 0 (s := sd 5 0 4 0 0 (s := sd 1 0 0 0 0 (s := vuW 0 3 s))))
def w0 : VuWrite := { due := 500, desc := 0, inst := 14, cells := [some 5, none] }
def w6 (c : Option W64) : VuWrite := { due := 500, desc := 6, inst := 14, cells := [c] }
def wSv (w : VuWrite) : State := vuS { run := some rr, writes := [w] } (sd 6 0 7 0 (2^20 - 4) (s := base0 0))
def wiped (s : State) : State := { setD (fun d => { d with ddrErr := [(0x200, 32), (0x10000 / 128 * 4, 2)], ddrUndef := [(0x1FFFF, 0x20005, 3)] }) s with mem := { s.mem with ddr := [(0xFFFF, 9), (0x10000, 7), (0x1FFFF, 8), (0x20000, 5)] } }
def wst (len : Nat) : State := que 77 { msgs := [wq len] } (qd 77 1 1 255 0 0 (s := pdW 2 0 (3 + 2^13) (pdW 2 4 (1 + 77 * 2^20) (muS mu0 run0))))
def x0 : Token := { state := .active, prod := 2^32-1, cons := [1,2,3,2^32-9], owner := 9 }
def xw (i k v : Nat) (s : State) : State := setP (planeKey 15 false 0 (0x10000 + 64 * i + 4 * k)) v s
def xd (i w0 rowLen rows ss ds src dst : Nat) (s : State) : State :=
  xw i 0 w0 (xw i 2 rowLen (xw i 3 rows (xw i 4 ss (xw i 5 ds (xw i 6 (src % 2^32) (xw i 7 (src / 2^32) (xw i 8 (dst % 2^32) (xw i 9 (dst/2^32) s))))))))
def yF : Install := {frames := [iFr, 0], slab := [3], next := 1000}

/-! ### Form -/

/-- An ill-formed term for each range that `Instr.wellFormed` checks, each just past its range. -/
def illFormedRings : List Instr :=
  [.negotiate 16, .identify 16, .unloadConsist 16, .cancelJob 16, .releaseResult 16, .dumpTokens 16,
    .startMaintenance 16, .stopMaintenance 16, .sampleScratchpad 16, .resetDomain 16, .portClose 16, .portOpen 16,
    .wipe 16, .loadFirmware 16 none, .loadPartial 16 none, .setTimetable 16 none, .submitJob 16 none,
    .readCounters 16 none, .attest 16 none, .lifecycleAdvance 16 none, .loadConsist 16 none none none,
    .commandFetch 16 none, .commandFetch 0 (some []), .doorbellWrite 16 0, .ringCtrlWrite 16 0]
def illFormedRegisters : List Instr :=
  [.tkoValueWrite 64 0, .epTopologyWrite 3 0, .registerWrite 1 0 4 0, .muClrSat 16 0, .muClrCe 0 256, .vuClrSat 0 32,
    .vuClrNan 16 0, .vuClrAmax 0 32, .slabClrCe 16 0, .slabClrUe 0 256, .slabClrConf 16 0, .slabClrUnsched 0 256,
    .ptClrOvf 16 0, .ptClrBadtag 0 256, .qClrLenerr 16, .qClrSat 16, .qClrLeftover 16, .qClrRefused 16, .qClrQsel 16,
    .tkClrLost 16, .meClrMerged 0 256, .meClrRls 16, .dmClrCe 16, .dmClrUe 16, .dmClrTt 16, .epClrErr 8,
    .epClrDiscard 8, .bar2Read 0 0, .bar2Read 0 4097, .bar2Read (2 ^ 36) 1, .bar2Write (2 ^ 36) [0],
    .bar2Write 0 (zeros 4097), .pcieConfigRequest false 1024 0]
def illFormedUnits : List Instr :=
  [.sbNop 16, .sbEnd 16, .sbJmp 16, .sbBnz 16, .sbLoop 16, .sbLi 16, .sbLih 16, .sbAlu 16, .sbFpu 16, .sbRecv 16,
    .sbSend 16, .sbCtl 16, .sbMugo 16, .sbVugo 16, .sbJoin 16, .sbSig 16, .sbWait 16, .sbFence 16, .sbTkrd 16,
    .sbTicket 16, .sbTkld 16, .sbTkst 16, .sbMgo 16, .sbMgor 16, .sbMjoin 16, .sbMstat 16, .sbRld 16, .sbRst 16,
    .sbRsig 16, .sbRwait 16, .sbRtkt 16, .sbRmsg 16, .sbRstat 16, .sbStop 16, .sbMilepost 16,
    .unitCompletionSeen 0 3 0, .muStart 0 256, .weightBlockLoad 16 0, .rowIssue 0 256, .accumulatorUpdate 16 0,
    .slotDrain 0 256, .vuStart 0 32, .vuNop 16 0, .vuAdd 0 32, .vuResultWrite 0 32, .elasticResultDue 16,
    .slabAccess 0 256, .slabScrubRead 16, .messageOffer 0 0 64, .admissionGrant 0 256 0, .wordSend 16 0 0,
    .admissionRequest 0 4096, .admission 16 0, .wordArrival 0 4096, .queueRead 0 4096, .combination 0 4096,
    .pointsDecision 0 0 16, .epochEnd 0 256 0, .freezeBegin 4096, .freezeEnd 4096, .quorumFire 4096, .spillDone 4096,
    .tokenOpArrival 0 48, .waiterWake 16, .ticketRequestArrival 64, .ticketReply 16, .engineStart 0 8,
    .engineRequest 16 0, .descriptorComplete 0 8, .rlsFill 16 0]
def illFormedEvents : List Instr :=
  [.ddrRequest 16, .ddrReadData 16, .ddrWriteBack 16, .ddrScrubRead 16, .ddrRetrainDone 16, .ddrReorderServe 16 0,
    .refreshGap 0 2, .ddrTrainingDone 65536 0, .portTrainingDone 8, .linkAckDue 8, .laneLockLoss 8, .ackTimeout 8,
    .portDrainDone 8, .flitReceive 0 [] none, .nak 0 65536, .retrainAttemptDone 8 true, .remoteTimeout 0 65536,
    .runEnd 4096, .installationStart 4096, .consistTimeZero 4096, .jobEnd 4096, .bayPlaneSwitch 0 256,
    .vuPlaneSwitch 0 32, .sbPlaneTakeup 16, .drainForced 4 0 0, .cdcOverrun 0, .cdcOverrun 5, .cdcOverrun 130, .cdcTimeout 6 0,
    .cdcTimeout 1 16, .pllLockLoss 0 0, .stationWake 16, .powerTransitionDone 16, .domainReset 5 0,
    .stationWipeDone 16, .sensorUpdate [] 0 0, .setdasa 128, .entdaa 128, .enec 256, .disec 256, .noSignal 8]

theorem smoke_rings : illFormedRings.all (fun c => !c.wellFormed) = true := by decide +kernel
theorem smoke_registers : illFormedRegisters.all (fun c => !c.wellFormed) = true := by decide +kernel
theorem smoke_units : illFormedUnits.all (fun c => !c.wellFormed) = true := by decide +kernel
theorem smoke_events : illFormedEvents.all (fun c => !c.wellFormed) = true := by decide +kernel

/-- An ill-formed command is refused; the last of a range is not. -/
def refused (o : Host.Outcome State Fault Refusal) : Bool := match o with | .refused r => r == .illFormed | _ => false
theorem test_illFormed_refused : refused (exec (.sbAlu 16) up) = true ∧ refused (exec (.sbAlu 15) up) = false := by
  decide +kernel
theorem test_wellFormed_edges :
    [Instr.negotiate 15, .bar2Read (2 ^ 36 - 1) 1, .bar2Write 0 (zeros 4096), .muClrSat 15 255, .cdcTimeout 5 15,
      .messageOffer 15 255 63, .tokenOpArrival 15 47, .setdasa 127].all (·.wellFormed) = true := by decide +kernel
/-- No row of the table has bits, so no word spells a command. -/
theorem test_no_word_decodes : decodeTableWord 64 0 = none := by decide +kernel

/-! ### Arithmetic -/

/-- The check value of CRC-32C: the nine digits give E3069283. -/
theorem test_crc32c_check : crc32c [0x31, 0x32, 0x33, 0x34, 0x35, 0x36, 0x37, 0x38, 0x39] = 0xE3069283 := by
  decide +kernel
/-- FIPS 202 gives the SHA3-512 of the empty string the first bytes A6 9F 73 CC. -/
theorem test_sha3_empty : (sha3 []).take 4 = [0xA6, 0x9F, 0x73, 0xCC] := by decide +kernel
/-- R86: 1/3 in FP32 is 3EAAAAAB and inexact; 1/0 in FP64 is infinity with the divide-by-zero flag. -/
theorem test_fpu_div : fpuOp 3 false false 0x3F800000 0x40400000 = (0x3EAAAAAB, 16) ∧
    fpuOp 3 true false 0x3FF0000000000000 0 = (0x7FF0000000000000, 2) := by decide +kernel
theorem test_fpu_sqrt2 : (fpuOp 4 true false 0x4000000000000000 0).1 = 0x3FF6A09E667F3BCD := by decide +kernel
/-- Table 6.6: a convert to a 32-bit integer is sign-extended to 64 bits: -2.5 to even is -2. -/
theorem test_fpu_toInt : (fpuOp 13 false false 0xC0200000 0).1 = 0xFFFFFFFFFFFFFFFE := by decide +kernel
/-- The largest E4M3 value is 448, the largest E2M1 value 6, and E8M0 130 is 2^3. -/
theorem test_small_formats : (widenElem false tyE4m3 0x7E).1 = 0x43E00000 ∧ (widenElem false tyE2m1 7).1 = 0x40C00000 ∧
    (widenElem false tyE8m0 130).1 = 0x41000000 := by decide +kernel

/-! ### Single commands -/

/-- The signal-box register r of station 15 after a command. -/
def sbAfter (c : Instr) (i r : Nat) : Nat := ((getNext (exec c (atPc i run0))).view.sb 15).reg r

/-- Table 6.6 with s1 = 8000000000000001 and s2 = 5: the sum wraps, and the destination may be a source. -/
theorem test_sbAlu_add_wraps : sbAfter (.sbAlu 15) (insW 8 3 1 1 0) 3 = 2 := by decide +kernel
theorem test_sbAlu_dest_is_source : sbAfter (.sbAlu 15) (insW 8 1 1 2 1) 1 = 0x7FFFFFFFFFFFFFFC := by decide +kernel
theorem test_sbAlu_signed : sbAfter (.sbAlu 15) (insW 8 3 1 2 7) 3 = 1 ∧ sbAfter (.sbAlu 15) (insW 8 3 1 2 8) 3 = 0 := by
  decide +kernel
theorem test_sbLi_sign : sbAfter (.sbLi 15) (insW 5 3 0 0 0x80000000) 3 = 0xFFFFFFFF80000000 := by decide +kernel
theorem test_sbLih_upper : sbAfter (.sbLih 15) (insW 6 2 0 0 0xDEADBEEF) 2 = 0xDEADBEEF00000005 := by decide +kernel
/-- Register 0 reads 0 and discards a write. -/
theorem test_sbLi_zero : sbAfter (.sbLi 15) (insW 5 0 0 0 7) 0 = 0 := by decide +kernel
theorem test_sbLoop_taken : sbAfter (.sbLoop 15) (insW 4 0 2 0 4095) 2 = 4 ∧
    ((getNext (exec (.sbLoop 15) (atPc (insW 4 0 2 0 4095) run0))).view.sb 15).pc = 4095 := by decide +kernel
theorem test_sbBnz_not_taken :
    ((getNext (exec (.sbBnz 15) (atPc (insW 3 0 0 0 4095) run0))).view.sb 15).pc = 8 := by decide +kernel
/-- R351: the highest shared version is chosen. -/
theorem test_negotiate_highest :
    (getNext (exec (.negotiate 15) (serve 15 1 [0x02020000] fw))).reg Reg.coIfVersion = 0x202 := by decide +kernel
theorem test_muClrSat_zero :
    (getNext (exec (.muClrSat 15 255) (setR (Reg.muSat 15 255) 77 fw))).reg (Reg.muSat 15 255) = 0 := by decide +kernel
theorem test_setdasa_once :
    (getNext (exec (.setdasa 9) (getNext (exec (.setdasa 127) State.reset)))).dev.side.dynAddr = some 127 := by
  decide +kernel

/-! ### Witnesses: states and operands that meet the hypotheses of each statement's clauses -/

theorem image1_read : (loadAt ldOk).2.readImage image1 7184 (fun _ => ldxOk.extent.isSome) = .ok (parseImage image1) :=
  readOk (by decide +kernel) (digestOk rfl (by decide +kernel))
theorem image1_plan : ∃ p, (loadAt ldOk).2.planLoad ldxOk.extent (List.take (ldxOk.cmd.p 1) (Option.getD ldxOk.image []))
    (ldxOk.cmd.p 1) (ldxOk.cmd.p 2)
    (List.map (fun i => leNat (Option.getD ldxOk.patch []) (8 * i) 8) (List.range (bits (ldxOk.cmd.p 4) 8 0)))
    (loadAt ldOk).1.toNat = .ok p ∧
    p.secondBad (List.take (ldxOk.cmd.p 1) (Option.getD ldxOk.pass2 [])) = none ∧
    (∀ d ∈ p.consist.counters, d.phys < 64) ∧ 5 ≠ p.index ∧
    { cursors := 2, slot := 1, init := 9 } ∈ p.consist.tokens ∧ { init := 11 } ∈ p.consist.counters := by
  have e : List.take (ldxOk.cmd.p 1) (Option.getD ldxOk.image []) = image1 :=
    List.take_of_length_le (by decide +kernel)
  have n : ldxOk.cmd.p 1 = 7184 := by decide +kernel
  unfold Mach.planLoad
  rw [e, n, image1_read]
  exact exOk (by decide +kernel)
theorem image3_read : (loadAt ldTwo).2.readImage image3 7184 (fun _ => ldxTwo.extent.isSome) = .ok (parseImage image3) :=
  readOk (by decide +kernel) (digestOk rfl (by decide +kernel))
theorem image3_plan : ∃ p, (loadAt ldTwo).2.planLoad ldxTwo.extent
    (List.take (ldxTwo.cmd.p 1) (Option.getD ldxTwo.image [])) (ldxTwo.cmd.p 1) (ldxTwo.cmd.p 2)
    (List.map (fun i => leNat (Option.getD ldxTwo.patch []) (8 * i) 8) (List.range (bits (ldxTwo.cmd.p 4) 8 0)))
    (loadAt ldTwo).1.toNat = .ok p ∧
    p.secondBad (List.take (ldxTwo.cmd.p 1) (Option.getD ldxTwo.pass2 [])) = some ⟨vFrame, 2, 0, none⟩ := by
  have e : List.take (ldxTwo.cmd.p 1) (Option.getD ldxTwo.image []) = image3 :=
    List.take_of_length_le (by decide +kernel)
  have n : ldxTwo.cmd.p 1 = 7184 := by decide +kernel
  unfold Mach.planLoad
  rw [e, n, image3_read]
  exact exOk (by decide +kernel)
theorem image1P_read : (loadAt (pgo (some image1P))).2.readImage image1P 7184 (fun _ => true) = .ok (parseImage image1P) :=
  readOk (by decide +kernel) (digestOk rfl (by decide +kernel))
theorem image1P_plan : ∃ p, (loadAt (pgo (some image1P))).2.planPartial
    (List.take ((ldp (some image1P)).cmd.p 1) (Option.getD (ldp (some image1P)).image []))
    ((ldp (some image1P)).cmd.p 1) (ldp (some image1P)).consist c0P (loadAt (pgo (some image1P))).1.toNat = .ok p := by
  have e : List.take ((ldp (some image1P)).cmd.p 1) (Option.getD (ldp (some image1P)).image []) = image1P :=
    List.take_of_length_le (by decide +kernel)
  have n : (ldp (some image1P)).cmd.p 1 = 7184 := by decide +kernel
  unfold Mach.planPartial
  rw [e, n, image1P_read]
  exact exOk' (by decide +kernel)

/-- States and operands that meet the hypotheses of `Obligations.StepTakesTheFrontCommand`. -/
theorem witness_StepTakesTheFrontCommand :
    (∃ (c : Instr) (s : State) (rest : List Instr), s.pending = c :: rest) :=
  ⟨Instr.idcode, { up with pending := [.idcode, .bypass] }, [Instr.bypass], by decide +kernel⟩

/-- States and operands that meet the hypotheses of `Obligations.EmptyQueueLetsOneCyclePass`. -/
theorem witness_EmptyQueueLetsOneCyclePass :
    (∃ (s : State), s.pending = []) :=
  ⟨up, by decide +kernel⟩

/-- States and operands that meet the hypotheses of `Obligations.WhenCommandsAct`. -/
theorem witness_WhenCommandsAct :
    (∃ (c : Instr) (s : State), s.dev.clk.undef = false ∧ c.wellFormed = true ∧ s.dev.runs (needOf c) = false ∧
      s.Powered ∧ s.dev.clk.perst = true) ∧
    (∃ (s : State), s.Powered ∧ s.dev.clk.perst = false) ∧
    (∃ (s : State) (c : Instr), s.dev.clk.undef = true ∧ c ≠ Instr.coldReset ∧ c ≠ Instr.lossOfPower) :=
  ⟨⟨Instr.sbNop 3, State.reset, by decide +kernel⟩,
    ⟨up, by decide +kernel⟩,
    ⟨setD (fun d => { d with clk := { d.clk with undef := true } }) up, Instr.sbNop 15, by decide +kernel⟩⟩

/-- States and operands that meet the hypotheses of `Obligations.StepKeepsCanonicalStores`. -/
theorem witness_StepKeepsCanonicalStores :
    (∃ (s : State) (t : State), s.Wf ∧ step s = Host.Outcome.next t) :=
  ⟨{ up with pending := [.coPwrCapWrite 1000]}, getNext (step { up with pending := [.coPwrCapWrite 1000]}), by
      refine ⟨?_, ?_⟩ <;>
      first | decide +kernel | rfl⟩

/-- States and operands that meet the hypotheses of `Obligations.CounterClears`. -/
theorem witness_CounterClears :
    (∃ (c : Instr) (s : State) (o : Nat) (l : List Nat), clearOf c = some (o, l) ∧ s.Ready ∧ c.wellFormed = true ∧
      s.pending = [] ∧ s.dev.load = none) ∧
    (∃ (s : State) (st : Nat), s.Ready ∧ st < 16 ∧ s.view.bar0Open (Reg.qCntClear st) = true) :=
  ⟨⟨Instr.muClrSat 15 255, setR (Reg.muSat 15 255) 77 fw, (Reg.muCntClear 15 255), [Reg.muSat 15 255], by decide +kernel⟩,
    ⟨setR (Reg.qSel 15) 4095 (setD (fun d => { d with queues := [(15*4096+4095, {spills := 3, balance := 4, head := 2}), (15*4096+4094, {spills := 3, balance := 4, head := 2})].reverse }) fw),
      15, by decide +kernel⟩⟩

/-- States and operands that meet the hypotheses of `Obligations.RingRegisterWrites`. -/
theorem witness_RingRegisterWrites :
    (∃ (s : State) (r : Nat), s.Ready ∧ r < 16) :=
  ⟨fw, 15, by decide +kernel⟩

/-- States and operands that meet the hypotheses of `Obligations.PowerCapWrite`. -/
theorem witness_PowerCapWrite :
    (∃ (s : State) (v : W32), s.Ready ∧ s.view.bar0Open Reg.pwrCap = true ∧ (BitVec.toNat v % 4096 < 400 ∨ 2400 <
      BitVec.toNat v % 4096 ∨ BitVec.toNat v % 4096 < max (bits (s.reg Reg.pwrAdmit) 11 0) ((Option.map (fun x =>
      x.power) s.dev.tt.pending).getD 0))) ∧
    (∃ (s : State) (v : W32), s.Ready ∧ s.view.bar0Open Reg.pwrCap = true ∧ 400 ≤ BitVec.toNat v % 4096 ∧ BitVec.toNat
      v % 4096 ≤ 2400 ∧ (max (bits (s.reg Reg.pwrAdmit) 11 0) ((Option.map (fun x => x.power) s.dev.tt.pending).getD
      0) ≤ BitVec.toNat v % 4096)) :=
  ⟨⟨fw, (399 : W32), by decide +kernel⟩,
    ⟨fw, (2400 : W32), by decide +kernel⟩⟩

/-- States and operands that meet the hypotheses of `Obligations.TopologyWrite`. -/
theorem witness_TopologyWrite :
    (∃ (s : State) (p : Nat), s.Ready ∧ p < 8 ∧ s.view.bar0Open (Reg.portCtrl p) = true ∧ (s.view.portState p =
      psClosed ∨ s.view.portState p = psFailed)) ∧
    (∃ (s : State) (which : Nat), s.Ready ∧ which < 3 ∧ s.view.bar0Open (nth 0 [Reg.epDeviceId, Reg.epTorus,
      Reg.epDimMap] which) = true ∧ (∀ (p : Nat), p < 8 → s.view.portState p = psClosed ∨ s.view.portState p =
      psFailed)) ∧
    (∃ (s : State) (r : Nat) (c : Cmd), s.Ready ∧ r < 16 ∧ s.Serves r 129 c ∧ (bit (s.reg Reg.epDeviceId) 31 = false ∨
      bits (s.reg Reg.epTorus) 6 0 = 0 ∨ bits (s.reg Reg.epTorus) 6 0 ≤ bits (s.reg Reg.epDeviceId) 5 0 ∨ bits (s.reg
      Reg.epTorus) 14 8 = 0 ∨ bits (s.reg Reg.epTorus) 14 8 ≤ bits (s.reg Reg.epDeviceId) 11 6 ∨ bits (s.reg
      Reg.epTorus) 22 16 = 0 ∨ bits (s.reg Reg.epTorus) 22 16 ≤ bits (s.reg Reg.epDeviceId) 17 12)) ∧
    (∃ (s : State) (which : Nat), s.Ready ∧ which < 3 ∧ s.view.bar0Open (nth 0 [Reg.epDeviceId, Reg.epTorus,
      Reg.epDimMap] which) = true ∧ (∃ p, p < 8 ∧ s.view.portState p ≠ psClosed ∧ s.view.portState p ≠ psFailed)) ∧
    (∃ (s : State) (p : Nat), s.Ready ∧ p < 8 ∧ s.view.bar0Open (Reg.portCtrl p) = true ∧ s.view.portState p ≠
      psClosed ∧ s.view.portState p ≠ psFailed) :=
  ⟨⟨fw, 7, by decide +kernel⟩,
    ⟨fw, 0, by decide +kernel⟩,
    ⟨serve 15 0x81 [3] fw, 15, cmdOf 0x81 [3], by decide +kernel⟩,
    ⟨setR (Reg.portStatus 7) 3 fw, 1, by decide +kernel⟩,
    ⟨setR (Reg.portStatus 7) 3 fw, 7, by decide +kernel⟩⟩

/-- States and operands that meet the hypotheses of `Obligations.ConditionalRegisterWrites`. -/
theorem witness_ConditionalRegisterWrites :
    (∃ (s : State) (o : Nat) (size : Nat), s.Ready ∧ (¬(size = 4 ∧ o % 4 = 0)) ∧ (¬(size = 8 ∧ o % 8 = 0)) ∧ o % 4 = 0
      ∧ 1024 ≤ o ∧ s.view.bar0Open Reg.sbAlertEn = true ∧ s.view.bar0Open Reg.cdcStatus = true ∧ bit (s.reg
      Reg.ilStatus) 1 = false) ∧
    (∃ (s : State) (i : Nat), s.Ready ∧ i < 256 ∧ i % 4 ≠ 3) ∧
    (∃ (s : State), s.Ready ∧ s.view.bar0Open Reg.ilCmd = true ∧ bit (s.reg Reg.ilStatus) 1 = true ∧
      s.dev.host.heldOut = []) ∧
    (∃ (s : State) (k : Nat), s.Ready ∧ k < 64 ∧ s.view.bar0Open (Reg.tkoValue k) = false) ∧
    (∃ (s : State), s.Ready ∧ s.view.bar0Open Reg.secBootDeadline = true ∧ s.dev.boot.rom = false) ∧
    (∃ (s : State) (k : Nat), s.Ready ∧ k < 64 ∧ s.view.bar0Open (Reg.tkoValue k) = true ∧ s.CounterQuiet k) ∧
    (∃ (s : State) (o : Nat), s.Ready ∧ o % 4 = 0 ∧ s.view.bar0Open o = false) ∧
    (∃ (s : State), s.Ready ∧ s.dev.boot.rom = true ∧ s.dev.boot.deadlineFrom = none) ∧
    (∃ (s : State) (f : Nat), s.Ready ∧ s.dev.boot.rom = true ∧ s.dev.boot.fetched = false ∧ s.view.aonLost = false ∧
      bits (s.reg Reg.secBootStatus) 1 0 = 0 ∧ s.dev.boot.deadlineFrom = some f ∧ ((f + 25000000 * if bits (s.reg
      Reg.secBootDeadline) 7 0 = 0 then 256 else bits (s.reg Reg.secBootDeadline) 7 0) ≤ s.dev.clk.aon)) ∧
    (∃ (s : State) (f : Nat), s.Ready ∧ s.dev.boot.rom = true ∧ s.dev.boot.fetched = false ∧ s.view.aonLost = false ∧
      bits (s.reg Reg.secBootStatus) 1 0 = 0 ∧ s.dev.boot.deadlineFrom = some f ∧ (s.dev.clk.aon < f + 25000000 * if
      bits (s.reg Reg.secBootDeadline) 7 0 = 0 then 256 else bits (s.reg Reg.secBootDeadline) 7 0)) ∧
    (∃ (s : State), s.Ready ∧ s.dev.boot.fetched = true) :=
  ⟨⟨fw, 0x404, 8, by decide +kernel⟩,
    ⟨fw, 0, by decide +kernel⟩,
    ⟨setR Reg.ilStatus 2 fw, by decide +kernel⟩,
    ⟨up, 63, by decide +kernel⟩,
    ⟨setR Reg.ilStatus 0 fw, by decide +kernel⟩,
    ⟨fw, 63, by decide +kernel⟩,
    ⟨up, 0x3000, by decide +kernel⟩,
    ⟨setD (fun d => { d with boot := { d.boot with rom := true }, clk := { d.clk with aon := 77 } }) up, by decide +kernel⟩,
    ⟨setD (fun d => { d with boot := { d.boot with rom := true, deadlineFrom := some 5 }, clk := { d.clk with aon := 250000005 } }) up,
      5, by decide +kernel⟩,
    ⟨setD (fun d => { d with boot := { d.boot with rom := true, deadlineFrom := some 5 }, clk := { d.clk with aon := 250000004 } }) up,
      5, by decide +kernel⟩,
    ⟨setR Reg.secBootDeadline 0 (setD (fun d => { d with boot := { d.boot with rom := true, fetched := true, deadlineFrom := some 5 }, clk := { d.clk with aon := 6400000005 } }) up), by decide +kernel⟩⟩

/-- States and operands that meet the hypotheses of `Obligations.KeysAttestAndLifeCycle`. -/
theorem witness_KeysAttestAndLifeCycle :
    (∃ (s : State) (slot : Nat) (key : Bytes), s.Ready ∧ s.dev.sec.burning = some (slot, key) ∧ slot < 4) ∧
    (∃ (s : State) (v : W32), s.Ready ∧ s.view.bar0Open Reg.secCmd = true ∧ bits (BitVec.toNat v) 3 2 = 2 ∧
      (s.dev.sec.burning.isSome = true ∨ s.view.lifeCycle ≠ 1 ∧ s.view.lifeCycle ≠ 2)) ∧
    (∃ (s : State) (v : W32), s.Ready ∧ s.view.bar0Open Reg.secCmd = true ∧ bits (BitVec.toNat v) 3 2 = 1 ∧
      (s.dev.sec.burning.isSome = true ∨ s.view.lifeCycle ≠ 1 ∨ bit s.dev.chip.burnt (BitVec.toNat v % 4) = true)) ∧
    (∃ (s : State) (v : W32), s.Ready ∧ s.view.bar0Open Reg.secCmd = true ∧ bits (BitVec.toNat v) 3 2 = 1 ∧
      s.dev.sec.burning = none ∧ s.view.lifeCycle = 1 ∧ bit s.dev.chip.burnt (BitVec.toNat v % 4) = false) ∧
    (∃ (s : State) (v : W32), s.Ready ∧ s.view.bar0Open Reg.secCmd = true ∧ bits (BitVec.toNat v) 3 2 = 2 ∧
      s.dev.sec.burning = none ∧ (s.view.lifeCycle = 1 ∨ s.view.lifeCycle = 2)) ∧
    (∃ (s : State) (r : Nat) (c : Cmd), s.Ready ∧ r < 16 ∧ s.Serves r 160 c ∧ s.dev.boot.lcTarget = none ∧
      s.view.anyJob = none ∧ (s.view.lifeCycle = 0 ∧ c.p 0 % 4 = 1 ∨ s.view.lifeCycle = 1 ∧ c.p 0 % 4 = 2 ∨
      (s.view.lifeCycle = 1 ∨ s.view.lifeCycle = 2) ∧ c.p 0 % 4 = 3)) ∧
    (∃ (s : State) (r : Nat) (c : Cmd), s.Ready ∧ r < 16 ∧ s.Serves r 160 c ∧ s.dev.boot.lcTarget = none ∧
      s.view.anyJob = none ∧ (¬(s.view.lifeCycle = 0 ∧ c.p 0 % 4 = 1 ∨ s.view.lifeCycle = 1 ∧ c.p 0 % 4 = 2 ∨
      (s.view.lifeCycle = 1 ∨ s.view.lifeCycle = 2) ∧ c.p 0 % 4 = 3))) ∧
    (∃ (s : State) (r : Nat) (c : Cmd), s.Ready ∧ r < 16 ∧ s.Serves r 144 c ∧ s.view.idKey = none) ∧
    (∃ (s : State) (r : Nat) (c : Cmd) (h : Nat), s.Ready ∧ r < 16 ∧ s.Serves r 160 c ∧ s.dev.boot.lcTarget = none ∧
      s.view.anyJob = some h) ∧
    (∃ (s : State) (r : Nat) (c : Cmd) (key : Bytes), s.Ready ∧ r < 16 ∧ s.Serves r 144 c ∧ s.view.idKey = some key ∧
      7475 + 136 * List.length s.dev.consists ≤ c.p 2) :=
  ⟨⟨setD (fun d => { d with sec := { d.sec with burning := some (3, List.replicate 2592 (9 : Byte)) } }) prov, 3,
      List.replicate 2592 (9 : Byte), by decide +kernel⟩,
    ⟨setD (fun d => { d with sec := { d.sec with burning := some (3, List.replicate 2592 (9 : Byte)) } }) prov,
      BitVec.ofNat 32 0xB, by decide +kernel⟩,
    ⟨fw, BitVec.ofNat 32 0x7, by decide +kernel⟩,
    ⟨prov, BitVec.ofNat 32 0x7, by decide +kernel⟩,
    ⟨prov, BitVec.ofNat 32 0xB, by decide +kernel⟩,
    ⟨serve 0 0xA0 [1] fw, 0, cmdOf 0xA0 [1], by decide +kernel⟩,
    ⟨serve 0 0xA0 [2] fw, 0, cmdOf 0xA0 [2], by decide +kernel⟩,
    ⟨serve 15 0x90 [0, 0x10000, 20000] fw, 15, cmdOf 0x90 [0, 0x10000, 20000], by decide +kernel⟩,
    ⟨serve 0 0xA0 [2] (setD (fun d => { d with jobs := [(4095, {})]}) fw), 0, cmdOf 0xA0 [2], 4095, by decide +kernel⟩,
    ⟨serve 15 0x90 [0, 0x10000, 20000] (setD (fun d => { d with chip := { d.chip with seed := some (List.replicate 32 (3:Byte)) }, consists := [(5, {})] }) prov),
      15, cmdOf 0x90 [0, 0x10000, 20000],
      ((serve 15 0x90 [0, 0x10000, 20000] (setD (fun d => { d with chip := { d.chip with seed := some (List.replicate 32 (3:Byte)) } }) prov)).view.idKey).getD [], by
        refine ⟨?_, ?_, ?_, ?_, ?_⟩ <;>
        first | decide +kernel | rfl⟩⟩

/-- States and operands that meet the hypotheses of `Obligations.CommandFetchTakesTheTurn`. -/
theorem witness_CommandFetchTakesTheTurn :
    (∃ (s : State) (r : Nat) (b : Bytes), s.Ready ∧ r < 16 ∧ List.length b = 64 ∧ s.view.ringTurn = some r ∧
      s.view.busMaster = true ∧ s.view.gate (parseCmd b (s.view.ringHead r) s.dev.host.fetches).opcode = none ∧
      (parseCmd b (s.view.ringHead r) s.dev.host.fetches).plen ≤ 48 ∧ (parseCmd b (s.view.ringHead r)
      s.dev.host.fetches).plen % 8 = 0 ∧ opcodes.contains (parseCmd b (s.view.ringHead r) s.dev.host.fetches).opcode =
      true ∧ reservedAt (parseCmd b (s.view.ringHead r) s.dev.host.fetches).opcode b (parseCmd b (s.view.ringHead r)
      s.dev.host.fetches).params = none) ∧
    (∃ (s : State) (r : Nat) (p : HostData), s.Ready ∧ r < 16 ∧ (∀ (b : Bytes), p = some b → List.length b = 64) ∧
      s.view.ringTurn ≠ some r) :=
  ⟨⟨rung 15 fw, 15, pkt 2 8 [0x1000], by decide +kernel⟩,
    ⟨rung 15 fw, 14, some (pkt 2 8 [0x1000]), by decide +kernel⟩⟩

/-- States and operands that meet the hypotheses of `Obligations.BootRomCommands`. -/
theorem witness_BootRomCommands :
    (∃ (s : State) (r : Nat) (p : HostData), s.Ready ∧ s.dev.boot.fw = false ∧ r < 16 ∧ r ≠ 0 ∧ (∀ (b : Bytes), p =
      some b → List.length b = 64) ∧ s.view.bootFailed = false) ∧
    (∃ (s : State) (b : Bytes), s.Ready ∧ s.dev.boot.fw = false ∧ List.length b = 64 ∧ s.view.ringTurn = some 0 ∧
      s.view.busMaster = true ∧ (parseCmd b (s.view.ringHead 0) s.dev.host.fetches).opcode ≠ 2 ∧ (parseCmd b
      (s.view.ringHead 0) s.dev.host.fetches).opcode ≠ 16) ∧
    (∃ (s : State) (b : Bytes), s.Ready ∧ s.dev.boot.fw = false ∧ List.length b = 64 ∧ s.view.ringTurn = some 0 ∧
      s.view.busMaster = true ∧ ((parseCmd b (s.view.ringHead 0) s.dev.host.fetches).opcode = 2 ∨ (parseCmd b
      (s.view.ringHead 0) s.dev.host.fetches).opcode = 16) ∧ s.view.bootFailed = false ∧ (parseCmd b (s.view.ringHead
      0) s.dev.host.fetches).plen ≤ 48 ∧ (parseCmd b (s.view.ringHead 0) s.dev.host.fetches).plen % 8 = 0 ∧ reservedAt
      (parseCmd b (s.view.ringHead 0) s.dev.host.fetches).opcode b (parseCmd b (s.view.ringHead 0)
      s.dev.host.fetches).params = none) ∧
    (∃ (s : State) (c : Cmd), s.Ready ∧ s.dev.boot.fw = false ∧ s.Serves 0 2 c ∧ c.p 0 % 8 = 0) :=
  ⟨⟨rung 0 rom, 15, some (pkt 2 8 [0x1000]), by decide +kernel⟩,
    ⟨rung 0 rom, pkt 1 8 [1], by decide +kernel⟩,
    ⟨rung 0 rom, pkt 0x10 24 [1], by decide +kernel⟩,
    ⟨serve 0 2 [0x1008] rom, cmdOf 2 [0x1008], by decide +kernel⟩⟩

/-- States and operands that meet the hypotheses of `Obligations.FirmwareLoadTests`. -/
theorem witness_FirmwareLoadTests :
    (∃ (s : State) (r : Nat) (c : Cmd) (b : Bytes), s.Ready ∧ r < 16 ∧ s.Serves r 16 c ∧ s.dev.boot.fw = false ∧
      s.dev.host.heldOut = [] ∧ c.p 1 ≤ List.length b) :=
  ⟨serve 0 0x10 [0, 7648, 0] rom, 0, cmdOf 0x10 [0, 7648, 0], (zeros 7648), by decide +kernel⟩

/-- States and operands that meet the hypotheses of `Obligations.QueryCommands`. -/
theorem witness_QueryCommands :
    (∃ (s : State) (r : Nat), s.Ready ∧ r < 16 ∧ s.view.busMaster = false) ∧
    (∃ (s : State) (r : Nat) (c : Cmd), s.Ready ∧ r < 16 ∧ s.Serves r 2 c ∧ c.p 0 % 8 = 0) ∧
    (∃ (s : State) (r : Nat) (c : Cmd) (v : Nat), s.Ready ∧ r < 16 ∧ s.Serves r 1 c ∧ s.view.anyJob = none ∧ v ∈
      ifVersions ∧ bits (c.p 0) 15 0 ≤ v ∧ v ≤ bits (c.p 0) 31 16 ∧ (∀ (u : Nat), u ∈ ifVersions → bits (c.p 0) 15 0 ≤
      u → u ≤ bits (c.p 0) 31 16 → u ≤ v)) ∧
    (∃ (s : State) (r : Nat) (c : Cmd), s.Ready ∧ r < 16 ∧ s.Serves r 1 c ∧ s.view.anyJob = none ∧ (∀ (u : Nat), u ∈
      ifVersions → ¬(bits (c.p 0) 15 0 ≤ u ∧ u ≤ bits (c.p 0) 31 16))) ∧
    (∃ (s : State) (r : Nat) (c : Cmd) (h : Nat), s.Ready ∧ r < 16 ∧ s.Serves r 1 c ∧ s.view.anyJob = some h) ∧
    (∃ (s : State) (r : Nat) (c : Cmd), s.Ready ∧ r < 16 ∧ s.Serves r 80 c ∧ c.p 0 < 2 ^ s.view.stations ∧ c.p 1 % 32
      = 0) ∧
    (∃ (s : State) (r : Nat) (c : Cmd) (b : Bytes), s.Ready ∧ r < 16 ∧ s.Serves r 81 c ∧ 1 ≤ c.p 1 ∧ c.p 1 ≤ 4096 ∧ 8
      * c.p 1 ≤ List.length b ∧ (∀ (k : Nat), k < 64 → s.CounterQuiet k)) :=
  ⟨⟨serve 15 0x51 [0, 4, 0x1000] (setD (fun d => { d with host := { d.host with cfg := [] } }) fw), 15, by decide +kernel⟩,
    ⟨serve 15 2 [0x1000] fw, 15, cmdOf 2 [0x1000], by decide +kernel⟩,
    ⟨serve 15 1 [0x03010200] fw, 15, cmdOf 1 [0x03010200], (0x301 : Nat), by decide +kernel⟩,
    ⟨serve 15 1 [0xFFFF0302] fw, 15, cmdOf 1 [0xFFFF0302], by decide +kernel⟩,
    ⟨serve 15 1 [0xFFFF0302] (job {} 4095 fw), 15, cmdOf 1 [0xFFFF0302], 4095, by decide +kernel⟩,
    ⟨serve 15 0x50 [0x8001, 0x1000] fw, 15, cmdOf 0x50 [0x8001, 0x1000], by decide +kernel⟩,
    ⟨serve 15 0x51 [0, 4, 0x1000] fw, 15, cmdOf 0x51 [0, 4, 0x1000],
      [Reg.ttCtrl, Reg.pwrCap, 0, 2^63].flatMap (toLe 8), by decide +kernel⟩⟩

/-- States and operands that meet the hypotheses of `Obligations.MaintenanceCommands`. -/
theorem witness_MaintenanceCommands :
    (∃ (s : State) (r : Nat) (c : Cmd), s.Ready ∧ r < 16 ∧ s.Serves r 96 c) ∧
    (∃ (s : State) (r : Nat) (c : Cmd), s.Ready ∧ r < 16 ∧ s.Serves r 176 c ∧ (¬c.p 0 = 1 → c.p 1 % 65536 = 0 ∧ c.p 2
      % 65536 = 0 ∧ s.view.ddrReachable (if c.p 0 = 1 then 0 else c.p 1) (c.p 2) = true)) ∧
    (∃ (s : State) (r : Nat) (c : Cmd), s.Ready ∧ r < 16 ∧ s.Serves r 98 c ∧ 0 < c.p 0 ∧ c.p 0 < 2 ^ s.view.stations ∧
      bits (c.p 1) 19 0 % 128 = 0 ∧ ((if bits (c.p 1) 39 20 = 0 then 4096 else bits (c.p 1) 39 20) % 128 = 0) ∧ ((bits
      (c.p 1) 19 0 + if bits (c.p 1) 39 20 = 0 then 4096 else bits (c.p 1) 39 20) ≤ slabSize) ∧ c.p 2 % 4096 = 0 ∧
      (s.view.ddrReachable (c.p 2) ((256 * if bits (c.p 1) 39 20 = 0 then 4096 else bits (c.p 1) 39 20) * popCount
      (c.p 0) 16) = true) ∧ (s.view.windowJob (c.p 2) (c.p 2 + (256 * if bits (c.p 1) 39 20 = 0 then 4096 else bits
      (c.p 1) 39 20) * popCount (c.p 0) 16) = none) ∧ (∀ (a : Activity), a ∈ s.dev.maint → a.code ≠ 4) ∧ s.dev.samples
      = []) ∧
    (∃ (s : State) (r : Nat) (c : Cmd), s.Ready ∧ r < 16 ∧ s.Serves r 97 c) :=
  ⟨⟨serve 15 0x60 [3 + 0x80010000] fw, 15, cmdOf 0x60 [3 + 0x80010000], by decide +kernel⟩,
    ⟨serve 15 0xB0 [0, 0x10000, 0x10000] (wiped fw), 15, cmdOf 0xB0 [0, 0x10000, 0x10000], by decide +kernel⟩,
    ⟨serve 15 0x62 [0x8001, 0, 0x1000, 4096] fw, 15, cmdOf 0x62 [0x8001, 0, 0x1000, 4096], by decide +kernel⟩,
    ⟨serve 15 0x61 [4 + 0xF0000] (setD (fun d => { d with maint := [{ code := 4, target := 15 }], stn := [(15, { scrubOn := true})] }) fw),
      15, cmdOf 0x61 [4 + 0xF0000], by decide +kernel⟩⟩

/-- States and operands that meet the hypotheses of `Obligations.LoadConsist`. -/
theorem witness_LoadConsist :
    (∃ (s : State) (x : LoadRun) (c : Cmd), s.dev.load = some x ∧ x.partialLoad = false ∧ x.ring < 16 ∧ (s.view.ring
      x.ring).cmd = some c ∧ s.view.busMaster = true ∧ bit (s.reg Reg.ilCtrl) 0 = false ∧ x.image = none ∧ 0 < x.cmd.p
      1 ∧ ∃ (v : Verdict), (loadAt s).2.planLoad x.extent (List.take (x.cmd.p 1) (Option.getD x.image [])) (x.cmd.p 1)
      (x.cmd.p 2) (List.map (fun i => leNat (Option.getD x.patch []) (8 * i) 8) (List.range (bits (x.cmd.p 4) 8 0)))
      (loadAt s).1.toNat = Except.error v ∧ v.status ≠ scBadParam ∧ v.status ≠ scVersion) ∧
    (∃ (s : State) (x : LoadRun) (c : Cmd) (k : Nat) (d : TokDecl) (e : CntDecl), s.dev.load = some x ∧ x.partialLoad
      = false ∧ x.ring < 16 ∧ (s.view.ring x.ring).cmd = some c ∧ s.view.busMaster = true ∧ s.dev.host.heldOut = [] ∧
      ∃ (p : Plan), (loadAt s).2.planLoad x.extent (List.take (x.cmd.p 1) (Option.getD x.image [])) (x.cmd.p 1)
      (x.cmd.p 2) (List.map (fun i => leNat (Option.getD x.patch []) (8 * i) 8) (List.range (bits (x.cmd.p 4) 8 0)))
      (loadAt s).1.toNat = Except.ok p ∧ p.secondBad (List.take (x.cmd.p 1) (Option.getD x.pass2 [])) = none ∧ (∀ (d :
      CntDecl), d ∈ p.consist.counters → d.phys < 64) ∧ k ≠ p.index ∧ d ∈ p.consist.tokens ∧ e ∈ p.consist.counters) ∧
    (∃ (s : State) (x : LoadRun) (c : Cmd) (v : Verdict), s.dev.load = some x ∧ x.partialLoad = false ∧ x.ring < 16 ∧
      (s.view.ring x.ring).cmd = some c ∧ s.view.busMaster = true ∧ v.status ≠ scBadParam ∧ v.status ≠ scVersion ∧ bit
      (s.reg Reg.ilCtrl) 0 = false ∧ ∃ (p : Plan), (loadAt s).2.planLoad x.extent (List.take (x.cmd.p 1) (Option.getD
      x.image [])) (x.cmd.p 1) (x.cmd.p 2) (List.map (fun i => leNat (Option.getD x.patch []) (8 * i) 8) (List.range
      (bits (x.cmd.p 4) 8 0))) (loadAt s).1.toNat = Except.ok p ∧ p.secondBad (List.take (x.cmd.p 1) (Option.getD
      x.pass2 [])) = some v) ∧
    (∃ (s : State) (r : Nat) (patch : HostData) (c : Cmd), s.Ready ∧ r < 16 ∧ s.Serves r 32 c ∧ bits (c.p 4) 8 0 ≤ 256
      ∧ (8 * bits (c.p 4) 8 0 ≤ List.length (Option.getD patch []) ∨ bits (c.p 4) 8 0 = 0) ∧ s.dev.load = none) ∧
    (∃ (s : State) (r : Nat) (patch : HostData) (c : Cmd), s.Ready ∧ r < 16 ∧ s.Serves r 32 c ∧ bits (c.p 4) 8 0 ≤ 256
      ∧ bits (c.p 4) 8 0 ≠ 0 ∧ List.length (Option.getD patch []) < 8 * bits (c.p 4) 8 0) ∧
    (∃ (s : State) (r : Nat) (c : Cmd), s.Ready ∧ r < 16 ∧ s.Serves r 32 c ∧ 256 < bits (c.p 4) 8 0) ∧
    (∃ (s : State) (r : Nat) (patch : HostData) (c : Cmd) (y : LoadRun), s.Ready ∧ r < 16 ∧ s.Serves r 32 c ∧ bits
      (c.p 4) 8 0 ≤ 256 ∧ (8 * bits (c.p 4) 8 0 ≤ List.length (Option.getD patch []) ∨ bits (c.p 4) 8 0 = 0) ∧
      s.dev.load = some y) :=
  ⟨⟨ldg none none, ldx none none (ldS.view.goldenExtent [] image1.length), { cmdOf 0x20 lps with begun := true }, by refine ⟨rfl, ?_, ?_, ?_, ?_, ?_, ?_, ?_, exErr ?_⟩ <;> decide +kernel⟩,
    ⟨ldOk, ldxOk, { cmdOf 0x20 lps with begun := true }, 5, { cursors := 2, slot := 1, init := 9 }, { init := 11 }, by refine ⟨rfl, ?_, ?_, ?_, ?_, ?_, image1_plan⟩ <;> decide +kernel⟩,
    ⟨ldTwo, ldxTwo, { cmdOf 0x20 lps with begun := true }, ⟨vFrame, 2, 0, none⟩, by refine ⟨rfl, ?_, ?_, ?_, ?_, ?_, ?_, ?_, image3_plan⟩ <;> decide +kernel⟩,
    ⟨ldS, 15, some (toLe 8 77), cmdOf 0x20 (lps), by decide +kernel⟩,
    ⟨ldS, 15, some (toLe 4 77), cmdOf 0x20 (lps), by decide +kernel⟩,
    ⟨serve 15 0x20 big fw, 15, cmdOf 0x20 big, by decide +kernel⟩,
    ⟨serve 15 0x20 (lps) (ldg none none), 15, some (toLe 8 77), cmdOf 0x20 (lps),
      ldx none none (ldS.view.goldenExtent [] 7184), by decide +kernel⟩⟩

/-- States and operands that meet the hypotheses of `Obligations.PartialLoadAndUnload`. -/
theorem witness_PartialLoadAndUnload :
    (∃ (s : State) (x : LoadRun) (c : Cmd) (old : Consist) (k : Nat), s.dev.load = some x ∧ x.partialLoad = true ∧
      x.ring < 16 ∧ (s.view.ring x.ring).cmd = some c ∧ s.view.busMaster = true ∧ s.view.consist x.consist = some old
      ∧ bit (s.reg Reg.ilCtrl) 0 = false ∧ k ≠ x.consist ∧ ∃ (v : Verdict), (loadAt s).2.planPartial (List.take
      (x.cmd.p 1) (Option.getD x.image [])) (x.cmd.p 1) x.consist old (loadAt s).1.toNat = Except.error v ∧ v.status ≠
      scBadParam ∧ v.status ≠ scVersion) ∧
    (∃ (s : State) (x : LoadRun) (c : Cmd) (old : Consist) (k : Nat), s.dev.load = some x ∧ x.partialLoad = true ∧
      x.ring < 16 ∧ (s.view.ring x.ring).cmd = some c ∧ s.view.busMaster = true ∧ s.view.consist x.consist = some old
      ∧ (∀ (e : Nat × Job), e ∈ s.dev.jobs → e.snd.consist = x.consist → e.snd.install = none) ∧ k ≠ x.consist ∧ ∃ (p
      : Consist × Image × List Frame), (loadAt s).2.planPartial (List.take (x.cmd.p 1) (Option.getD x.image []))
      (x.cmd.p 1) x.consist old (loadAt s).1.toNat = Except.ok p) ∧
    (∃ (s : State) (r : Nat) (c : Cmd), s.Ready ∧ r < 16 ∧ s.Serves r 34 c ∧ s.view.consist (c.p 0 % 64) = none) ∧
    (∃ (s : State) (r : Nat) (image : HostData) (c : Cmd), s.Ready ∧ r < 16 ∧ s.Serves r 33 c ∧ (s.view.consist (c.p 2
      % 64)).isSome = true ∧ s.view.gangRegion ≠ some (c.p 2 % 64, leNat (List.take (c.p 1) (Option.getD image [])) 13
      1) ∧ s.dev.load = none) ∧
    (∃ (s : State) (r : Nat) (c : Cmd), s.Ready ∧ r < 16 ∧ s.Serves r 33 c ∧ s.view.consist (c.p 2 % 64) = none) ∧
    (∃ (s : State) (r : Nat) (image : HostData) (c : Cmd), s.Ready ∧ r < 16 ∧ s.Serves r 33 c ∧ (s.view.consist (c.p 2
      % 64)).isSome = true ∧ s.view.gangRegion = some (c.p 2 % 64, leNat (List.take (c.p 1) (Option.getD image [])) 13
      1)) ∧
    (∃ (s : State) (r : Nat) (c : Cmd) (x : Consist), s.Ready ∧ r < 16 ∧ s.Serves r 34 c ∧ s.view.consist (c.p 0 % 64)
      = some x ∧ (∀ (e : Nat × Job), e ∈ s.dev.jobs → e.snd.consist ≠ c.p 0 % 64) ∧ (∀ (d : TokDecl), d ∈ x.tokens →
      (s.view.token d.st d.slot).waiters = []) ∧ (∀ (d : CntDecl), d ∈ x.counters → d.phys < 64)) ∧
    (∃ (s : State) (r : Nat) (image : HostData) (c : Cmd) (y : LoadRun), s.Ready ∧ r < 16 ∧ s.Serves r 33 c ∧
      (s.view.consist (c.p 2 % 64)).isSome = true ∧ s.view.gangRegion ≠ some (c.p 2 % 64, leNat (List.take (c.p 1)
      (Option.getD image [])) 13 1) ∧ s.dev.load = some y) ∧
    (∃ (s : State) (r : Nat) (c : Cmd) (x : Consist) (h : Nat), s.Ready ∧ r < 16 ∧ s.Serves r 34 c ∧ s.view.consist
      (c.p 0 % 64) = some x ∧ s.view.runningOf (c.p 0 % 64) = some h) :=
  ⟨⟨pgo none, ldp none, { cmdOf 0x21 pps with begun := true }, c0P, 5, by refine ⟨rfl, ?_, ?_, ?_, ?_, ?_, ?_, ?_, exErr ?_⟩ <;> decide +kernel⟩,
    ⟨pgo (some image1P), ldp (some image1P), { cmdOf 0x21 pps with begun := true }, c0P, 5, by refine ⟨rfl, ?_, ?_, ?_, ?_, ?_, ?_, ?_, image1P_plan⟩ <;> decide +kernel⟩,
    ⟨serve 15 0x22 [63] fw, 15, cmdOf 0x22 [63], by decide +kernel⟩,
    ⟨plS, 15, some image1P, cmdOf 0x21 pps, by decide +kernel⟩,
    ⟨serve 15 0x21 pps fw, 15, cmdOf 0x21 pps, by decide +kernel⟩,
    ⟨setR Reg.gangStatus 1 plS, 15, some image1P, cmdOf 0x21 pps, by decide +kernel⟩,
    ⟨serve 15 0x22 [0] (setR Reg.goldenBad 3 resident), 15, cmdOf 0x22 [0], c0, by decide +kernel⟩,
    ⟨serve 15 0x21 pps (pgo none), 15, some image1P, cmdOf 0x21 pps, ldp none, by decide +kernel⟩,
    ⟨serve 15 0x22 [0] (job {phase := .stabled} 7 resident), 15, cmdOf 0x22 [0], c0, 7, by decide +kernel⟩⟩

/-- States and operands that meet the hypotheses of `Obligations.JobCommands`. -/
theorem witness_JobCommands :
    (∃ (s : State) (r : Nat) (c : Cmd), s.Ready ∧ r < 16 ∧ s.Serves r 65 c ∧ s.view.job (c.p 0 % 4096) = none) ∧
    (∃ (s : State) (r : Nat) (c : Cmd), s.Ready ∧ r < 16 ∧ s.Serves r 66 c ∧ s.view.job (c.p 0 % 4096) = none) ∧
    (∃ (s : State) (r : Nat) (c : Cmd), s.Ready ∧ r < 16 ∧ s.Serves r 64 c ∧ s.view.consist (bits (c.p 0) 5 0) = none) ∧
    (∃ (s : State) (r : Nat) (c : Cmd), s.Ready ∧ r < 16 ∧ s.Serves r 64 c ∧ (s.view.consist (bits (c.p 0) 5
      0)).isSome = true ∧ bit (c.p 0) 9 = false ∧ (bit (c.p 0) 8 = true → 769 ≤ s.view.version ∧ bits (c.p 0) 18 11 ≤
      239 ∧ c.p 2 % 4096 = 0 ∧ c.p 3 ≠ 0 ∧ c.p 3 ≤ 65280) ∧ bit (c.p 0) 8 = false ∧ c.p 2 % 128 ≠ 0) ∧
    (∃ (s : State) (r : Nat) (args : HostData) (c : Cmd) (h : Nat), s.Ready ∧ r < 16 ∧ s.Serves r 64 c ∧
      (s.view.consist (bits (c.p 0) 5 0)).isSome = true ∧ bit (c.p 0) 9 = false ∧ (bit (c.p 0) 8 = true → 769 ≤
      s.view.version ∧ bits (c.p 0) 18 11 ≤ 239 ∧ c.p 2 % 4096 = 0 ∧ c.p 3 ≠ 0 ∧ c.p 3 ≤ 65280) ∧ (bit (c.p 0) 8 =
      false → c.p 2 % 128 = 0) ∧ (c.p 4 ≠ 0 → 64 ≤ List.length (Option.getD args [])) ∧ (∀ (k : Nat), (if bit (c.p 0)
      8 = true then some (bits (c.p 0) 18 11) else none) = some k → (s.view.window k).busy = false) ∧ bit (c.p 0) 6 =
      false ∧ h < 4096 ∧ s.view.job h = none ∧ (∀ (k : Nat), k < h → (s.view.job k).isSome = true) ∧ (∀ (e : Nat ×
      Job), e ∈ s.dev.jobs → e.snd.rtWaits = false ∧ e.snd.phase ≠ JobPhase.running)) ∧
    (∃ (s : State) (r : Nat) (c : Cmd) (j : Job), s.Ready ∧ r < 16 ∧ s.Serves r 65 c ∧ s.view.job (c.p 0 % 4096) =
      some j ∧ (j.phase = JobPhase.ended ∨ j.phase = JobPhase.finishing)) ∧
    (∃ (s : State) (r : Nat) (c : Cmd) (j : Job), s.Ready ∧ r < 16 ∧ s.Serves r 66 c ∧ s.view.job (c.p 0 % 4096) =
      some j ∧ j.seq ≠ c.p 1) ∧
    (∃ (s : State) (r : Nat) (c : Cmd) (j : Job), s.Ready ∧ r < 16 ∧ s.Serves r 66 c ∧ s.view.job (c.p 0 % 4096) =
      some j ∧ j.seq = c.p 1 ∧ j.phase ≠ JobPhase.ended) ∧
    (∃ (s : State) (r : Nat) (c : Cmd) (j : Job), s.Ready ∧ r < 16 ∧ s.Serves r 65 c ∧ s.view.job (c.p 0 % 4096) =
      some j ∧ j.phase = JobPhase.running) ∧
    (∃ (s : State) (r : Nat) (c : Cmd) (j : Job), s.Ready ∧ r < 16 ∧ s.Serves r 65 c ∧ s.view.job (c.p 0 % 4096) =
      some j ∧ j.phase = JobPhase.queued ∧ s.OnlyJob (c.p 0 % 4096) j ∧ j.window = none ∧ j.vector = none ∧
      j.countersign = false) ∧
    (∃ (s : State) (r : Nat) (r' : Nat) (c : Cmd) (d : Cmd), s.Ready ∧ r < 16 ∧ r' ≠ r ∧ (s.view.ring r).cmd = some c
      ∧ c.opcode = 66 ∧ (s.view.ring r').cmd = some d ∧ d.opcode = 65 ∧ d.begun = false ∧ d.order < c.order ∧ d.p 0 %
      4096 = c.p 0 % 4096) ∧
    (∃ (s : State) (r : Nat) (args : HostData) (c : Cmd) (k : Nat), s.Ready ∧ r < 16 ∧ s.Serves r 64 c ∧
      (s.view.consist (bits (c.p 0) 5 0)).isSome = true ∧ bit (c.p 0) 9 = false ∧ (bit (c.p 0) 8 = true → 769 ≤
      s.view.version ∧ bits (c.p 0) 18 11 ≤ 239 ∧ c.p 2 % 4096 = 0 ∧ c.p 3 ≠ 0 ∧ c.p 3 ≤ 65280) ∧ (bit (c.p 0) 8 =
      false → c.p 2 % 128 = 0) ∧ (c.p 4 ≠ 0 → 64 ≤ List.length (Option.getD args [])) ∧ ((if bit (c.p 0) 8 = true then
      some (bits (c.p 0) 18 11) else none) = some k) ∧ (s.view.window k).busy = true) ∧
    (∃ (s : State) (r : Nat) (c : Cmd) (j : Job), s.Ready ∧ r < 16 ∧ s.Serves r 66 c ∧ s.view.job (c.p 0 % 4096) =
      some j ∧ j.seq = c.p 1 ∧ j.phase = JobPhase.ended) :=
  ⟨⟨serve 15 0x41 [4095] fw, 15, cmdOf 0x41 [4095], by decide +kernel⟩,
    ⟨serve 15 0x42 [4095, 9] fw, 15, cmdOf 0x42 [4095, 9], by decide +kernel⟩,
    ⟨serve 15 0x40 (sub 5) fw, 15, cmdOf 0x40 (sub 5), by decide +kernel⟩,
    ⟨serve 15 0x40 [5, 0, 0x2040, 0, 0] (con 5 {} fw), 15, cmdOf 0x40 [5, 0, 0x2040, 0, 0], by decide +kernel⟩,
    ⟨serve 15 0x40 (sub 5) (con 5 {} fw), 15, some (List.replicate 64 (3 : Byte)), cmdOf 0x40 (sub 5), 0, by decide +kernel⟩,
    ⟨serve 15 0x41 [4095] (job {phase := .finishing} 4095 fw), 15, cmdOf 0x41 [4095], ({phase := .finishing} : Job), by decide +kernel⟩,
    ⟨serve 15 0x42 [4095, 9] (job {phase := .ended, seq := 8} 4095 fw), 15, cmdOf 0x42 [4095, 9],
      ({phase := .ended, seq := 8} : Job), by decide +kernel⟩,
    ⟨serve 15 0x42 [4095, 9] (job {phase := .stabled, seq := 9} 4095 fw), 15, cmdOf 0x42 [4095, 9],
      ({phase := .stabled, seq := 9} : Job), by decide +kernel⟩,
    ⟨serve 15 0x41 [4095] (job {phase := .running, rings := [3]} 4095 fw), 15, cmdOf 0x41 [4095],
      ({phase := .running, rings := [3]} : Job), by decide +kernel⟩,
    ⟨serve 15 0x41 [4095] (job {phase := .queued} 4095 fw), 15, cmdOf 0x41 [4095], ({phase := .queued} : Job), by decide +kernel⟩,
    ⟨twoCmds ({ cmdOf 0x42 [4095, 9] with order := 4 } : Cmd) ({ cmdOf 0x41 [4095] with order := 3 } : Cmd) (job {phase := .ended, seq := 9} 4095 fw),
      15, 3, ({ cmdOf 0x42 [4095, 9] with order := 4 } : Cmd), ({ cmdOf 0x41 [4095] with order := 3 } : Cmd), by decide +kernel⟩,
    ⟨serve 15 0x40 (sub (5 + 256 + 239 * 2048)) (con 5 {} (setD (fun d => { d with host := { d.host with windows := [(239, {busy := true, job := 77})]}}) fw)),
      15, some (List.replicate 64 (3 : Byte)), cmdOf 0x40 (sub (5 + 256 + 239 * 2048)), 239, by decide +kernel⟩,
    ⟨serve 15 0x42 [4095, 9] (job {phase := .ended, seq := 9, window := some 239} 4095 (setD (fun d => { d with host := { d.host with windows := [(239, {busy := true, job := 4095})]}}) fw)),
      15, cmdOf 0x42 [4095, 9], ({phase := .ended, seq := 9, window := some 239} : Job), by decide +kernel⟩⟩

/-- States and operands that meet the hypotheses of `Obligations.PackageInterfaces`. -/
theorem witness_PackageInterfaces :
    (∃ (s : State), s.Powered ∧ s.dev.clk.perst = true) ∧
    (∃ (s : State) (a : Nat), s.Powered ∧ a < 128 ∧ s.dev.side.dynAddr = none) ∧
    (∃ (s : State) (e : Nat), s.Powered ∧ e < 256) ∧
    (∃ (s : State), s.Powered ∧ s.dev.side.dynAddr = none) ∧
    (∃ (s : State) (ts : Temps) (avg1 : Nat) (avg100 : Nat), s.Powered ∧ List.length ts = 8 ∧ avg1 < 4096 ∧ avg100 <
      4096 ∧ (∀ (t : Int), t ∈ ts → -128 ≤ t ∧ t < 128) ∧ s.dev.clk.perst = false) ∧
    (∃ (s : State) (a : Nat), s.Powered ∧ s.dev.side.dynAddr = some a) ∧
    (∃ (s : State) (a : Nat), s.Powered ∧ s.dev.side.dynAddr = some a) ∧
    (∃ (s : State) (a : Nat) (b : Nat), s.Powered ∧ a < 128 ∧ s.dev.side.dynAddr = some b) :=
  ⟨⟨State.reset, by decide +kernel⟩,
    ⟨State.reset, 127, by decide +kernel⟩,
    ⟨State.reset, 255, by decide +kernel⟩,
    ⟨State.reset, by decide +kernel⟩,
    ⟨side (fun x => {x with dynAddr := some 9, offset := 0xC}) up, [-128, 5, 119, 7, 119, 0, 0, 1], 2701, 2401, by decide +kernel⟩,
    ⟨side (fun x => {x with dynAddr := some 9, offset := 0xC}) up, 9, by decide +kernel⟩,
    ⟨side (fun x => {x with dynAddr := some 9, offset := 0xC}) up, 9, by decide +kernel⟩,
    ⟨side (fun x => {x with dynAddr := some 9, events := 0x81}) State.reset, 127, (9 : Nat), by decide +kernel⟩⟩

/-- States and operands that meet the hypotheses of `Obligations.PowerAndResets`. -/
theorem witness_PowerAndResets :
    (∃ (s : State), s.Powered ∧ s.dev.clk.perst = false) ∧
    (∃ (s : State), s.Powered ∧ s.dev.clk.perst = true) :=
  ⟨⟨dirty, by decide +kernel⟩,
    ⟨State.reset, by decide +kernel⟩⟩

/-- States and operands that meet the hypotheses of `Obligations.DomainResetsAndDrains`. -/
theorem witness_DomainResetsAndDrains :
    (∃ (s : State) (st : Nat) (b : Nat) (h : Nat), s.Ready ∧ st < 16 ∧ b < 256 ∧ (s.view.stn st).prev = none ∧
      s.view.stoppingOn st 19000 = some h ∧ (s.view.stn st).testDue = none) ∧
    (∃ (s : State) (st : Nat) (p : Nat), s.Ready ∧ st < 16 ∧ p < 8) ∧
    (∃ (s : State) (st : Nat) (e : Nat), s.Ready ∧ st < 16 ∧ e < 8 ∧ (s.view.stn st).prev = none) ∧
    (∃ (s : State) (st : Nat) (u : Nat), s.Ready ∧ st < 16 ∧ u < 256) ∧
    (∃ (s : State) (st : Nat), s.Ready ∧ st < 16 ∧ s.dev.boot.owed.contains (0, st) = true ∧ s.view.stationDrained st
      = true ∧ s.dev.boot.owed.contains (3, 0) = true ∧ s.dev.boot.lcTarget = none ∧ (∀ (st : Nat), st <
      s.view.stations → s.view.stationDrained st = true)) ∧
    (∃ (s : State) (g : Nat), s.Ready ∧ g < 4 ∧ s.dev.boot.owed.contains (1, g) = true ∧ (∃ i, i < 4 ∧ (s.view.ch (4 *
      g + i)).job.isSome = true)) ∧
    (∃ (s : State) (st : Nat), s.Ready ∧ st < 16 ∧ s.dev.boot.owed.contains (0, st) = true ∧ s.view.stationDrained st
      = false ∧ s.dev.boot.owed.contains (3, 0) = true ∧ s.dev.boot.lcTarget = none ∧ (∃ st, st < s.view.stations ∧
      s.view.stationDrained st = false)) ∧
    (∃ (s : State) (k : Nat) (i : Nat), s.Ready ∧ k < 5 ∧ i < 16 ∧ s.dev.boot.owed.contains (k, i) = false ∧
      s.dev.boot.owed.contains (4, 0) = true) ∧
    (∃ (s : State) (st : Nat) (b : Nat), s.Ready ∧ st < 16 ∧ b < 256 ∧ (s.view.stn st).prev = none ∧ s.view.stoppingOn
      st 19000 = none) ∧
    (∃ (s : State) (r : Nat) (c : Cmd), s.Ready ∧ r < 16 ∧ s.Serves r 112 c) ∧
    (∃ (s : State) (p : Nat), s.Ready ∧ p < 8 ∧ s.dev.boot.owed.contains (2, p) = true) ∧
    (∃ (s : State) (target : Nat), s.Ready ∧ s.dev.boot.owed.contains (3, 0) = true ∧ s.dev.boot.lcTarget = some
      target) ∧
    (∃ (s : State) (st : Nat) (due : Nat), s.Ready ∧ st < 16 ∧ (s.view.stn st).testDue = some due ∧ due ≤ s.view.now) ∧
    (∃ (s : State) (st : Nat) (due : Nat), s.Ready ∧ st < 16 ∧ (s.view.stn st).testDue = some due ∧ s.view.now < due) ∧
    (∃ (s : State) (g : Nat), s.Ready ∧ g < 4 ∧ s.dev.boot.owed.contains (1, g) = true ∧ (∀ (i : Nat), i < 4 →
      (s.view.ch (4 * g + i)).job = none)) :=
  ⟨⟨job { job0 with phase := .stopping, fault := some (1, 2, 3), faultAt := 10, endCyc := 400 } 9 (setD (fun d => { d with clk := { d.clk with arclk := 50000 }, eng := [(15 * 8 + 3, { busy := true, job := 9, pieces := [(1, {})], descs := [{}] })], rem := [(15 * 65536 + 5, { unit := 4, job := 9 })] }) run0),
      15, 7, 9, by decide +kernel⟩,
    ⟨job { job0 with phase := .stopping, fault := some (1, 2, 3), faultAt := 10, endCyc := 400 } 9 (setD (fun d => { d with clk := { d.clk with arclk := 50000 }, eng := [(15 * 8 + 3, { busy := true, job := 9, pieces := [(1, {})], descs := [{}] })], rem := [(15 * 65536 + 5, { unit := 4, job := 9 })] }) run0),
      15, 5, by decide +kernel⟩,
    ⟨job { job0 with phase := .stopping, fault := some (1, 2, 3), faultAt := 10, endCyc := 400 } 9 (setD (fun d => { d with clk := { d.clk with arclk := 50000 }, eng := [(15 * 8 + 3, { busy := true, job := 9, pieces := [(1, {})], descs := [{}] })], rem := [(15 * 65536 + 5, { unit := 4, job := 9 })] }) run0),
      15, 3, by decide +kernel⟩,
    ⟨job { job0 with phase := .stopping, fault := some (1, 2, 3), faultAt := 10, endCyc := 400 } 9 (setD (fun d => { d with clk := { d.clk with arclk := 50000 }, eng := [(15 * 8 + 3, { busy := true, job := 9, pieces := [(1, {})], descs := [{}] })], rem := [(15 * 65536 + 5, { unit := 4, job := 9 })] }) run0),
      15, 9, by decide +kernel⟩,
    ⟨owe [(0, 15), (1, 3), (3, 0)] (ch 13 { job := some 9 } run0), 15, by decide +kernel⟩,
    ⟨owe [(0, 15), (1, 3), (3, 0)] (ch 13 { job := some 9 } run0), 3, by decide +kernel⟩,
    ⟨que 7 { flight := [{ due := 3 }] } (owe [(0, 15), (3, 0)] (stn 15 {} fw)), 15, by decide +kernel⟩,
    ⟨owe [(4, 0)] (clkOf (fun c => {c with hclkOn := false}) (setD (fun d => { d with cdc := { d.cdc with lost := [(3, 0), (4, 0)]}}) fw)),
      4, 15, by decide +kernel⟩,
    ⟨stn 15 {} fw, 15, 7, by decide +kernel⟩,
    ⟨serve 15 0x70 [5] fw, 15, cmdOf 0x70 [5], by decide +kernel⟩,
    ⟨setR (Reg.portStatus 7) 3 (owe [(2, 7)] fw), 7, by decide +kernel⟩,
    ⟨setD (fun d => { d with boot := { d.boot with lcTarget := some 3 } }) (owe [(3, 0)] fw), 3, by decide +kernel⟩,
    ⟨{ stn 15 {testDue := some 1000} fw with mem := { fw.mem with slab := [(15*2^28-1, 3), (15*2^28, 4)]} }, 15,
      1000, by decide +kernel⟩,
    ⟨{ stn 15 {testDue := some 1001} fw with mem := { fw.mem with slab := [(15*2^28-1, 3), (15*2^28, 4)]} }, 15,
      1001, by decide +kernel⟩,
    ⟨setR (Reg.dmCtrl 15) 3 (setR (Reg.dmCtrl 11) 3 (owe [(1, 3)] (ch 15 {service := 0} (ch 14 {service := 0} (ch 13 {service := 0} (ch 12 {service := 2} (clkOf (fun c => {c with dclk := 15}) fw))))))),
      3, by decide +kernel⟩⟩

/-- States and operands that meet the hypotheses of `Obligations.ClockCrossings`. -/
theorem witness_ClockCrossings :
    (∃ (s : State) (c : Instr) (far : Nat) (idx : Nat), s.Ready ∧ 0 < far ∧ far < 6 ∧ idx < 16 ∧ (c = Instr.cdcTimeout
      far idx ∨ c = Instr.pllLockLoss far idx ∧ far ≠ 4) ∧ far < 5 ∧ s.Powered) :=
  ⟨clkOf (fun c => {c with dclk := 15}) fw, Instr.pllLockLoss 1 3, 1, 3, by decide +kernel⟩

/-- States and operands that meet the hypotheses of `Obligations.PcieAccesses`. -/
theorem witness_PcieAccesses :
    (∃ (s : State) (k : Nat), s.Ready ∧ s.dev.clk.hclkOn = true ∧ k < 1024) ∧
    (∃ (s : State) (tag : Nat), s.Ready ∧ ffind s.dev.host.reads tag = none) ∧
    (∃ (s : State) (a : Nat) (n : Nat), s.Ready ∧ s.dev.boot.fw = true ∧ 0 < n ∧ n ≤ 4096 ∧ a + n ≤ 2 ^ 36 ∧
      s.view.bar2Ok (bits (s.reg Reg.coBar2Base) 12 0 * 2 ^ 30 + a) n = true) ∧
    (∃ (s : State) (a : Nat) (d : Bytes), s.Ready ∧ s.dev.boot.fw = true ∧ 0 < List.length d ∧ List.length d ≤ 4096 ∧
      a + List.length d ≤ 2 ^ 36 ∧ s.view.bar2Ok (bits (s.reg Reg.coBar2Base) 12 0 * 2 ^ 30 + a) (List.length d) =
      true) ∧
    (∃ (s : State) (a : Nat) (n : Nat), s.Ready ∧ s.dev.boot.fw = true ∧ 0 < n ∧ n ≤ 4096 ∧ a + n ≤ 2 ^ 36 ∧
      s.view.bar2Ok (bits (s.reg Reg.coBar2Base) 12 0 * 2 ^ 30 + a) n = false) ∧
    (∃ (s : State) (a : Nat) (d : Bytes), s.Ready ∧ s.dev.boot.fw = true ∧ 0 < List.length d ∧ List.length d ≤ 4096 ∧
      a + List.length d ≤ 2 ^ 36 ∧ s.view.bar2Ok (bits (s.reg Reg.coBar2Base) 12 0 * 2 ^ 30 + a) (List.length d) =
      false) ∧
    (∃ (s : State) (tag : Nat) (st : Nat) (e : Nat) (p : Nat), s.Ready ∧ ffind s.dev.host.reads tag = some (st, e, p)
      ∧ (s.view.engine st e).busy = false ∧ ffind (s.view.engine st e).pieces p = none) ∧
    (∃ (s : State) (k : Nat), s.Ready ∧ s.dev.clk.hclkOn = false ∧ k < 1024) :=
  ⟨⟨fw, 1023, by decide +kernel⟩,
    ⟨fw, 5, by decide +kernel⟩,
    ⟨setR Reg.coBar2Base 2 fw, 100, 200, by decide +kernel⟩,
    ⟨setR Reg.coBar2Base 2 fw, 100, List.replicate 200 (7 : Byte), by decide +kernel⟩,
    ⟨setR Reg.coBar2Base 1023 fw, 2^30-1, 2, by decide +kernel⟩,
    ⟨setR Reg.coBar2Base 1023 fw, 2^30-1, List.replicate 2 (7 : Byte), by decide +kernel⟩,
    ⟨setD (fun d => { d with host := {d.host with reads := [(5, (15, 7, 3))]}}) fw, 5, 15, 7, 3, by decide +kernel⟩,
    ⟨clkOf (fun c => {c with hclkOn := false}) fw, 1023, by decide +kernel⟩⟩

/-- States and operands that meet the hypotheses of `Obligations.DdrService`. -/
theorem witness_DdrService :
    (∃ (s : State) (c : Nat), s.Ready ∧ c < 16) :=
  ⟨fw, 15, by decide +kernel⟩

/-- States and operands that meet the hypotheses of `Obligations.DdrMaintenance`. -/
theorem witness_DdrMaintenance :
    (∃ (s : State) (c : Nat) (rank : Nat), s.Ready ∧ c < 16 ∧ rank < 2) ∧
    (∃ (s : State) (trained : Nat), s.Ready ∧ trained < 65536 ∧ s.dev.boot.training = false) ∧
    (∃ (s : State) (trained : Nat) (cap : Nat), s.Ready ∧ s.dev.boot.training = true ∧ cap ≤ 2 ∧ trained < 65535 ∧ bit
      (s.reg Reg.secBootStatus) 5 = false) ∧
    (∃ (s : State) (cap : Nat), s.Ready ∧ s.dev.boot.training = true ∧ cap ≤ 2 ∧ bit (s.reg Reg.secBootStatus) 5 =
      true) :=
  ⟨⟨ch 15 {service := 0, backs := [15*4096+256, 15*4096]} (setD (fun d => {d with ddrErr := [((15*4096)/128, 3), ((15*4096+256)/128, 4)] }) fw),
      15, 1, by decide +kernel⟩,
    ⟨ch 15 {service := 0, backs := [15*4096+256, 15*4096]} (setD (fun d => {d with ddrErr := [((15*4096)/128, 3), ((15*4096+256)/128, 4)] }) fw),
      65534, by decide +kernel⟩,
    ⟨train fw, 0x7FFF, 2, by decide +kernel⟩,
    ⟨train (setR Reg.secBootStatus 0x20 fw), 0, by decide +kernel⟩⟩

/-- States and operands that meet the hypotheses of `Obligations.WriteBackIsAbandoned`. -/
theorem witness_WriteBackIsAbandoned :
    (∃ (err : Nat), 1 ≤ err ∧ err < 32) ∧
    (∃ (s : State) (c : Nat) (tag : Nat) (r : DdrReq), s.Ready ∧ c < 16 ∧ (s.view.ch c).service = svReorder ∧
      (s.view.ch c).port = [r] ∧ r.arrived = true ∧ r.write = true ∧ r.user = DdrUser.bar2 tag ∧ r.segs = [] ∧
      (s.view.ch c).backs = [r.off / 128 * 128] ∧ chanOf (r.off / 128 * 128) = c) :=
  ⟨⟨31, by decide +kernel⟩,
    ⟨ch 15 {service := 0, port := [rw], backs := [15*4096+256]} fw, 15, 3, rw, by decide +kernel⟩⟩

/-- States and operands that meet the hypotheses of `Obligations.SignalBoxInstructions`. -/
theorem witness_SignalBoxInstructions :
    (∃ (s : State) (st : Nat) (h : Nat) (j : Job) (i : Nat), s.Ready ∧ st < 16 ∧ insOp i = 0 ∧ s.Issues st h j i []) ∧
    (∃ (s : State) (st : Nat) (h : Nat) (j : Job) (i : Nat), s.Ready ∧ st < 16 ∧ insOp i = 1 ∧ s.Issues st h j i []) ∧
    (∃ (s : State) (st : Nat) (h : Nat) (j : Job) (i : Nat), s.Ready ∧ st < 16 ∧ insOp i = 8 ∧ insImm i % 16 ≤ 8 ∧
      s.Issues st h j i [insA i, insB i]) ∧
    (∃ (s : State) (st : Nat) (h : Nat) (j : Job) (i : Nat), s.Ready ∧ st < 16 ∧ insOp i = 9 ∧ s.Issues st h j i
      (fpuReads i) ∧ insImm i % 32 < 16) ∧
    (∃ (s : State) (st : Nat) (h : Nat) (j : Job) (i : Nat), s.Ready ∧ st < 16 ∧ insOp i = 2 ∧ s.Issues st h j i []) ∧
    (∃ (s : State) (st : Nat) (h : Nat) (j : Job) (i : Nat), s.Ready ∧ st < 16 ∧ insOp i = 3 ∧ s.Issues st h j i [insA
      i]) ∧
    (∃ (s : State) (st : Nat) (h : Nat) (j : Job) (i : Nat), s.Ready ∧ st < 16 ∧ insOp i = 4 ∧ s.Issues st h j i [insA
      i]) ∧
    (∃ (s : State) (st : Nat) (h : Nat) (j : Job) (i : Nat), s.Ready ∧ st < 16 ∧ insOp i = 6 ∧ s.Issues st h j i [insD
      i]) ∧
    (∃ (s : State) (st : Nat) (h : Nat) (j : Job) (i : Nat), s.Ready ∧ st < 16 ∧ insOp i = 5 ∧ s.Issues st h j i []) ∧
    (∃ (s : State) (st : Nat) (h : Nat) (j : Job) (i : Nat), s.Ready ∧ st < 16 ∧ insOp i = 9 ∧ s.Issues st h j i
      (fpuReads i) ∧ insImm i % 32 = 16) ∧
    (∃ (s : State) (st : Nat) (h : Nat) (j : Job) (i : Nat), s.Ready ∧ st < 16 ∧ insOp i = 9 ∧ s.Issues st h j i
      (fpuReads i) ∧ insImm i % 32 = 17) :=
  ⟨⟨atPc (insW 0 0 0 0 0) run0, 15, 9, job0, insW 0 0 0 0 0, by decide +kernel⟩,
    ⟨atPc (insW 1 0 0 0 0) run0, 15, 9, job0, insW 1 0 0 0 0, by decide +kernel⟩,
    ⟨atPc (insW 8 1 1 2 8) run0, 15, 9, job0, insW 8 1 1 2 8, by decide +kernel⟩,
    ⟨atPc (insW 9 31 1 2 3) run0, 15, 9, job0, insW 9 31 1 2 3, by decide +kernel⟩,
    ⟨atPc (insW 2 0 0 0 4095) run0, 15, 9, job0, insW 2 0 0 0 4095, by decide +kernel⟩,
    ⟨atPc (insW 3 0 1 0 4095) run0, 15, 9, job0, insW 3 0 1 0 4095, by decide +kernel⟩,
    ⟨atPc (insW 4 0 2 0 4095) run0, 15, 9, job0, insW 4 0 2 0 4095, by decide +kernel⟩,
    ⟨atPc (insW 6 1 0 0 0xFFFFFFFF) run0, 15, 9, job0, insW 6 1 0 0 0xFFFFFFFF, by decide +kernel⟩,
    ⟨atPc (insW 5 31 0 0 0xFFFFFFFF) run0, 15, 9, job0, insW 5 31 0 0 0xFFFFFFFF, by decide +kernel⟩,
    ⟨setR (Reg.sbFpflags 15) 0x1F (atPc (insW 9 31 1 2 16) run0), 15, 9, job0, insW 9 31 1 2 16, by decide +kernel⟩,
    ⟨setR (Reg.sbFpflags 15) 0x1F (atPc (insW 9 31 2 2 17) run0), 15, 9, job0, insW 9 31 2 2 17, by decide +kernel⟩⟩

/-- States and operands that meet the hypotheses of `Obligations.SignalBoxMessages`. -/
theorem witness_SignalBoxMessages :
    (∃ (s : State) (st : Nat) (h : Nat) (j : Job) (i : Nat), s.Ready ∧ st < 16 ∧ insOp i = 16 ∧ s.Issues st h j i [] ∧
      (s.view.arrayWants st (insImm i % 4096) = false ∧ s.view.ptWants st (insImm i % 4096) = false ∧ s.view.combWants
      st (insImm i % 4096) = false) ∧ (s.view.queue st (insImm i % 4096)).siding = [] ∧ s.view.headAbsent st (insImm i
      % 4096) = true) ∧
    (∃ (s : State) (st : Nat) (h : Nat) (j : Job) (i : Nat), s.Ready ∧ st < 16 ∧ insOp i = 16 ∧ s.Issues st h j i [] ∧
      (¬(s.view.arrayWants st (insImm i % 4096) = false ∧ s.view.ptWants st (insImm i % 4096) = false ∧
      s.view.combWants st (insImm i % 4096) = false))) ∧
    (∃ (s : State) (st : Nat) (h : Nat) (j : Job) (i : Nat) (c : Instr) (d : Bytes) (r : Nat), s.Ready ∧ st < 16 ∧ (c
      = Instr.sbSend st ∧ insOp i = 17 ∧ d = toLe 4 ((s.view.sb st).reg (insA i)) ∨ c = Instr.sbCtl st ∧ insOp i = 18
      ∧ d = toLe 2 ((s.view.sb st).reg (insA i) % 512)) ∧ s.Issues st h j i [insA i] ∧ s.view.routeOf st sbBay (insImm
      i % 4096) = some r) ∧
    (∃ (s : State) (st : Nat) (h : Nat) (j : Job) (i : Nat) (bs : Bytes) (v : Bool) (m : Mach), s.Ready ∧ st < 16 ∧
      insOp i = 16 ∧ s.Issues st h j i [] ∧ (s.view.arrayWants st (insImm i % 4096) = false ∧ s.view.ptWants st
      (insImm i % 4096) = false ∧ s.view.combWants st (insImm i % 4096) = false) ∧ s.view.take st (insImm i % 4096) =
      (some (bs, v), m)) ∧
    (∃ (s : State) (st : Nat) (h : Nat) (j : Job) (i : Nat) (c : Instr) (d : Bytes), s.Ready ∧ st < 16 ∧ (c =
      Instr.sbSend st ∧ insOp i = 17 ∧ d = toLe 4 ((s.view.sb st).reg (insA i)) ∨ c = Instr.sbCtl st ∧ insOp i = 18 ∧
      d = toLe 2 ((s.view.sb st).reg (insA i) % 512)) ∧ s.view.liveJob st = some (h, j) ∧ s.view.senderBlocked st
      sbBay (sbUnit st) = true) :=
  ⟨⟨atPc (insW 16 2 0 0 4095) (qW 4095 0 (1 + 119 * 32) (que 4095 { msgs := [], head := 2^32 - 1 } run0)), 15, 9,
      job0, insW 16 2 0 0 4095, by decide +kernel⟩,
    ⟨vuq 4095 (atPc (insW 16 2 0 0 4095) (qW 4095 0 (1 + 119 * 32) (que 4095 { msgs := [m4, m4], head := 2^32 - 1 } run0))),
      15, 9, job0, insW 16 2 0 0 4095, by decide +kernel⟩,
    ⟨atPc (insW 17 0 1 0 4095) (rtW 119 63 (4095 + 3 * 2^12 + 0 * 2^16 + 2^18) (run0)), 15, 9, job0,
      insW 17 0 1 0 4095, Instr.sbSend 15,
      toLe 4 ((atPc (insW 17 0 1 0 4095) (rtW 119 63 (4095 + 3 * 2^12 + 0 * 2^16 + 2^18) (run0))).view.sb 15 |>.reg 1),
      63, by decide +kernel⟩,
    ⟨atPc (insW 16 0 0 0 4095) (qW 4095 0 (1 + 119 * 32) (que 4095 { msgs := [m4], head := 2^32 - 1 } run0)), 15, 9,
      job0, insW 16 0 0 0 4095,
      (hd (atPc (insW 16 0 0 0 4095) (qW 4095 0 (1 + 119 * 32) (que 4095 { msgs := [m4], head := 2^32 - 1 } run0))) 4095).1,
      (hd (atPc (insW 16 0 0 0 4095) (qW 4095 0 (1 + 119 * 32) (que 4095 { msgs := [m4], head := 2^32 - 1 } run0))) 4095).2,
      ((atPc (insW 16 0 0 0 4095) (qW 4095 0 (1 + 119 * 32) (que 4095 { msgs := [m4], head := 2^32 - 1 } run0))).view.take 15 4095).2, by refine ⟨?_, ?_, ?_, ?_, ?_, takeOf (by decide +kernel)⟩ <;> decide +kernel⟩,
    ⟨atPc (insW 17 0 2 0 4095) (rtW 119 63 (4095 + 3 * 2^12 + 0 * 2^16 + 2^18) (outb 119 63 ({ unit := sbUnit 15 } :: List.replicate 4 { unit := sbUnit 15, stage := 3 }) run0)),
      15, 9, job0, insW 17 0 2 0 4095, Instr.sbSend 15,
      toLe 4 ((atPc (insW 17 0 2 0 4095) (rtW 119 63 (4095 + 3 * 2^12 + 0 * 2^16 + 2^18) (outb 119 63 ({ unit := sbUnit 15 } :: List.replicate 4 { unit := sbUnit 15, stage := 3 }) run0))).view.sb 15 |>.reg 2), by decide +kernel⟩⟩

/-- States and operands that meet the hypotheses of `Obligations.SignalBoxUnitStarts`. -/
theorem witness_SignalBoxUnitStarts :
    (∃ (s : State) (st : Nat) (h : Nat) (j : Job) (i : Nat), s.Ready ∧ st < 16 ∧ s.Issues st h j i [] ∧ insOp i = 43) ∧
    (∃ (s : State) (st : Nat) (h : Nat) (j : Job) (i : Nat) (c : Instr) (kind : Nat) (unit : Nat), s.Ready ∧ st < 16 ∧
      s.Issues st h j i [] ∧ ((c = Instr.sbJoin st ∧ insOp i = 26 ∧ kind = b2n (bit (insImm i) 8) ∧ unit = if bit
      (insImm i) 8 = true then insImm i % 32 else insImm i % 256) ∨ c = Instr.sbMjoin st ∧ insOp i = 42 ∧ kind = 2 ∧
      unit = insImm i % 8) ∧ s.view.unitJoined st kind unit = true) ∧
    (∃ (s : State) (st : Nat) (h : Nat) (j : Job) (i : Nat) (c : Instr) (kind : Nat) (unit : Nat) (idx : Nat) (ovr :
      Nat) (lat : Nat), s.Ready ∧ st < 16 ∧ (s.Issues st h j i (if insOp i = 41 then [insB i] else [])) ∧ (c =
      Instr.sbMugo st ∧ insOp i = 24 ∧ kind = 0 ∧ unit = insImm i % 256 ∧ idx = bits (insImm i) 12 8 ∧ ovr = 0 ∧ lat =
      Config.sbStart ∨ c = Instr.sbVugo st ∧ insOp i = 25 ∧ kind = 1 ∧ unit = insImm i % 32 ∧ idx = bits (insImm i) 12
      5 ∧ ovr = 0 ∧ lat = Config.sbStart ∨ c = Instr.sbMgo st ∧ insOp i = 40 ∧ kind = 2 ∧ unit = insImm i % 8 ∧ idx =
      bits (insImm i) 11 3 ∧ ovr = 0 ∧ lat = Config.meStart ∨ c = Instr.sbMgor st ∧ insOp i = 41 ∧ kind = 2 ∧ unit =
      insImm i % 8 ∧ idx = bits (insImm i) 11 3 ∧ ovr = (s.view.sb st).reg (insB i) ∧ lat = Config.meStart) ∧
      (s.view.unitRuns st kind unit = false ∧ s.view.unitOld st kind unit = false ∧ (s.view.sb st).starting kind unit
      = false)) ∧
    (∃ (s : State) (st : Nat) (h : Nat) (j : Job) (i : Nat) (c : Instr) (kind : Nat) (unit : Nat), s.Ready ∧ st < 16 ∧
      s.Issues st h j i [] ∧ ((c = Instr.sbJoin st ∧ insOp i = 26 ∧ kind = b2n (bit (insImm i) 8) ∧ unit = if bit
      (insImm i) 8 = true then insImm i % 32 else insImm i % 256) ∨ c = Instr.sbMjoin st ∧ insOp i = 42 ∧ kind = 2 ∧
      unit = insImm i % 8) ∧ s.view.unitJoined st kind unit = false) ∧
    (∃ (s : State) (st : Nat) (h : Nat) (j : Job) (i : Nat) (c : Instr) (kind : Nat) (unit : Nat) (idx : Nat) (ovr :
      Nat) (lat : Nat), s.Ready ∧ st < 16 ∧ (s.Issues st h j i (if insOp i = 41 then [insB i] else [])) ∧ (c =
      Instr.sbMugo st ∧ insOp i = 24 ∧ kind = 0 ∧ unit = insImm i % 256 ∧ idx = bits (insImm i) 12 8 ∧ ovr = 0 ∧ lat =
      Config.sbStart ∨ c = Instr.sbVugo st ∧ insOp i = 25 ∧ kind = 1 ∧ unit = insImm i % 32 ∧ idx = bits (insImm i) 12
      5 ∧ ovr = 0 ∧ lat = Config.sbStart ∨ c = Instr.sbMgo st ∧ insOp i = 40 ∧ kind = 2 ∧ unit = insImm i % 8 ∧ idx =
      bits (insImm i) 11 3 ∧ ovr = 0 ∧ lat = Config.meStart ∨ c = Instr.sbMgor st ∧ insOp i = 41 ∧ kind = 2 ∧ unit =
      insImm i % 8 ∧ idx = bits (insImm i) 11 3 ∧ ovr = (s.view.sb st).reg (insB i) ∧ lat = Config.meStart) ∧
      (¬(s.view.unitRuns st kind unit = false ∧ s.view.unitOld st kind unit = false ∧ (s.view.sb st).starting kind
      unit = false)) ∧ ffind (s.view.sb st).pend (startKey kind unit) = none) ∧
    (∃ (s : State) (st : Nat) (h : Nat) (j : Job) (kind : Nat) (unit : Nat) (x : UnitMsg), s.Ready ∧ st < 16 ∧
      s.view.liveJob st = some (h, j) ∧ kind < 3 ∧ unit < 256 ∧ (List.find? (fun y => y.kind == kind && y.unit == unit
      && decide (y.due ≤ j.cyc)) (s.view.sb st).dones = some x)) ∧
    (∃ (s : State) (st : Nat) (h : Nat) (j : Job) (i : Nat) (c : Instr) (kind : Nat) (unit : Nat) (idx : Nat) (ovr :
      Nat) (lat : Nat), s.Ready ∧ st < 16 ∧ (s.Issues st h j i (if insOp i = 41 then [insB i] else [])) ∧ (c =
      Instr.sbMugo st ∧ insOp i = 24 ∧ kind = 0 ∧ unit = insImm i % 256 ∧ idx = bits (insImm i) 12 8 ∧ ovr = 0 ∧ lat =
      Config.sbStart ∨ c = Instr.sbVugo st ∧ insOp i = 25 ∧ kind = 1 ∧ unit = insImm i % 32 ∧ idx = bits (insImm i) 12
      5 ∧ ovr = 0 ∧ lat = Config.sbStart ∨ c = Instr.sbMgo st ∧ insOp i = 40 ∧ kind = 2 ∧ unit = insImm i % 8 ∧ idx =
      bits (insImm i) 11 3 ∧ ovr = 0 ∧ lat = Config.meStart ∨ c = Instr.sbMgor st ∧ insOp i = 41 ∧ kind = 2 ∧ unit =
      insImm i % 8 ∧ idx = bits (insImm i) 11 3 ∧ ovr = (s.view.sb st).reg (insB i) ∧ lat = Config.meStart) ∧
      (¬(s.view.unitRuns st kind unit = false ∧ s.view.unitOld st kind unit = false ∧ (s.view.sb st).starting kind
      unit = false)) ∧ ffind (s.view.sb st).pend (startKey kind unit) ≠ none) :=
  ⟨⟨atPc (insW 43 3 0 0 7) (run0), 15, 9, job0, insW 43 3 0 0 7, by decide +kernel⟩,
    ⟨atPc (insW 42 0 0 0 7) (run0), 15, 9, job0, insW 42 0 0 0 7, Instr.sbMjoin 15, 2, 7, by decide +kernel⟩,
    ⟨atPc (insW 40 0 0 0 4095) (run0), 15, 9, job0, insW 40 0 0 0 4095, Instr.sbMgo 15, 2, 7, 511, 0, Config.meStart, by decide +kernel⟩,
    ⟨atPc (insW 42 0 0 0 7) (box (fun b => {b with dones := [{kind := 2, unit := 7}]}) run0), 15, 9, job0,
      insW 42 0 0 0 7, Instr.sbMjoin 15, 2, 7, by decide +kernel⟩,
    ⟨atPc (insW 40 0 0 0 4095) (box (fun b => {b with starts := [{kind := 2, unit := 7}]}) run0), 15, 9, job0,
      insW 40 0 0 0 4095, Instr.sbMgo 15, 2, 7, 511, 0, Config.meStart, by decide +kernel⟩,
    ⟨atPc (insW 0 0 0 0 0) (box (fun b => {b with dones := [{kind := 2, unit := 7, due := 500},{kind := 1, unit := 7, due := 500}]}) run0),
      15, 9, job0, 2, 7, ({kind := 2, unit := 7, due := 500} : UnitMsg), by decide +kernel⟩,
    ⟨atPc (insW 40 0 0 0 4095) (setD (fun d => { d with mu := [(15*256+255, {run := some {}})], vu := [(15*32+31, {run := some {}})], eng := [(15*8+7, {busy := true})] }) (box (fun b => {b with pend := [(startKey 2 7, {})]}) run0)),
      15, 9, job0, insW 40 0 0 0 4095, Instr.sbMgo 15, 2, 7, 511, 0, Config.meStart, by decide +kernel⟩⟩

/-- States and operands that meet the hypotheses of `Obligations.TokenOperations`. -/
theorem witness_TokenOperations :
    (∃ (s : State) (st : Nat) (h : Nat) (j : Job) (i : Nat), s.Ready ∧ st < 16 ∧ insOp i = 34 ∧ s.Issues st h j i [] ∧
      s.view.liveJob st = some (h, j) ∧ (s.view.sb st).running = true ∧ (s.view.sb st).next ≤ j.cyc ∧ s.view.sbInstr
      st (s.view.sb st).pc = i ∧ s.view.senderBlocked st sbBay (sbUnit st) = false) ∧
    (∃ (s : State) (st : Nat) (h : Nat) (j : Job) (i : Nat) (d : TokDecl), s.Ready ∧ st < 16 ∧ s.view.tokDecl j st
      (tokRef (s.view.sb st) i) = some d ∧ insOp i = 32 ∧ (s.Issues st h j i (insA i :: if bit (insImm i) 11 = true
      then [insB i] else []))) ∧
    (∃ (s : State) (st : Nat) (h : Nat) (j : Job) (i : Nat) (d : TokDecl), s.Ready ∧ st < 16 ∧ s.view.tokDecl j st
      (tokRef (s.view.sb st) i) = some d ∧ insOp i = 33 ∧ bits (insImm i) 13 12 < d.cursors ∧ (s.Issues st h j i (insA
      i :: if bit (insImm i) 11 = true then [insB i] else []))) ∧
    (∃ (s : State) (st : Nat) (h : Nat) (j : Job) (i : Nat) (d : TokDecl), s.Ready ∧ st < 16 ∧ s.view.tokDecl j st
      (tokRef (s.view.sb st) i) = some d ∧ insOp i = 35 ∧ (bit (insImm i) 14 = true → bits (insImm i) 13 12 <
      d.cursors) ∧ (s.Issues st h j i (if bit (insImm i) 11 = true then [insB i] else []))) ∧
    (∃ (s : State) (st : Nat) (h : Nat) (j : Job) (i : Nat) (c : Instr), s.Ready ∧ st < 16 ∧ (c = Instr.sbSig st ∧
      insOp i = 32 ∧ s.view.tokDecl j st (tokRef (s.view.sb st) i) = none ∧ s.Issues st h j i (insA i :: if bit
      (insImm i) 11 = true then [insB i] else []) ∨ c = Instr.sbWait st ∧ insOp i = 33 ∧ (∀ (d : TokDecl),
      s.view.tokDecl j st (tokRef (s.view.sb st) i) = some d → d.cursors ≤ bits (insImm i) 13 12) ∧ s.Issues st h j i
      (insA i :: if bit (insImm i) 11 = true then [insB i] else []) ∨ c = Instr.sbTkrd st ∧ insOp i = 35 ∧ (∀ (d :
      TokDecl), s.view.tokDecl j st (tokRef (s.view.sb st) i) = some d → bit (insImm i) 14 = true ∧ d.cursors ≤ bits
      (insImm i) 13 12) ∧ s.Issues st h j i (if bit (insImm i) 11 = true then [insB i] else [])) ∧ j.fault = none) ∧
    (∃ (s : State) (st : Nat) (h : Nat) (j : Job) (i : Nat) (least : Nat) (pieces : List Nat) (remote : Nat), s.Ready
      ∧ st < 16 ∧ insOp i = 34 ∧ s.view.liveJob st = some (h, j) ∧ (s.view.sb st).running = true ∧ (s.view.sb st).next
      ≤ j.cyc ∧ s.view.sbInstr st (s.view.sb st).pc = i ∧ s.view.senderBlocked st sbBay (sbUnit st) = false ∧
      (s.view.sb st).wait = SbWait.fence least pieces remote ∧ ffind s.dev.waits (waitKey (sbUnit st)) = some { cause := 6 }
      ∧ (¬(j.cyc < least ∨ s.view.fenceOpen st pieces remote = true))) ∧
    (∃ (s : State) (st : Nat) (h : Nat) (j : Job) (i : Nat) (least : Nat) (pieces : List Nat) (remote : Nat), s.Ready
      ∧ st < 16 ∧ insOp i = 34 ∧ s.view.liveJob st = some (h, j) ∧ (s.view.sb st).running = true ∧ (s.view.sb st).next
      ≤ j.cyc ∧ s.view.sbInstr st (s.view.sb st).pc = i ∧ s.view.senderBlocked st sbBay (sbUnit st) = false ∧
      (s.view.sb st).wait = SbWait.fence least pieces remote ∧ ffind s.dev.waits (waitKey (sbUnit st)) = some { cause := 6 }
      ∧ (j.cyc < least ∨ s.view.fenceOpen st pieces remote = true)) ∧
    (∃ (s : State) (st : Nat) (k : Nat) (o : TokOp), s.Ready ∧ st < 16 ∧ k < 48 ∧ o.srcSt < 16 ∧ leastBy tokKey
      (List.filter (s.view.tokReached k) (s.view.stn st).tokOps) = some o ∧ s.view.tokHeld st k o.kind = false ∧
      o.kind = 0 ∧ (s.view.jobLive o.job = false ∨ (s.view.token st k).state ≠ TokState.active ∨ (s.view.token st
      k).owner ≠ o.job) ∧ ((s.view.token st k).state ≠ TokState.active ∨ (s.view.token st k).waiters = [])) ∧
    (∃ (s : State) (st : Nat) (k : Nat) (o : TokOp) (j : Job), s.Ready ∧ st < 16 ∧ k < 48 ∧ o.srcSt < 16 ∧ leastBy
      tokKey (List.filter (s.view.tokReached k) (s.view.stn st).tokOps) = some o ∧ s.view.tokHeld st k o.kind = false
      ∧ o.kind = 2 ∧ s.view.jobLive o.job = true ∧ s.view.job o.job = some j ∧ (s.view.stn o.srcSt).job = some o.job) ∧
    (∃ (s : State) (st : Nat) (k : Nat) (o : TokOp), s.Ready ∧ st < 16 ∧ k < 48 ∧ o.srcSt < 16 ∧ leastBy tokKey
      (List.filter (s.view.tokReached k) (s.view.stn st).tokOps) = some o ∧ s.view.tokHeld st k o.kind = false ∧
      o.kind = 0 ∧ s.view.jobLive o.job = true ∧ (s.view.token st k).state = TokState.active ∧ (s.view.token st
      k).owner = o.job) ∧
    (∃ (s : State) (st : Nat) (h : Nat) (j : Job) (r : Reply), s.Ready ∧ st < 16 ∧ s.view.liveJob st = some (h, j) ∧
      (leastBy Reply.due (List.filter (fun r => !r.ticket && decide (r.due ≤ j.cyc)) (s.view.sb st).replies) = some r)
      ∧ r.poisoned = none ∧ r.write = false ∧ r.wakes = true) ∧
    (∃ (s : State) (st : Nat) (h : Nat) (j : Job) (r : Reply), s.Ready ∧ st < 16 ∧ s.view.liveJob st = some (h, j) ∧
      (leastBy Reply.due (List.filter (fun r => !r.ticket && decide (r.due ≤ j.cyc)) (s.view.sb st).replies) = some r)
      ∧ r.poisoned = none ∧ r.write = true ∧ r.wakes = false) ∧
    (∃ (s : State) (st : Nat) (h : Nat) (j : Job) (r : Reply) (slot : Nat) (at_ : Nat) (owner : Nat), s.Ready ∧ st <
      16 ∧ s.view.liveJob st = some (h, j) ∧ (leastBy Reply.due (List.filter (fun r => !r.ticket && decide (r.due ≤
      j.cyc)) (s.view.sb st).replies) = some r) ∧ r.poisoned = some (slot, at_, owner) ∧ j.fault = none) :=
  ⟨⟨atPc (insW 34 0 0 0 0) (runT), 15, 9, job0, insW 34 0 0 0 0, by decide +kernel⟩,
    ⟨atPc (insW 32 0 2 0 1221) (runT), 15, 9, job0, insW 32 0 2 0 1221, tok0, by decide +kernel⟩,
    ⟨atPc (insW 33 0 1 0 21701) (runT), 15, 9, job0, insW 33 0 1 0 21701, tok0, by decide +kernel⟩,
    ⟨atPc (insW 35 0 0 0 13509) (runT), 15, 9, job0, insW 35 0 0 0 13509, tok0, by decide +kernel⟩,
    ⟨atPc (insW 32 0 2 0 1222) (runT), 15, 9, job0, insW 32 0 2 0 1222, Instr.sbSig 15, by decide +kernel⟩,
    ⟨atPc (insW 34 0 0 0 0) (setD (fun d => { d with waits := [(waitKey (sbUnit 15), {cause := 6})] }) (box (fun b => {b with wait := .fence 500 [] 0}) runT)),
      15, 9, job0, insW 34 0 0 0 0, 500, ([] : List Nat), 0, by decide +kernel⟩,
    ⟨atPc (insW 34 0 0 0 0) (setD (fun d => { d with waits := [(waitKey (sbUnit 15), {cause := 6})] }) (setD (fun d => {d with rem := [(15*65536+3, {op := 1, order := 4, job := 9})]}) (box (fun b => {b with wait := .fence 500 [] 5}) runT))),
      15, 9, job0, insW 34 0 0 0 0, 500, ([] : List Nat), 5, by decide +kernel⟩,
    ⟨setD (fun d => { d with tokens := [(3*48+47, { state := .idle, owner := 9})] }) (stn 3 { tokOps := [{ slot := 47, kind := 0, srcSt := 15, val := 4294967295, cursor := 0, flag := false, rd := 31, due := 500, job := 9 }] } runT),
      3, 47,
      ({ slot := 47, kind := 0, srcSt := 15, val := 4294967295, cursor := 0, flag := false, rd := 31, due := 500, job := 9 } : TokOp), by decide +kernel⟩,
    ⟨setD (fun d => { d with tokens := [(3*48+47, { state := .active, owner := 9, prod := 0x5, cons := [7, 0x9, 0, 0] })] }) (stn 3 { tokOps := [{ slot := 47, kind := 2, srcSt := 15, val := 0, cursor := 1, flag := true, rd := 31, due := 500, job := 9 }] } runT),
      3, 47,
      ({ slot := 47, kind := 2, srcSt := 15, val := 0, cursor := 1, flag := true, rd := 31, due := 500, job := 9 } : TokOp),
      job0, by decide +kernel⟩,
    ⟨setD (fun d => { d with tokens := [(3*48+47, { state := .active, owner := 9, prod := 0x5, cons := [7, 0x0, 0, 0] })] }) (stn 3 { tokOps := [{ slot := 47, kind := 0, srcSt := 15, val := 4294967295, cursor := 0, flag := false, rd := 31, due := 500, job := 9 }] } runT),
      3, 47,
      ({ slot := 47, kind := 0, srcSt := 15, val := 4294967295, cursor := 0, flag := false, rd := 31, due := 500, job := 9 } : TokOp), by decide +kernel⟩,
    ⟨atPc (insW 0 0 0 0 0) (setD (fun d => { d with waits := [(waitKey (sbUnit 15), {cause := 6})] }) (box (fun b => {b with replies := [{ rd := 31, val := BitVec.ofNat 64 0xFFFF, due := 500, write := false, wakes := true, ticket := false }], wait := .reply}) runT)),
      15, 9, job0,
      ({ rd := 31, val := BitVec.ofNat 64 0xFFFF, due := 500, write := false, wakes := true, ticket := false } : Reply), by decide +kernel⟩,
    ⟨atPc (insW 0 0 0 0 0) (setD (fun d => { d with waits := [(waitKey (sbUnit 15), {cause := 6})] }) (box (fun b => {b with replies := [{ rd := 31, val := BitVec.ofNat 64 0xFFFF, due := 500, write := true, wakes := false, ticket := false }], wait := .reply}) runT)),
      15, 9, job0,
      ({ rd := 31, val := BitVec.ofNat 64 0xFFFF, due := 500, write := true, wakes := false, ticket := false } : Reply), by decide +kernel⟩,
    ⟨atPc (insW 0 0 0 0 0) (setD (fun d => { d with waits := [(waitKey (sbUnit 15), {cause := 6})] }) (box (fun b => {b with replies := [{ rd := 31, val := 0, due := 500, write := false, wakes := true, ticket := false, poisoned := some (47, 3, 12) }], wait := .reply}) runT)),
      15, 9, job0,
      ({ rd := 31, val := 0, due := 500, write := false, wakes := true, ticket := false, poisoned := some (47, 3, 12) } : Reply),
      47, 3, 12, by decide +kernel⟩⟩

/-- States and operands that meet the hypotheses of `Obligations.TokenWaits`. -/
theorem witness_TokenWaits :
    (∃ (s : State) (st : Nat) (k : Nat) (o : TokOp) (j : Job), s.Ready ∧ st < 16 ∧ k < 48 ∧ o.srcSt < 16 ∧ leastBy
      tokKey (List.filter (s.view.tokReached k) (s.view.stn st).tokOps) = some o ∧ s.view.tokHeld st k 1 = false ∧
      o.kind = 1 ∧ s.view.jobLive o.job = true ∧ s.view.job o.job = some j ∧ (s.view.stn o.srcSt).job = some o.job ∧
      (s.view.token st k).state = TokState.active ∧ (s.view.token st k).owner = o.job ∧ (s.view.token st k).waiters =
      [] ∧ (s.view.token st k).prod < 2 ^ 32 ∧ nth 0 (s.view.token st k).cons o.cursor < 2 ^ 32 ∧ o.val < 2 ^ 32 ∧ ((∀
      (y : TokOp), y ∈ removeFirst (fun x => x == o) (s.view.stn st).tokOps → 1 < y.kind ∨ s.view.tokReached k y =
      false ∨ s.view.jobLive y.job = false) ∧ s.view.remoteAt st k opWait s.dev.pktNext = false) ∧ ((↑(s.view.token st
      k).prod : Int) - ↑(nth 0 (s.view.token st k).cons o.cursor) - ↑o.val) % 2 ^ 32 < 2 ^ 31) ∧
    (∃ (s : State) (st : Nat) (k : Nat) (o : TokOp) (j : Job), s.Ready ∧ st < 16 ∧ k < 48 ∧ o.srcSt < 16 ∧ leastBy
      tokKey (List.filter (s.view.tokReached k) (s.view.stn st).tokOps) = some o ∧ s.view.tokHeld st k 1 = false ∧
      o.kind = 1 ∧ s.view.jobLive o.job = true ∧ s.view.job o.job = some j ∧ (s.view.stn o.srcSt).job = some o.job ∧
      (s.view.token st k).state = TokState.active ∧ (s.view.token st k).owner = o.job ∧ (s.view.token st k).waiters =
      [] ∧ (s.view.token st k).prod < 2 ^ 32 ∧ nth 0 (s.view.token st k).cons o.cursor < 2 ^ 32 ∧ o.val < 2 ^ 32 ∧ (2
      ^ 31 ≤ ((↑(s.view.token st k).prod : Int) - ↑(nth 0 (s.view.token st k).cons o.cursor) - ↑o.val) % 2 ^ 32 ∨ ¬((∀
      (y : TokOp), y ∈ removeFirst (fun x => x == o) (s.view.stn st).tokOps → 1 < y.kind ∨ s.view.tokReached k y =
      false ∨ s.view.jobLive y.job = false) ∧ s.view.remoteAt st k opWait s.dev.pktNext = false))) :=
  ⟨⟨setD (fun d => { d with tokens := [(3*48+47, { state := .active, owner := 9, prod := 0x5, cons := [7, 0xFFFFFFFE, 0, 0] })] }) (stn 3 { tokOps := [{ slot := 47, kind := 1, srcSt := 15, val := 4, cursor := 1, flag := true, rd := 31, due := 500, job := 9 }] } runT),
      3, 47,
      ({ slot := 47, kind := 1, srcSt := 15, val := 4, cursor := 1, flag := true, rd := 31, due := 500, job := 9 } : TokOp),
      job0, by decide +kernel⟩,
    ⟨setD (fun d => { d with tokens := [(3*48+47, { state := .active, owner := 9, prod := 0x5, cons := [7, 0xFFFFFFFE, 0, 0] })] }) (stn 3 { tokOps := [{ slot := 47, kind := 1, srcSt := 15, val := 8, cursor := 1, flag := true, rd := 31, due := 500, job := 9 }] } runT),
      3, 47,
      ({ slot := 47, kind := 1, srcSt := 15, val := 8, cursor := 1, flag := true, rd := 31, due := 500, job := 9 } : TokOp),
      job0, by
        refine ⟨?_, ?_, ?_, ?_, ?_, ?_, ?_, ?_, ?_, ?_, ?_, ?_, ?_, ?_, ?_, ?_, ?_⟩ <;>
        first | decide +kernel | rfl⟩⟩

/-- States and operands that meet the hypotheses of `Obligations.TicketOffice`. -/
theorem witness_TicketOffice :
    (∃ (s : State) (st : Nat) (h : Nat) (j : Job) (i : Nat) (k : Nat), s.Ready ∧ st < 16 ∧ s.view.counterOf j (insImm
      i % 64) = some k ∧ insOp i = 38 ∧ s.Issues st h j i [insA i]) ∧
    (∃ (s : State) (st : Nat) (h : Nat) (j : Job) (i : Nat) (k : Nat), s.Ready ∧ st < 16 ∧ s.view.counterOf j (insImm
      i % 64) = some k ∧ insOp i = 36 ∧ s.Issues st h j i [insA i]) ∧
    (∃ (s : State) (st : Nat) (h : Nat) (j : Job) (i : Nat) (k : Nat), s.Ready ∧ st < 16 ∧ s.view.counterOf j (insImm
      i % 64) = some k ∧ insOp i = 37 ∧ s.Issues st h j i []) ∧
    (∃ (s : State) (k : Nat) (o : TkoOp) (j : Job), s.Ready ∧ k < 64 ∧ o.st < 16 ∧ (leastBy (fun o => o.due * 16 +
      o.st) (s.view.ticketsAt k) = some o) ∧ s.view.jobLive o.job = true ∧ s.view.job o.job = some j ∧ (s.view.stn
      o.st).job = some o.job ∧ o.kind = 0) ∧
    (∃ (s : State) (k : Nat) (o : TkoOp) (j : Job), s.Ready ∧ k < 64 ∧ o.st < 16 ∧ (leastBy (fun o => o.due * 16 +
      o.st) (s.view.ticketsAt k) = some o) ∧ s.view.jobLive o.job = true ∧ s.view.job o.job = some j ∧ (s.view.stn
      o.st).job = some o.job ∧ o.kind = 1) ∧
    (∃ (s : State) (k : Nat) (o : TkoOp) (j : Job), s.Ready ∧ k < 64 ∧ o.st < 16 ∧ (leastBy (fun o => o.due * 16 +
      o.st) (s.view.ticketsAt k) = some o) ∧ s.view.jobLive o.job = true ∧ s.view.job o.job = some j ∧ (s.view.stn
      o.st).job = some o.job ∧ o.kind = 2) ∧
    (∃ (s : State) (st : Nat) (h : Nat) (j : Job) (r : Reply), s.Ready ∧ st < 16 ∧ s.view.liveJob st = some (h, j) ∧
      (leastBy Reply.due (List.filter (fun r => r.ticket && decide (r.due ≤ j.cyc)) (s.view.sb st).replies) = some r)) :=
  ⟨⟨atPc (insW 38 0 1 0 63) (runT), 15, 9, job0, insW 38 0 1 0 63, 62, by decide +kernel⟩,
    ⟨atPc (insW 36 31 1 0 63) (runT), 15, 9, job0, insW 36 31 1 0 63, 62, by decide +kernel⟩,
    ⟨atPc (insW 37 31 0 0 63) (runT), 15, 9, job0, insW 37 31 0 0 63, 62, by decide +kernel⟩,
    ⟨setR (Reg.tkoOwner 62) 0 (setR (Reg.tkoValue 62) 7 (stn 15 { job := some 9, tkoOps := [{ k := 62, kind := 0, st := 15, val := BitVec.ofNat 64 0xFFFFFFFFFFFFFFFF, rd := 31, due := 500, job := 9 }], sb := { wait := .reply } } runT)),
      62,
      ({ k := 62, kind := 0, st := 15, val := BitVec.ofNat 64 0xFFFFFFFFFFFFFFFF, rd := 31, due := 500, job := 9 } : TkoOp),
      job0, by
        refine ⟨?_, ?_, ?_, ?_, ?_, ?_, ?_, ?_⟩ <;>
        first | decide +kernel | rfl⟩,
    ⟨setR (Reg.tkoOwner 62) 0 (setR (Reg.tkoValue 62) 7 (stn 15 { job := some 9, tkoOps := [{ k := 62, kind := 1, st := 15, val := BitVec.ofNat 64 0xFFFFFFFFFFFFFFFF, rd := 31, due := 500, job := 9 }], sb := { wait := .reply } } runT)),
      62,
      ({ k := 62, kind := 1, st := 15, val := BitVec.ofNat 64 0xFFFFFFFFFFFFFFFF, rd := 31, due := 500, job := 9 } : TkoOp),
      job0, by
        refine ⟨?_, ?_, ?_, ?_, ?_, ?_, ?_, ?_⟩ <;>
        first | decide +kernel | rfl⟩,
    ⟨setR (Reg.tkoOwner 62) 0 (setR (Reg.tkoValue 62) 7 (stn 15 { job := some 9, tkoOps := [{ k := 62, kind := 2, st := 15, val := BitVec.ofNat 64 0xFFFFFFFFFFFFFFFF, rd := 31, due := 500, job := 9 }], sb := { wait := .reply } } runT)),
      62,
      ({ k := 62, kind := 2, st := 15, val := BitVec.ofNat 64 0xFFFFFFFFFFFFFFFF, rd := 31, due := 500, job := 9 } : TkoOp),
      job0, by
        refine ⟨?_, ?_, ?_, ?_, ?_, ?_, ?_, ?_⟩ <;>
        first | decide +kernel | rfl⟩,
    ⟨atPc (insW 0 0 0 0 0) (setD (fun d => { d with waits := [(waitKey (sbUnit 15), {cause := 6})] }) (box (fun b => {b with replies := [{ rd := 31, val := BitVec.ofNat 64 0xFFFF, due := 500, write := true, wakes := true, ticket := true }], wait := .reply}) runT)),
      15, 9, job0,
      ({ rd := 31, val := BitVec.ofNat 64 0xFFFF, due := 500, write := true, wakes := true, ticket := true } : Reply), by decide +kernel⟩⟩

/-- States and operands that meet the hypotheses of `Obligations.StopsAndMileposts`. -/
theorem witness_StopsAndMileposts :
    (∃ (s : State) (st : Nat) (h : Nat) (j : Job) (i : Nat), s.Ready ∧ st < 16 ∧ insOp i = 56 ∧ s.Issues st h j i [] ∧
      (insImm i % 4096 = 0 ∨ (s.view.consistOf j).stops.length < insImm i % 4096)) ∧
    (∃ (s : State) (st : Nat) (h : Nat) (j : Job) (i : Nat), s.Ready ∧ st < 16 ∧ insOp i = 56 ∧ s.Issues st h j i [] ∧
      0 < insImm i % 4096 ∧ insImm i % 4096 ≤ (s.view.consistOf j).stops.length ∧ j.request ≠ some (insImm i % 4096) ∧
      fget 0 j.passing (insImm i % 4096) ||| 2 ^ st ≠ (s.view.consistOf j).stations) ∧
    (∃ (s : State) (st : Nat) (h : Nat) (j : Job) (i : Nat), s.Ready ∧ st < 16 ∧ insOp i = 57 ∧ s.Issues st h j i [] ∧
      (∀ (d : MileDecl), d ∈ (s.view.consistOf j).miles → d.mp ≠ insImm i % 4096)) ∧
    (∃ (s : State) (st : Nat) (h : Nat) (j : Job) (i : Nat) (d : MileDecl), s.Ready ∧ st < 16 ∧ insOp i = 57 ∧
      s.Issues st h j i [] ∧ (List.find? (fun d => d.mp == insImm i % 4096) (s.view.consistOf j).miles = some d) ∧ (∀
      (u : Tap), u ∈ (s.view.stn st).taps → u.job = h → List.find? (fun t => u.queue == t.queue) (List.filter (fun t
      => t.st == st) d.taps) = none) ∧ (List.filter (fun t => t.st == st) d.taps ≠ []) ∧ (∀ (a : Arming), a ∈ j.arms →
      a.n ≠ (s.view.stn st).milesRun) ∧ ffind s.dev.waits (waitKey (sbUnit st)) = none) ∧
    (∃ (s : State) (st : Nat) (h : Nat) (j : Job) (i : Nat), s.Ready ∧ st < 16 ∧ insOp i = 56 ∧ s.Issues st h j i [] ∧
      0 < insImm i % 4096 ∧ insImm i % 4096 ≤ (s.view.consistOf j).stops.length ∧ j.request = some (insImm i % 4096) ∧
      (∃ n, n ∈ s.view.jobStations j ∧ n ≠ st ∧ (s.view.sb n).wait ≠ SbWait.stop (insImm i % 4096))) ∧
    (∃ (s : State) (st : Nat) (h : Nat) (j : Job) (i : Nat), s.Ready ∧ st < 16 ∧ insOp i = 56 ∧ s.Issues st h j i [] ∧
      0 < insImm i % 4096 ∧ insImm i % 4096 ≤ (s.view.consistOf j).stops.length ∧ j.request ≠ some (insImm i % 4096) ∧
      fget 0 j.passing (insImm i % 4096) ||| 2 ^ st = (s.view.consistOf j).stations ∧ s.view.leaveLimit j.consist =
      none) :=
  ⟨⟨atPc (insW 56 0 0 0 3) (runS), 15, 9, job0, insW 56 0 0 0 3, by decide +kernel⟩,
    ⟨atPc (insW 56 0 0 0 2) (runS), 15, 9, job0, insW 56 0 0 0 2, by decide +kernel⟩,
    ⟨atPc (insW 57 0 0 0 4094) (runS), 15, 9, job0, insW 57 0 0 0 4094, by decide +kernel⟩,
    ⟨atPc (insW 57 0 0 0 4095) (runS), 15, 9, job0, insW 57 0 0 0 4095,
      (((atPc (insW 57 0 0 0 4095) (runS)).view.consistOf job0).miles[0]?).getD {}, by decide +kernel⟩,
    ⟨atPc (insW 56 0 0 0 2) (job {job0 with request := some 2} 9 runS), 15, 9, {job0 with request := some 2},
      insW 56 0 0 0 2, by decide +kernel⟩,
    ⟨atPc (insW 56 0 0 0 2) (job {job0 with passing := [(2, 1)]} 9 runS), 15, 9, {job0 with passing := [(2, 1)]},
      insW 56 0 0 0 2, by decide +kernel⟩⟩

/-- States and operands that meet the hypotheses of `Obligations.MatrixUnitRuns`. -/
theorem witness_MatrixUnitRuns :
    (∃ (s : State) (st : Nat) (b : Nat) (h : Nat) (j : Job) (r : MuRun) (w : WBlock) (rec : Bytes) (valid : Bool),
      s.Ready ∧ st < 16 ∧ b < 256 ∧ s.BayIsPresent st b ∧ s.view.liveJob st = some (h, j) ∧ (s.view.muOf st b).faulted
      = false ∧ (s.view.muOf st b).run = some r ∧ (s.view.muOf st b).active = some w ∧ (s.view.muOf st b).ended =
      false ∧ (s.view.muOf st b).initWait = false ∧ r.next ≤ j.cyc ∧ (∀ (l : WLoad), (s.view.muOf st b).load = some l
      → List.length l.bytes ≠ l.need ∨ j.cyc < l.ready ∨ (s.view.muOf st b).shadow ≠ none) ∧ s.view.muRecord st b
      (s.view.passDesc st b r.desc) r = some (rec, valid) ∧ r.ldDone = false ∧ (s.view.muOf st b).load = none ∧
      (s.view.muOf st b).shadow = none ∧ (s.view.passDesc st b r.ldDesc).wQueue = none) ∧
    (∃ (s : State) (st : Nat) (b : Nat) (h : Nat) (j : Job) (x : UnitMsg), s.Ready ∧ st < 16 ∧ b < 256 ∧
      s.BayIsPresent st b ∧ s.view.liveJob st = some (h, j) ∧ (s.view.muOf st b).faulted = false ∧ (s.view.muOf st
      b).run = none ∧ (List.find? (fun x => x.kind == 0 && x.unit == b && decide (x.due ≤ j.cyc)) (s.view.sb
      st).starts = some x)) ∧
    (∃ (s : State) (st : Nat) (b : Nat) (h : Nat) (j : Job) (r : MuRun) (w : WBlock) (l : WLoad), s.Ready ∧ st < 16 ∧
      b < 256 ∧ s.BayIsPresent st b ∧ s.view.liveJob st = some (h, j) ∧ (s.view.muOf st b).faulted = false ∧
      (s.view.muOf st b).run = some r ∧ (s.view.muOf st b).active = some w ∧ (s.view.muOf st b).load = some l ∧
      (s.view.muOf st b).shadow = none ∧ List.length l.bytes = l.need ∧ l.ready ≤ j.cyc) ∧
    (∃ (s : State) (st : Nat) (b : Nat) (h : Nat) (j : Job) (r : MuRun) (q : Nat) (bs : Bytes) (v : Bool) (m : Mach),
      s.Ready ∧ st < 16 ∧ b < 256 ∧ s.BayIsPresent st b ∧ s.view.liveJob st = some (h, j) ∧ (s.view.muOf st b).faulted
      = false ∧ (s.view.muOf st b).run = some r ∧ r.ldDone = false ∧ (s.view.muOf st b).load = none ∧ (s.view.muOf st
      b).shadow = none ∧ (s.view.passDesc st b r.ldDesc).wQueue = some q ∧ s.view.take st q = (some (bs, v), m)) :=
  ⟨⟨rowS 3 0 1, 15, 255, 9, job0, r0, wb,
      (((rowS 3 0 1).view.muRecord 15 255 ((rowS 3 0 1).view.passDesc 15 255 (r0).desc) (r0)).getD ([], true)).1,
      (((rowS 3 0 1).view.muRecord 15 255 ((rowS 3 0 1).view.passDesc 15 255 (r0).desc) (r0)).getD ([], true)).2, by decide +kernel⟩,
    ⟨pdW 31 0 (3 + 5 * 64) (box (fun b => {b with starts := [m5]}) run0), 15, 255, 9, job0, m5, by decide +kernel⟩,
    ⟨pdW 2 0 (3 + 2^13) (muS { run := some r0, active := some wb, load := some l0 } run0), 15, 255, 9, job0, r0, wb,
      l0, by decide +kernel⟩,
    ⟨wst 1024, 15, 255, 9, job0, r0, 77, ((((wst 1024).view.take 15 77).1).getD ([], true)).1,
      ((((wst 1024).view.take 15 77).1).getD ([], true)).2, ((wst 1024).view.take 15 77).2, by refine ⟨?_, ?_, ?_, ?_, ?_, ?_, ?_, ?_, ?_, ?_, ?_, takeOf (by decide +kernel)⟩ <;> decide +kernel⟩⟩

/-- States and operands that meet the hypotheses of `Obligations.AccumulatorAndDrain`. -/
theorem witness_AccumulatorAndDrain :
    (∃ (s : State) (st : Nat) (b : Nat) (h : Nat) (j : Job) (d : MuDrain) (rest : List MuDrain), s.Ready ∧ st < 16 ∧ b
      < 256 ∧ s.BayIsPresent st b ∧ s.view.liveJob st = some (h, j) ∧ (s.view.muOf st b).drains = d :: rest ∧ d.row <
      16 ∧ d.next ≤ j.cyc ∧ d.mode = 1 ∧ (¬((fget [] (s.view.vuOf st (vuOfBay b)).comps (b % 8)).length ≥ 32 ∨
      s.view.bayPlane st b ≠ s.view.vuPlane st (vuOfBay b))) ∧ (∀ (c : Nat), c < 64 → ffind (s.view.muOf st b).accErr
      (accKey d.slot d.row c) = none)) ∧
    (∃ (s : State) (st : Nat) (b : Nat) (h : Nat) (j : Job) (d : MuDrain) (rest : List MuDrain), s.Ready ∧ st < 16 ∧ b
      < 256 ∧ s.BayIsPresent st b ∧ s.view.liveJob st = some (h, j) ∧ (s.view.muOf st b).drains = d :: rest ∧ d.row =
      16 ∧ d.next ≤ j.cyc) ∧
    (∃ (s : State) (st : Nat) (b : Nat) (h : Nat) (j : Job) (row : MuRow) (rest : List MuRow), s.Ready ∧ st < 16 ∧ b <
      256 ∧ s.BayIsPresent st b ∧ s.view.liveJob st = some (h, j) ∧ (s.view.muOf st b).pipe = row :: rest ∧ row.due ≤
      j.cyc ∧ (∀ (d : MuDrain) (ds : List MuDrain), (s.view.muOf st b).drains = d :: ds → d.row ≠ 16 ∨ j.cyc < d.next)
      ∧ row.first = true ∧ row.isInit = true ∧ ((s.view.muOf st b).slotAt j.cyc row.slot).state = SlotState.free ∧
      row.rowInTile < 16 ∧ row.colBase + (row.groups.head?.getD []).length ≤ 64) ∧
    (∃ (s : State) (st : Nat) (b : Nat) (h : Nat) (j : Job) (row : MuRow) (rest : List MuRow), s.Ready ∧ st < 16 ∧ b <
      256 ∧ s.BayIsPresent st b ∧ s.view.liveJob st = some (h, j) ∧ (s.view.muOf st b).pipe = row :: rest ∧ row.due ≤
      j.cyc ∧ (∀ (d : MuDrain) (ds : List MuDrain), (s.view.muOf st b).drains = d :: ds → d.row ≠ 16 ∨ j.cyc < d.next)
      ∧ (row.first = false ∨ row.isInit = false ∧ ((s.view.muOf st b).slotAt j.cyc row.slot).state = SlotState.live ∧
      ((s.view.muOf st b).slotAt j.cyc row.slot).tag = row.tag ∧ ((s.view.muOf st b).slotAt j.cyc row.slot).int =
      row.int) ∧ row.rowInTile < 16 ∧ row.colBase + (row.groups.head?.getD []).length ≤ 64 ∧ (∀ (c : Nat), c <
      (row.groups.head?.getD []).length → ffind (s.view.muOf st b).accErr ((fun c => accKey row.slot row.rowInTile
      (row.colBase + c)) c) = none ∨ ffind (s.view.muOf st b).accErr ((fun c => accKey row.slot row.rowInTile
      (row.colBase + c)) c) = some 1)) ∧
    (∃ (s : State) (st : Nat) (b : Nat) (h : Nat) (j : Job) (row : MuRow) (rest : List MuRow) (cause : Nat), s.Ready ∧
      st < 16 ∧ b < 256 ∧ s.BayIsPresent st b ∧ s.view.liveJob st = some (h, j) ∧ (s.view.muOf st b).pipe = row ::
      rest ∧ row.due ≤ j.cyc ∧ (∀ (d : MuDrain) (ds : List MuDrain), (s.view.muOf st b).drains = d :: ds → d.row ≠ 16
      ∨ j.cyc < d.next) ∧ h < 4096 ∧ row.first = true ∧ (row.isInit = false ∧ ((s.view.muOf st b).slotAt j.cyc
      row.slot).state = SlotState.free ∧ cause = 1 ∨ row.isInit = false ∧ ((s.view.muOf st b).slotAt j.cyc
      row.slot).state = SlotState.live ∧ ((s.view.muOf st b).slotAt j.cyc row.slot).tag ≠ row.tag ∧ cause = 0 ∨
      row.isInit = false ∧ ((s.view.muOf st b).slotAt j.cyc row.slot).state = SlotState.live ∧ ((s.view.muOf st
      b).slotAt j.cyc row.slot).tag = row.tag ∧ ((s.view.muOf st b).slotAt j.cyc row.slot).int ≠ row.int ∧ cause = 3 ∨
      row.isInit = false ∧ ((s.view.muOf st b).slotAt j.cyc row.slot).state = SlotState.draining ∧ cause = 4 ∨
      row.isInit = true ∧ ((s.view.muOf st b).slotAt j.cyc row.slot).state = SlotState.live ∧ ((s.view.muOf st
      b).slotAt j.cyc row.slot).tag = row.tag ∧ cause = 2 ∨ row.isInit = true ∧ ((s.view.muOf st b).slotAt j.cyc
      row.slot).state = SlotState.live ∧ ((s.view.muOf st b).slotAt j.cyc row.slot).tag ≠ row.tag ∧ cause = 0)) ∧
    (∃ (s : State) (st : Nat) (b : Nat) (h : Nat) (j : Job) (row : MuRow) (rest : List MuRow), s.Ready ∧ st < 16 ∧ b <
      256 ∧ s.BayIsPresent st b ∧ s.view.liveJob st = some (h, j) ∧ (s.view.muOf st b).pipe = row :: rest ∧ row.due ≤
      j.cyc ∧ (∀ (d : MuDrain) (ds : List MuDrain), (s.view.muOf st b).drains = d :: ds → d.row ≠ 16 ∨ j.cyc < d.next)
      ∧ row.first = true ∧ row.isInit = true ∧ ((s.view.muOf st b).slotAt j.cyc row.slot).state = SlotState.draining) ∧
    (∃ (s : State) (st : Nat) (b : Nat) (h : Nat) (j : Job) (d : MuDrain) (rest : List MuDrain), s.Ready ∧ st < 16 ∧ b
      < 256 ∧ s.BayIsPresent st b ∧ s.view.liveJob st = some (h, j) ∧ (s.view.muOf st b).drains = d :: rest ∧ d.row <
      16 ∧ d.next ≤ j.cyc ∧ d.mode = 1 ∧ ((fget [] (s.view.vuOf st (vuOfBay b)).comps (b % 8)).length ≥ 32 ∨
      s.view.bayPlane st b ≠ s.view.vuPlane st (vuOfBay b))) ∧
    (∃ (s : State) (st : Nat) (b : Nat) (h : Nat) (j : Job) (d : MuDrain) (rest : List MuDrain) (r : Nat), s.Ready ∧
      st < 16 ∧ b < 256 ∧ s.BayIsPresent st b ∧ s.view.liveJob st = some (h, j) ∧ (s.view.muOf st b).drains = d ::
      rest ∧ d.row < 16 ∧ d.next ≤ j.cyc ∧ d.mode ≠ 1 ∧ s.view.senderBlocked st b (muUnit st b) = false ∧ (∀ (c :
      Nat), c < 64 → ffind (s.view.muOf st b).accErr (accKey d.slot d.row c) = none) ∧ s.view.routeOf st b d.queue =
      some r) ∧
    (∃ (s : State) (st : Nat) (b : Nat) (h : Nat) (j : Job) (row : MuRow) (rest : List MuRow), s.Ready ∧ st < 16 ∧ b <
      256 ∧ s.BayIsPresent st b ∧ s.view.liveJob st = some (h, j) ∧ (s.view.muOf st b).pipe = row :: rest ∧ row.due ≤
      j.cyc ∧ (∀ (d : MuDrain) (ds : List MuDrain), (s.view.muOf st b).drains = d :: ds → d.row ≠ 16 ∨ j.cyc < d.next)
      ∧ row.first = false ∧ (∃ c, c < (row.groups.head?.getD []).length ∧ ffind (s.view.muOf st b).accErr ((fun c =>
      accKey row.slot row.rowInTile (row.colBase + c)) c) = some 2)) :=
  ⟨⟨drS 15 [dr 0], 15, 255, 9, job0, dr 15, [dr 0], by decide +kernel⟩,
    ⟨drS 16 [], 15, 255, 9, job0, dr 16, ([] : List MuDrain), by decide +kernel⟩,
    ⟨accS row0 [], 15, 255, 9, job0, row0, [{row0 with due := 496}], by refine ⟨?_, ?_, ?_, ?_, ?_, ?_, ?_, allHead (by decide +kernel), ?_, ?_, ?_, ?_, ?_⟩ <;> decide +kernel⟩,
    ⟨accS fl [(15, {state := .live, tag := 77, int := false})], 15, 255, 9, job0, fl, [{fl with due := 496}], by refine ⟨?_, ?_, ?_, ?_, ?_, ?_, ?_, allHead (by decide +kernel), ?_, ?_, ?_, ?_⟩ <;> decide +kernel⟩,
    ⟨accS row0 [(15, {state := .live, tag := 77, int := false})], 15, 255, 9, job0, row0, [{row0 with due := 496}],
      2, by refine ⟨?_, ?_, ?_, ?_, ?_, ?_, ?_, allHead (by decide +kernel), ?_, ?_, ?_⟩ <;> decide +kernel⟩,
    ⟨accS row0 [(15, {state := .draining, tag := 78, int := false})], 15, 255, 9, job0, row0,
      [{row0 with due := 496}], by refine ⟨?_, ?_, ?_, ?_, ?_, ?_, ?_, allHead (by decide +kernel), ?_, ?_, ?_⟩ <;> decide +kernel⟩,
    ⟨setD (fun d => {d with vu := [(15 * 32 + 31, { comps := [(7, List.replicate 32 {})] })] }) (drS 0 []), 15, 255,
      9, job0, dr 0, ([] : List MuDrain), by decide +kernel⟩,
    ⟨rtW 255 63 (4095 + 3*2^12 + 1*2^16+2^18) (muS { drains := [dr2 15, dr2 0], slots := [(15, {state := .draining, tag := 5, int := true})], acc := [(15*1024 + 15 * 64 + 3, 9), (14*1024 + 15 * 64 + 3, 8)] } run0),
      15, 255, 9, job0, dr2 15, [dr2 0], 63, by decide +kernel⟩,
    ⟨(fun s => setD (fun d => { d with mu := d.mu.map fun x => (x.1, { x.2 with accErr := [(15*1024 + 15 * 64 + 3, 2)] }) }) s) (accS {row0 with first := false} []),
      15, 255, 9, job0, {row0 with first := false}, [{row0 with first := false, due := 496}], by refine ⟨?_, ?_, ?_, ?_, ?_, ?_, ?_, allHead (by decide +kernel), ?_, exBelow (by decide +kernel)⟩ <;> decide +kernel⟩⟩

/-- States and operands that meet the hypotheses of `Obligations.VectorElements`. -/
theorem witness_VectorElements :
    (∃ (c : Instr) (st : Nat) (v : Nat) (op : Nat) (h : Nat) (j : Job) (s : State) (r : VuRun) (m : Mach) (e : Nat),
      vuIssueOf c = some (st, v, op) ∧ s.Ready ∧ st < 16 ∧ v < 32 ∧ 1 ≤ op ∧ op ≤ 22 ∧ s.VuIssues st v h j r m ∧
      (s.view.vuPlan st v r.inst).inst.op = op ∧ r.elem < (s.view.vuPlan st v r.inst).upTo (r.tick + 1) ∧ op = 8 ∧
      (s.view.vuPlan st v r.inst).inst.f64 = false ∧ (m.vuOperand st v (s.view.vuPlan st v r.inst) r.elem 2 e).fst < 2
      ^ 32) ∧
    (∃ (c : Instr) (st : Nat) (v : Nat) (op : Nat) (h : Nat) (j : Job) (s : State) (r : VuRun) (m : Mach) (e : Nat),
      vuIssueOf c = some (st, v, op) ∧ s.Ready ∧ st < 16 ∧ v < 32 ∧ 1 ≤ op ∧ op ≤ 22 ∧ s.VuIssues st v h j r m ∧
      (s.view.vuPlan st v r.inst).inst.op = op ∧ r.elem < (s.view.vuPlan st v r.inst).upTo (r.tick + 1) ∧ op = 9 ∧
      (s.view.vuPlan st v r.inst).inst.f64 = false ∧ (m.vuOperand st v (s.view.vuPlan st v r.inst) r.elem 2 e).fst < 2
      ^ 32) ∧
    (∃ (c : Instr) (st : Nat) (v : Nat) (op : Nat) (h : Nat) (j : Job) (s : State) (r : VuRun) (m : Mach), vuIssueOf c
      = some (st, v, op) ∧ s.Ready ∧ st < 16 ∧ v < 32 ∧ 1 ≤ op ∧ op ≤ 22 ∧ s.VuIssues st v h j r m ∧ (s.view.vuPlan st
      v r.inst).inst.op = op ∧ r.elem < (s.view.vuPlan st v r.inst).upTo (r.tick + 1) ∧ op = 18 ∧ (s.view.vuPlan st v
      r.inst).inst.f64 = false) :=
  ⟨⟨Instr.vuAbs 15 31, 15, 31, 8, 9, job0, B 0 8 1 0 0 4 0 rr, rr,
      ((B 0 8 1 0 0 4 0 rr).view.vuReadRows (9) (15) (31) ((B 0 8 1 0 0 4 0 rr).view.vuPlan (15) (31) (rr).inst) (rr).elem (((B 0 8 1 0 0 4 0 rr).view.vuPlan (15) (31) (rr).inst).upTo ((rr).tick + 1))).2,
      3, by decide +kernel⟩,
    ⟨Instr.vuNeg 15 31, 15, 31, 9, 9, job0, B 0 9 1 0 0 4 0 rr, rr,
      ((B 0 9 1 0 0 4 0 rr).view.vuReadRows (9) (15) (31) ((B 0 9 1 0 0 4 0 rr).view.vuPlan (15) (31) (rr).inst) (rr).elem (((B 0 9 1 0 0 4 0 rr).view.vuPlan (15) (31) (rr).inst).upTo ((rr).tick + 1))).2,
      3, by decide +kernel⟩,
    ⟨Instr.vuRcp 15 31, 15, 31, 0x12, 9, job0, B 0 0x12 1 0 0 4 0 r2, r2,
      ((B 0 0x12 1 0 0 4 0 r2).view.vuReadRows (9) (15) (31) ((B 0 0x12 1 0 0 4 0 r2).view.vuPlan (15) (31) (r2).inst) (r2).elem (((B 0 0x12 1 0 0 4 0 r2).view.vuPlan (15) (31) (r2).inst).upTo ((r2).tick + 1))).2, by decide +kernel⟩⟩

/-- States and operands that meet the hypotheses of `Obligations.VectorRowsAndConversions`. -/
theorem witness_VectorRowsAndConversions :
    (∃ (c : Instr) (st : Nat) (v : Nat) (op : Nat) (h : Nat) (j : Job) (s : State) (r : VuRun) (m : Mach), vuIssueOf c
      = some (st, v, op) ∧ s.Ready ∧ st < 16 ∧ v < 32 ∧ s.VuIssues st v h j r m ∧ (s.view.vuPlan st v r.inst).inst.op
      = op ∧ op = 0 ∧ r.elem = 0) ∧
    (∃ (c : Instr) (st : Nat) (v : Nat) (op : Nat) (h : Nat) (j : Job) (s : State) (r : VuRun) (m : Mach), vuIssueOf c
      = some (st, v, op) ∧ s.Ready ∧ st < 16 ∧ v < 32 ∧ s.VuIssues st v h j r m ∧ (s.view.vuPlan st v r.inst).inst.op
      = op ∧ 24 ≤ op ∧ op ≤ 26 ∧ r.elem < (s.view.vuPlan st v r.inst).upTo (r.tick + 1)) ∧
    (∃ (c : Instr) (st : Nat) (v : Nat) (op : Nat) (h : Nat) (j : Job) (s : State) (r : VuRun) (m : Mach), vuIssueOf c
      = some (st, v, op) ∧ s.Ready ∧ st < 16 ∧ v < 32 ∧ s.VuIssues st v h j r m ∧ (s.view.vuPlan st v r.inst).inst.op
      = op ∧ op = 32 ∧ r.elem < (s.view.vuPlan st v r.inst).upTo (r.tick + 1)) ∧
    (∃ (c : Instr) (st : Nat) (v : Nat) (op : Nat) (h : Nat) (j : Job) (s : State) (r : VuRun) (m : Mach), vuIssueOf c
      = some (st, v, op) ∧ s.Ready ∧ st < 16 ∧ v < 32 ∧ s.VuIssues st v h j r m ∧ (s.view.vuPlan st v r.inst).inst.op
      = op ∧ op = 33 ∧ r.elem < (s.view.vuPlan st v r.inst).upTo (r.tick + 1)) :=
  ⟨⟨Instr.vuNop 15 31, 15, 31, 0, 9, job0, C 0 0 0 0 0 0 0 32 3 rr, rr,
      ((C 0 0 0 0 0 0 0 32 3 rr).view.vuReadRows (9) (15) (31) ((C 0 0 0 0 0 0 0 32 3 rr).view.vuPlan (15) (31) (rr).inst) (rr).elem (((C 0 0 0 0 0 0 0 32 3 rr).view.vuPlan (15) (31) (rr).inst).upTo ((rr).tick + 1))).2, by decide +kernel⟩,
    ⟨Instr.vuRowsum 15 31, 15, 31, 0x18, 9, job0, C 0 0x18 1 0 0 4 0 32 3 r4, r4,
      ((C 0 0x18 1 0 0 4 0 32 3 r4).view.vuReadRows (9) (15) (31) ((C 0 0x18 1 0 0 4 0 32 3 r4).view.vuPlan (15) (31) (r4).inst) (r4).elem (((C 0 0x18 1 0 0 4 0 32 3 r4).view.vuPlan (15) (31) (r4).inst).upTo ((r4).tick + 1))).2, by decide +kernel⟩,
    ⟨Instr.vuCvt 15 31, 15, 31, 0x20, 9, job0, C 0 0x20 1 0 (2^10+2^11+2^12+2^14) 0 0 32 3 rr, rr,
      ((C 0 0x20 1 0 (2^10+2^11+2^12+2^14) 0 0 32 3 rr).view.vuReadRows (9) (15) (31) ((C 0 0x20 1 0 (2^10+2^11+2^12+2^14) 0 0 32 3 rr).view.vuPlan (15) (31) (rr).inst) (rr).elem (((C 0 0x20 1 0 (2^10+2^11+2^12+2^14) 0 0 32 3 rr).view.vuPlan (15) (31) (rr).inst).upTo ((rr).tick + 1))).2, by decide +kernel⟩,
    ⟨Instr.vuScalesel 15 31, 15, 31, 0x21, 9, job0,
      setR (Reg.vuAmax 15 31 3) 0x41200000 (C 0 0x21 1 0 (3*2^12) 4 0 32 3 rr), rr,
      ((setR (Reg.vuAmax 15 31 3) 0x41200000 (C 0 0x21 1 0 (3*2^12) 4 0 32 3 rr)).view.vuReadRows (9) (15) (31) ((setR (Reg.vuAmax 15 31 3) 0x41200000 (C 0 0x21 1 0 (3*2^12) 4 0 32 3 rr)).view.vuPlan (15) (31) (rr).inst) (rr).elem (((setR (Reg.vuAmax 15 31 3) 0x41200000 (C 0 0x21 1 0 (3*2^12) 4 0 32 3 rr)).view.vuPlan (15) (31) (rr).inst).upTo ((rr).tick + 1))).2, by decide +kernel⟩⟩

/-- States and operands that meet the hypotheses of `Obligations.VectorStartsAndWrites`. -/
theorem witness_VectorStartsAndWrites :
    (∃ (s : State) (st : Nat) (v : Nat) (h : Nat) (j : Job) (x : UnitMsg), s.Ready ∧ st < 16 ∧ v < 32 ∧ s.VuIsPresent
      st v ∧ s.view.liveJob st = some (h, j) ∧ (s.view.vuOf st v).run = none ∧ (s.view.vuOf st v).faulted = false ∧
      (List.find? (fun x => x.kind == 1 && x.unit == v && decide (x.due ≤ j.cyc)) (s.view.sb st).starts = some x)) ∧
    (∃ (s : State) (st : Nat) (v : Nat) (h : Nat) (j : Job) (f : VuWrite) (w : VuWrite) (ws : List VuWrite), s.Ready ∧
      st < 16 ∧ v < 32 ∧ s.VuIsPresent st v ∧ s.view.liveJob st = some (h, j) ∧ (s.view.vuOf st v).writes = f :: ws ∧
      (leastBy VuWrite.due (List.filter (fun x => x.inst == f.inst) (f :: ws)) = some w) ∧ w.due ≤ j.cyc ∧ (¬∃ g, g <
      8 ∧ ∃ r, r ∈ (s.view.portOf st (groupBay v g)).reqs ∧ r.user = PortUser.vuWrite v ∧ r.inst ≠ w.inst) ∧
      (s.view.vuOf st v).faulted = false ∧ (w.desc = 0 ∨ (s.view.streamDesc st v w.desc).kind ≠ 2 ∨
      s.view.senderBlocked st (vuUnit st v).bay (vuUnit st v) = false)) ∧
    (∃ (s : State) (st : Nat) (v : Nat) (h : Nat) (j : Job) (f : VuWrite) (w : VuWrite) (ws : List VuWrite), s.Ready ∧
      st < 16 ∧ v < 32 ∧ s.VuIsPresent st v ∧ s.view.liveJob st = some (h, j) ∧ (s.view.vuOf st v).writes = f :: ws ∧
      (leastBy VuWrite.due (List.filter (fun x => x.inst == f.inst) (f :: ws)) = some w) ∧ (j.cyc < w.due ∨ ∃ g, g < 8
      ∧ ∃ r, r ∈ (s.view.portOf st (groupBay v g)).reqs ∧ r.user = PortUser.vuWrite v ∧ r.inst ≠ w.inst)) :=
  ⟨⟨box (fun b => {b with starts := [mv]}) (base0 0), 15, 31, 9, job0, mv, by decide +kernel⟩,
    ⟨wSv w0, 15, 31, 9, job0, w0, w0, ([] : List VuWrite), by decide +kernel⟩,
    ⟨wSv {w6 none with due := 501}, 15, 31, 9, job0, {w6 none with due := 501}, {w6 none with due := 501},
      ([] : List VuWrite), by decide +kernel⟩⟩

/-- States and operands that meet the hypotheses of `Obligations.MessagesTravel`. -/
theorem witness_MessagesTravel :
    (∃ (s : State) (st : Nat) (b : Nat) (r : Nat) (h : Nat) (i : Nat) (j : Job), s.Ready ∧ st < 16 ∧ b < 256 ∧ r < 64
      ∧ s.BayIsPresent st b ∧ s.view.liveJob st = some (h, j) ∧ (findIndex (fun x => x.stage == 0) (s.view.outbox st b
      r) = some i) ∧ List.length (nth { } (s.view.outbox st b r) i).bytes ≤ (s.view.qdesc (nth { } (s.view.outbox st b
      r) i).dstSt (nth { } (s.view.outbox st b r) i).queue).limit ∧ ((List.filter (fun y => y.outstanding j.cyc)
      (s.view.outbox st b r)).length < 4)) ∧
    (∃ (s : State) (st : Nat) (b : Nat) (r : Nat) (h : Nat) (j : Job), s.Ready ∧ st < 16 ∧ b < 256 ∧ r < 64 ∧
      s.BayIsPresent st b ∧ s.view.liveJob st = some (h, j)) ∧
    (∃ (s : State) (st : Nat) (q : Nat) (h : Nat) (j : Job) (a : AdmReq), s.Ready ∧ st < 16 ∧ q < 4096 ∧
      s.QueueIsPresent st q ∧ s.view.stnJob st = some (h, j) ∧ (leastBy (s.view.arrivalKey st) (List.filter (fun a =>
      !a.arrived && decide (a.due ≤ if a.arc = true then s.view.now else j.cyc)) (s.view.queue st q).reqs) = some a) ∧
      (a.router && s.view.routerRefuses st q a.len) = false) ∧
    (∃ (s : State) (st : Nat) (b : Nat) (r : Nat) (h : Nat) (i : Nat) (j : Job), s.Ready ∧ st < 16 ∧ b < 256 ∧ r < 64
      ∧ s.BayIsPresent st b ∧ s.view.liveJob st = some (h, j) ∧ (findIndex (fun x => x.stage == 0) (s.view.outbox st b
      r) = some i) ∧ List.length (nth { } (s.view.outbox st b r) i).bytes ≤ (s.view.qdesc (nth { } (s.view.outbox st b
      r) i).dstSt (nth { } (s.view.outbox st b r) i).queue).limit ∧ (4 ≤ (List.filter (fun y => y.outstanding j.cyc)
      (s.view.outbox st b r)).length)) ∧
    (∃ (s : State) (st : Nat) (b : Nat) (r : Nat) (h : Nat) (j : Job) (x : OutMsg) (rest : List OutMsg), s.Ready ∧ st
      < 16 ∧ b < 256 ∧ r < 64 ∧ s.BayIsPresent st b ∧ s.view.liveJob st = some (h, j) ∧ s.view.outbox st b r = x ::
      rest ∧ x.stage = 4 ∧ x.due ≤ j.cyc ∧ (¬((senderPort x.unit = 5 → bit (s.reg (Reg.swStatus st b)) 0 = false) ∧
      s.view.inOrder st b x = true) ∨ s.view.bookedNow j st b r (senderPort x.unit) = none)) ∧
    (∃ (s : State) (st : Nat) (b : Nat) (r : Nat) (h : Nat) (i : Nat) (j : Job), s.Ready ∧ st < 16 ∧ b < 256 ∧ r < 64
      ∧ s.BayIsPresent st b ∧ s.view.liveJob st = some (h, j) ∧ (findIndex (fun x => x.stage == 0) (s.view.outbox st b
      r) = some i) ∧ (s.view.qdesc (nth { } (s.view.outbox st b r) i).dstSt (nth { } (s.view.outbox st b r)
      i).queue).limit < List.length (nth { } (s.view.outbox st b r) i).bytes ∧ j.fault = none) ∧
    (∃ (s : State) (st : Nat) (q : Nat) (h : Nat) (j : Job) (w : NetWord) (y : Msg), s.Ready ∧ st < 16 ∧ q < 4096 ∧
      s.QueueIsPresent st q ∧ s.view.stnJob st = some (h, j) ∧ (leastBy NetWord.due (List.filter (fun w => decide
      (w.due ≤ (if w.arc = true then s.view.now else j.cyc) + if (s.view.qdesc st q).isRing = true then 2 else 0))
      (s.view.queue st q).flight) = some w) ∧ bit (s.reg (Reg.swStatus st (s.view.qBay st q))) 0 = false ∧ (List.find?
      (fun z => z.seq == w.seq) (s.view.queue st q).msgs = some y)) ∧
    (∃ (s : State) (st : Nat) (b : Nat) (r : Nat) (h : Nat) (j : Job) (x : OutMsg) (rest : List OutMsg) (way : Way),
      s.Ready ∧ st < 16 ∧ b < 256 ∧ r < 64 ∧ s.BayIsPresent st b ∧ s.view.liveJob st = some (h, j) ∧ s.view.outbox st
      b r = x :: rest ∧ x.stage = 4 ∧ x.due ≤ j.cyc ∧ ((senderPort x.unit = 5 → bit (s.reg (Reg.swStatus st b)) 0 =
      false) ∧ s.view.inOrder st b x = true) ∧ s.view.bookedNow j st b r (senderPort x.unit) = some way) ∧
    (∃ (s : State) (st : Nat) (q : Nat) (h : Nat) (j : Job) (a : AdmReq) (y : OutMsg), s.Ready ∧ st < 16 ∧ q < 4096 ∧
      s.QueueIsPresent st q ∧ s.view.stnJob st = some (h, j) ∧ j.phase ≠ JobPhase.stopping ∧ j.frozen = false ∧
      j.spills = [] ∧ (s.view.queue st q).firstReq = some a ∧ a.arc = false ∧ a.router = false ∧ a.comb = false ∧
      a.adm ≤ j.cyc ∧ (List.find? (fun x => x.stage == 1 || x.stage == 2) (s.view.outbox a.st a.bay a.route) = some y)
      ∧ (if (s.view.qdesc st q).kind = 0 then False else if (s.view.qdesc st q).isRing = true then (if (s.view.qdesc
      st q).cap - (s.view.queue st q).tail % (s.view.qdesc st q).cap < recordBytes a.len then (s.view.qdesc st q).cap
      - (s.view.queue st q).tail % (s.view.qdesc st q).cap else 0) + recordBytes a.len ≤ (s.view.qdesc st q).cap -
      ptrDist (s.view.queue st q).tail (s.view.queue st q).head else (s.view.queue st q).shortUsed (s.view.qdesc st
      q).net + wordsOf (s.view.qdesc st q).net a.len ≤ (s.view.qdesc st q).depth)) ∧
    (∃ (s : State) (st : Nat) (q : Nat) (h : Nat) (j : Job) (a : AdmReq) (y : OutMsg), s.Ready ∧ st < 16 ∧ q < 4096 ∧
      s.QueueIsPresent st q ∧ s.view.stnJob st = some (h, j) ∧ j.phase ≠ JobPhase.stopping ∧ j.frozen = false ∧
      j.spills = [] ∧ (s.view.queue st q).firstReq = some a ∧ a.arc = false ∧ a.router = false ∧ a.comb = false ∧
      a.adm ≤ j.cyc ∧ (List.find? (fun x => x.stage == 1 || x.stage == 2) (s.view.outbox a.st a.bay a.route) = some y)
      ∧ (¬if (s.view.qdesc st q).kind = 0 then False else if (s.view.qdesc st q).isRing = true then (if (s.view.qdesc
      st q).cap - (s.view.queue st q).tail % (s.view.qdesc st q).cap < recordBytes a.len then (s.view.qdesc st q).cap
      - (s.view.queue st q).tail % (s.view.qdesc st q).cap else 0) + recordBytes a.len ≤ (s.view.qdesc st q).cap -
      ptrDist (s.view.queue st q).tail (s.view.queue st q).head else (s.view.queue st q).shortUsed (s.view.qdesc st
      q).net + wordsOf (s.view.qdesc st q).net a.len ≤ (s.view.qdesc st q).depth)) :=
  ⟨⟨om [o0] S0, 15, 248, 63, 9, 0, job0, by decide +kernel⟩,
    ⟨om [o0] S0, 15, 248, 63, 9, job0, by decide +kernel⟩,
    ⟨que 100 { reqs := [a0] } S0, 15, 100, 9, job0, a0, by decide +kernel⟩,
    ⟨om (o0 :: List.replicate 4 {o0 with stage := 1}) S0, 15, 248, 63, 9, 0, job0, by decide +kernel⟩,
    ⟨om [o4, o3] S0, 15, 248, 63, 9, job0, o4, [o3], by decide +kernel⟩,
    ⟨om [{o0 with bytes := List.replicate 1025 7}] S0, 15, 248, 63, 9, 0, job0, by decide +kernel⟩,
    ⟨que 100 { flight := [nw], msgs := [my] } S0, 15, 100, 9, job0, nw, my, by decide +kernel⟩,
    ⟨om [o4, o3] (qd 100 1 1 248 0 0 (s := S0)), 15, 248, 63, 9, job0, o4, [o3],
      ((om [o4, o3] (qd 100 1 1 248 0 0 (s := S0))).view.bookedNow job0 15 248 63 5).getD default, by decide +kernel⟩,
    ⟨que 100 { reqs := [a1], msgs := [m1], tail := 2^32-2, seq := 2^32-1 } (om [{o0 with stage := 1}] S0), 15, 100,
      9, job0, a1, {o0 with stage := 1}, by decide +kernel⟩,
    ⟨que 100 { reqs := [a1], msgs := [m1, m1], tail := 2^32-2, seq := 2^32-1 } (om [{o0 with stage := 1}] S0), 15,
      100, 9, job0, a1, {o0 with stage := 1}, by decide +kernel⟩⟩

/-- States and operands that meet the hypotheses of `Obligations.QueuesPointsAndCombining`. -/
theorem witness_QueuesPointsAndCombining :
    (∃ (s : State) (st : Nat) (q : Nat) (h : Nat) (j : Job) (ys : List (Bytes × Bool)) (xs : List Queue), s.Ready ∧ st
      < 16 ∧ q < 4096 ∧ s.QueueIsPresent st q ∧ s.view.liveJob st = some (h, j) ∧ (s.view.qdesc st q).combines = true
      ∧ s.view.switchStopped st (s.view.qdesc st q).bay = false ∧ s.ArraysPass st (s.view.qdesc st q).inputs ∧ (∀ (i :
      Nat), i ∈ (s.view.qdesc st q).inputs → s.view.ptWants st i = false) ∧ ys.length = (s.view.qdesc st q).senders ∧
      (∀ (k : Nat), k < (s.view.qdesc st q).senders → (s.view.qdesc st q).srcQ + k ≠ q ∧ (s.view.qdesc st q).srcQ + k
      < 4096 ∧ s.HeadHas st ((s.view.qdesc st q).srcQ + k) (nth ([], false) ys k).fst (nth ([], false) ys k).snd (nth
      { } xs k)) ∧ (s.view.queue st q).sum = none ∧ (s.view.queue st q).reqs ≠ [] ∧ (∀ (a : AdmReq), a ∈ (s.view.queue
      st q).reqs → a.comb = false) ∧ s.view.head st q = Head.empty) ∧
    (∃ (s : State) (st : Nat) (q : Nat) (h : Nat) (j : Job) (len : Nat) (v : Bool) (next : Nat) (here : Nat) (b : Nat)
      (u : Mu) (r : MuRun) (bs : Bytes), s.Ready ∧ st < 16 ∧ q < 4096 ∧ s.QueueIsPresent st q ∧ s.view.liveJob st =
      some (h, j) ∧ s.view.head st q = Head.message len v next here ∧ (s.view.queue st q).busy ≤ j.cyc ∧ s.dev.mu =
      [(st * 256 + b, u)] ∧ b < 256 ∧ u.run = some r ∧ u.faulted = false ∧ r.ldDone = false ∧ r.ldLate = false ∧
      u.load = none ∧ u.shadow = none ∧ (s.view.passDesc st b r.ldDesc).wQueue = some q ∧ (s.view.take st q).fst =
      some (bs, v)) ∧
    (∃ (s : State) (st : Nat) (q : Nat) (h : Nat) (j : Job) (len : Nat) (v : Bool) (next : Nat) (here : Nat) (m :
      Mach), s.Ready ∧ st < 16 ∧ q < 4096 ∧ s.QueueIsPresent st q ∧ s.view.liveJob st = some (h, j) ∧ s.view.head st q
      = Head.message len v next here ∧ (s.view.queue st q).busy ≤ j.cyc ∧ s.view.muReads h j st q = some m) ∧
    (∃ (s : State) (st : Nat) (b : Nat) (e : Nat) (h : Nat) (j : Job) (bs : Bytes) (cv : Bool) (cx : Queue) (z :
      Bytes) (v : Bool) (x : Queue), s.Ready ∧ st < 16 ∧ b < 256 ∧ e < 16 ∧ s.BayIsPresent st b ∧ s.view.liveJob st =
      some (h, j) ∧ s.ArraysPass st ((s.view.ptDesc st b e).ctlQ :: (s.view.ptDesc st b e).dataQueues) ∧
      (s.view.ptDesc st b e).mode ≠ 0 ∧ (s.view.points st b e).owed = [] ∧ (s.view.points st b e).next ≤ j.cyc ∧
      s.view.senderBlocked st b (ptUnit st b e) = false ∧ s.HeadHas st (s.view.ptDesc st b e).ctlQ bs cv cx ∧
      List.length bs = 2 ∧ ¬(s.view.ptDesc st b e).ctlQ ∈ (s.view.ptDesc st b e).dataQueues ∧ (s.view.ptDesc st b
      e).mode = 2 ∧ s.HeadHas st (s.view.ptDesc st b e).dataQ z v x ∧ bits (leNat bs 0 2) 8 1 % 16 < (s.view.ptDesc st
      b e).routes ∧ (bit (leNat bs 0 2) 0 = true ∨ (s.view.ptDesc st b e).invFwd = true) ∧ (¬((s.view.ptDesc st b
      e).cap ≠ 0 ∧ nth 0 (s.view.points st b e).counts (bits (leNat bs 0 2) 8 1 % 16) = (s.view.ptDesc st b e).cap))) ∧
    (∃ (s : State) (st : Nat) (b : Nat) (e : Nat) (h : Nat) (r : Nat) (n : Nat) (j : Job) (rest : List (Nat × Nat)) (z
      : Bytes) (v : Bool) (x : Queue), s.Ready ∧ st < 16 ∧ b < 256 ∧ e < 16 ∧ s.BayIsPresent st b ∧ s.view.liveJob st
      = some (h, j) ∧ (s.view.points st b e).owed = (r, n + 1) :: rest ∧ s.view.senderBlocked st b (ptUnit st b e) =
      false ∧ s.ArraysPass st (s.view.ptDesc st b e).dataQueues ∧ (s.view.ptDesc st b e).mode = 3 ∧ s.HeadHas st
      ((s.view.ptDesc st b e).dataQ + r) z v x) ∧
    (∃ (s : State) (st : Nat) (q : Nat) (h : Nat) (j : Job), s.Ready ∧ st < 16 ∧ q < 4096 ∧ s.QueueIsPresent st q ∧
      s.view.liveJob st = some (h, j) ∧ (s.view.qdesc st q).combines = true ∧ s.view.switchStopped st (s.view.qdesc st
      q).bay = false ∧ (¬s.ArraysPass st (s.view.qdesc st q).inputs ∨ ∃ i, i ∈ (s.view.qdesc st q).inputs ∧
      s.view.ptWants st i = true)) ∧
    (∃ (s : State) (st : Nat) (b : Nat) (e : Nat) (h : Nat) (j : Job) (bs : Bytes) (cv : Bool) (cx : Queue), s.Ready ∧
      st < 16 ∧ b < 256 ∧ e < 16 ∧ s.BayIsPresent st b ∧ s.view.liveJob st = some (h, j) ∧ s.ArraysPass st
      ((s.view.ptDesc st b e).ctlQ :: (s.view.ptDesc st b e).dataQueues) ∧ (s.view.ptDesc st b e).mode ≠ 0 ∧
      (s.view.points st b e).owed = [] ∧ (s.view.points st b e).next ≤ j.cyc ∧ s.view.senderBlocked st b (ptUnit st b
      e) = false ∧ s.HeadHas st (s.view.ptDesc st b e).ctlQ bs cv cx ∧ List.length bs = 2 ∧ ¬(s.view.ptDesc st b
      e).ctlQ ∈ (s.view.ptDesc st b e).dataQueues ∧ (s.view.ptDesc st b e).mode = 3 ∧ ((s.view.ptDesc st b e).routes ≤
      bits (leNat bs 0 2) 8 1 % 16 ∨ ¬(bit (leNat bs 0 2) 0 = true ∨ (s.view.ptDesc st b e).invFwd = true) ∨
      (s.view.ptDesc st b e).cap ≠ 0 ∧ nth 0 (s.view.points st b e).counts (bits (leNat bs 0 2) 8 1 % 16) =
      (s.view.ptDesc st b e).cap)) ∧
    (∃ (s : State) (st : Nat) (b : Nat) (e : Nat) (h : Nat) (j : Job), s.Ready ∧ st < 16 ∧ b < 256 ∧ e < 16 ∧
      s.BayIsPresent st b ∧ s.view.liveJob st = some (h, j) ∧ ¬s.ArraysPass st ((s.view.ptDesc st b e).ctlQ ::
      (s.view.ptDesc st b e).dataQueues)) ∧
    (∃ (s : State) (st : Nat) (q : Nat) (h : Nat) (j : Job) (ys : List (Bytes × Bool)) (xs : List Queue), s.Ready ∧ st
      < 16 ∧ q < 4096 ∧ s.QueueIsPresent st q ∧ s.view.liveJob st = some (h, j) ∧ (s.view.qdesc st q).combines = true
      ∧ s.view.switchStopped st (s.view.qdesc st q).bay = false ∧ s.ArraysPass st (s.view.qdesc st q).inputs ∧ (∀ (i :
      Nat), i ∈ (s.view.qdesc st q).inputs → s.view.ptWants st i = false) ∧ ys.length = (s.view.qdesc st q).senders ∧
      (∀ (k : Nat), k < (s.view.qdesc st q).senders → (s.view.qdesc st q).srcQ + k ≠ q ∧ (s.view.qdesc st q).srcQ + k
      < 4096 ∧ s.HeadHas st ((s.view.qdesc st q).srcQ + k) (nth ([], false) ys k).fst (nth ([], false) ys k).snd (nth
      { } xs k)) ∧ (s.view.queue st q).sum = none ∧ (s.view.queue st q).reqs = [] ∧ ((admitStep (s.view.qdesc st q)
      (s.view.queue st q) (s.view.qdesc st q).declLen (combineSum (s.view.qdesc st q).ctype (s.view.qdesc st
      q).declLen (List.map (fun y => (padTo (s.view.qdesc st q).declLen y.fst, y.snd)) ys)).snd.fst (s.view.qdesc st
      q).bay st).snd.snd = true) ∧ (∀ (y : Msg), y ∈ (s.view.queue st q).msgs → y.seq ≠ (s.view.queue st q).seq)) ∧
    (∃ (s : State) (st : Nat) (b : Nat) (e : Nat) (h : Nat) (j : Job) (bs : Bytes) (cv : Bool) (cx : Queue) (z :
      Bytes) (v : Bool) (x : Queue), s.Ready ∧ st < 16 ∧ b < 256 ∧ e < 16 ∧ s.BayIsPresent st b ∧ s.view.liveJob st =
      some (h, j) ∧ s.ArraysPass st ((s.view.ptDesc st b e).ctlQ :: (s.view.ptDesc st b e).dataQueues) ∧
      (s.view.ptDesc st b e).mode ≠ 0 ∧ (s.view.points st b e).owed = [] ∧ (s.view.points st b e).next ≤ j.cyc ∧
      s.view.senderBlocked st b (ptUnit st b e) = false ∧ s.HeadHas st (s.view.ptDesc st b e).ctlQ bs cv cx ∧
      List.length bs = 2 ∧ ¬(s.view.ptDesc st b e).ctlQ ∈ (s.view.ptDesc st b e).dataQueues ∧ (s.view.ptDesc st b
      e).mode = 2 ∧ s.HeadHas st (s.view.ptDesc st b e).dataQ z v x ∧ ((s.view.ptDesc st b e).routes ≤ bits (leNat bs
      0 2) 8 1 % 16 ∨ ¬(bit (leNat bs 0 2) 0 = true ∨ (s.view.ptDesc st b e).invFwd = true) ∨ (s.view.ptDesc st b
      e).cap ≠ 0 ∧ nth 0 (s.view.points st b e).counts (bits (leNat bs 0 2) 8 1 % 16) = (s.view.ptDesc st b e).cap)) ∧
    (∃ (s : State) (st : Nat) (b : Nat) (e : Nat) (h : Nat) (j : Job) (bs : Bytes) (cv : Bool) (cx : Queue) (z :
      Bytes) (v : Bool) (x : Queue), s.Ready ∧ st < 16 ∧ b < 256 ∧ e < 16 ∧ s.BayIsPresent st b ∧ s.view.liveJob st =
      some (h, j) ∧ s.ArraysPass st ((s.view.ptDesc st b e).ctlQ :: (s.view.ptDesc st b e).dataQueues) ∧
      (s.view.ptDesc st b e).mode ≠ 0 ∧ (s.view.points st b e).owed = [] ∧ (s.view.points st b e).next ≤ j.cyc ∧
      s.view.senderBlocked st b (ptUnit st b e) = false ∧ s.HeadHas st (s.view.ptDesc st b e).ctlQ bs cv cx ∧
      List.length bs = 2 ∧ ¬(s.view.ptDesc st b e).ctlQ ∈ (s.view.ptDesc st b e).dataQueues ∧ (s.view.ptDesc st b
      e).mode = 3 ∧ bits (leNat bs 0 2) 8 1 % 16 < (s.view.ptDesc st b e).routes ∧ (bit (leNat bs 0 2) 0 = true ∨
      (s.view.ptDesc st b e).invFwd = true) ∧ (¬((s.view.ptDesc st b e).cap ≠ 0 ∧ nth 0 (s.view.points st b e).counts
      (bits (leNat bs 0 2) 8 1 % 16) = (s.view.ptDesc st b e).cap)) ∧ s.HeadHas st ((s.view.ptDesc st b e).dataQ +
      bits (leNat bs 0 2) 8 1 % 16) z v x) ∧
    (∃ (s : State) (st : Nat) (b : Nat) (e : Nat) (h : Nat) (j : Job) (bs : Bytes) (cv : Bool) (cx : Queue) (z :
      Bytes) (z' : Bytes) (v : Bool) (v' : Bool) (x : Queue) (x' : Queue), s.Ready ∧ st < 16 ∧ b < 256 ∧ e < 16 ∧
      s.BayIsPresent st b ∧ s.view.liveJob st = some (h, j) ∧ s.ArraysPass st ((s.view.ptDesc st b e).ctlQ ::
      (s.view.ptDesc st b e).dataQueues) ∧ (s.view.ptDesc st b e).mode ≠ 0 ∧ (s.view.points st b e).owed = [] ∧
      (s.view.points st b e).next ≤ j.cyc ∧ s.view.senderBlocked st b (ptUnit st b e) = false ∧ s.HeadHas st
      (s.view.ptDesc st b e).ctlQ bs cv cx ∧ List.length bs = 2 ∧ ¬(s.view.ptDesc st b e).ctlQ ∈ (s.view.ptDesc st b
      e).dataQueues ∧ (s.view.ptDesc st b e).mode = 1 ∧ s.HeadHas st (s.view.ptDesc st b e).dataQ z v x ∧ s.HeadHas st
      ((s.view.ptDesc st b e).dataQ + 1) z' v' x') ∧
    (∃ (s : State) (st : Nat) (q : Nat) (h : Nat) (j : Job) (len : Nat) (v : Bool) (next : Nat) (here : Nat) (m :
      Mach), s.Ready ∧ st < 16 ∧ q < 4096 ∧ s.QueueIsPresent st q ∧ s.view.liveJob st = some (h, j) ∧ s.view.head st q
      = Head.message len v next here ∧ (s.view.queue st q).busy ≤ j.cyc ∧ s.view.muReads h j st q = none ∧
      s.view.vuReads h st q = some m) ∧
    (∃ (s : State) (st : Nat) (b : Nat) (e : Nat) (h : Nat) (r : Nat) (n : Nat) (j : Job) (rest : List (Nat × Nat)),
      s.Ready ∧ st < 16 ∧ b < 256 ∧ e < 16 ∧ s.BayIsPresent st b ∧ s.view.liveJob st = some (h, j) ∧ (s.view.points st
      b e).owed = (r, n + 1) :: rest ∧ s.view.senderBlocked st b (ptUnit st b e) = false ∧ s.ArraysPass st
      (s.view.ptDesc st b e).dataQueues ∧ (s.view.ptDesc st b e).mode = 2) ∧
    (∃ (s : State) (st : Nat) (q : Nat) (h : Nat) (j : Job) (n : Nat), s.Ready ∧ st < 16 ∧ q < 4096 ∧ s.QueueIsPresent
      st q ∧ s.view.liveJob st = some (h, j) ∧ s.view.head st q = Head.pass n ∧ (s.view.queue st q).busy ≤ j.cyc) ∧
    (∃ (s : State) (st : Nat) (q : Nat) (h : Nat) (j : Job) (ys : List (Bytes × Bool)) (xs : List Queue) (a : Nat) (c
      : Nat), s.Ready ∧ st < 16 ∧ q < 4096 ∧ s.QueueIsPresent st q ∧ s.view.liveJob st = some (h, j) ∧ (s.view.qdesc
      st q).combines = true ∧ s.view.switchStopped st (s.view.qdesc st q).bay = false ∧ s.ArraysPass st (s.view.qdesc
      st q).inputs ∧ (∀ (i : Nat), i ∈ (s.view.qdesc st q).inputs → s.view.ptWants st i = false) ∧ ys.length =
      (s.view.qdesc st q).senders ∧ (∀ (k : Nat), k < (s.view.qdesc st q).senders → (s.view.qdesc st q).srcQ + k ≠ q ∧
      (s.view.qdesc st q).srcQ + k < 4096 ∧ s.HeadHas st ((s.view.qdesc st q).srcQ + k) (nth ([], false) ys k).fst
      (nth ([], false) ys k).snd (nth { } xs k)) ∧ (s.view.queue st q).sum = some a ∧ (s.view.queue st q).comb = some
      c ∧ c ≤ j.cyc) ∧
    (∃ (s : State) (st : Nat) (q : Nat) (h : Nat) (j : Job) (ys : List (Bytes × Bool)) (xs : List Queue) (a : Nat) (c
      : Nat), s.Ready ∧ st < 16 ∧ q < 4096 ∧ s.QueueIsPresent st q ∧ s.view.liveJob st = some (h, j) ∧ (s.view.qdesc
      st q).combines = true ∧ s.view.switchStopped st (s.view.qdesc st q).bay = false ∧ s.ArraysPass st (s.view.qdesc
      st q).inputs ∧ (∀ (i : Nat), i ∈ (s.view.qdesc st q).inputs → s.view.ptWants st i = false) ∧ ys.length =
      (s.view.qdesc st q).senders ∧ (∀ (k : Nat), k < (s.view.qdesc st q).senders → (s.view.qdesc st q).srcQ + k ≠ q ∧
      (s.view.qdesc st q).srcQ + k < 4096 ∧ s.HeadHas st ((s.view.qdesc st q).srcQ + k) (nth ([], false) ys k).fst
      (nth ([], false) ys k).snd (nth { } xs k)) ∧ (s.view.queue st q).sum = some a ∧ (s.view.queue st q).comb = some
      c ∧ j.cyc < c) :=
  ⟨⟨que 300 { seq := 3, reqs := [a1] } (comb 0 [cm 0 true, cm 1 false, cm 2 true]), 15, 300, 9, job0,
      (List.range 3).map fun k => hd (que 300 { seq := 3, reqs := [a1] } (comb 0 [cm 0 true, cm 1 false, cm 2 true])) (400 + k),
      (List.range 3).map fun k => hq (que 300 { seq := 3, reqs := [a1] } (comb 0 [cm 0 true, cm 1 false, cm 2 true])) (400 + k), by decide +kernel⟩,
    ⟨wst 700, 15, 77, 9, job0, (hm (wst 700) 77).1, (hd (wst 700) 77).2, (hm (wst 700) 77).2.2.1,
      (hm (wst 700) 77).2.2.2, 255, mu0, ({ desc := 2, ldDesc := 2, next := 480 } : MuRun), (hd (wst 700) 77).1, by refine ⟨?_, ?_, ?_, ?_, ?_, ?_, ?_, ?_, ?_, ?_, ?_, ?_, ?_, ?_, ?_, ?_, someOf (by decide +kernel)⟩ <;> decide +kernel⟩,
    ⟨wst 700, 15, 77, 9, job0, (hm (wst 700) 77).1, (hd (wst 700) 77).2, (hm (wst 700) 77).2.2.1,
      (hm (wst 700) 77).2.2.2, ((wst 700).view.muReads 9 job0 15 77).getD (wst 700).view, by refine ⟨?_, ?_, ?_, ?_, ?_, ?_, ?_, getSome (by decide +kernel)⟩ <;> decide +kernel⟩,
    ⟨pts 5 0 0 0 (1 + 4 * 2) {}, 15, 248, 15, 9, job0, (hd (pts 5 0 0 0 (1 + 4 * 2) {}) 200).1,
      (hd (pts 5 0 0 0 (1 + 4 * 2) {}) 200).2, hq (pts 5 0 0 0 (1 + 4 * 2) {}) 200,
      (hd (pts 5 0 0 0 (1 + 4 * 2) {}) 201).1, (hd (pts 5 0 0 0 (1 + 4 * 2) {}) 201).2,
      hq (pts 5 0 0 0 (1 + 4 * 2) {}) 201, by refine ⟨?_, ?_, ?_, ?_, ?_, ?_, ?_, ?_, ?_, ?_, ?_, ⟨someOf (by decide +kernel), rfl⟩, ?_, ?_, ?_, ⟨someOf (by decide +kernel), rfl⟩, ?_, ?_, ?_⟩ <;> decide +kernel⟩,
    ⟨ptm 3 (pts 5 3 7 0 1 {owed := [(2, 2), (5, 2)]}), 15, 248, 15, 9, 2, 1, job0, [(5, 2)],
      (hd (ptm 3 (pts 5 3 7 0 1 {owed := [(2, 2), (5, 2)]})) 203).1,
      (hd (ptm 3 (pts 5 3 7 0 1 {owed := [(2, 2), (5, 2)]})) 203).2,
      hq (ptm 3 (pts 5 3 7 0 1 {owed := [(2, 2), (5, 2)]})) 203, by refine ⟨?_, ?_, ?_, ?_, ?_, ?_, ?_, ?_, ?_, ?_, ⟨someOf (by decide +kernel), rfl⟩⟩ <;> decide +kernel⟩,
    ⟨vuq 401 (comb 0 [cm 0 true, cm 1 false, cm 2 true]), 15, 300, 9, job0, by decide +kernel⟩,
    ⟨ptm 3 (pts 5 3 7 0 (1 + 15 * 2) {}), 15, 248, 15, 9, job0, (hd (ptm 3 (pts 5 3 7 0 (1 + 15 * 2) {})) 200).1,
      (hd (ptm 3 (pts 5 3 7 0 (1 + 15 * 2) {})) 200).2, hq (ptm 3 (pts 5 3 7 0 (1 + 15 * 2) {})) 200, by refine ⟨?_, ?_, ?_, ?_, ?_, ?_, ?_, ?_, ?_, ?_, ?_, ⟨someOf (by decide +kernel), rfl⟩, ?_, ?_, ?_, ?_⟩ <;> decide +kernel⟩,
    ⟨vuq 201 (pts 5 0 0 0 (1 + 4 * 2) {}), 15, 248, 15, 9, job0, by decide +kernel⟩,
    ⟨comb 1 [cm 0 false, cm 1 false], 15, 300, 9, job0,
      (List.range 2).map fun k => hd (comb 1 [cm 0 false, cm 1 false]) (400 + k),
      (List.range 2).map fun k => hq (comb 1 [cm 0 false, cm 1 false]) (400 + k), by decide +kernel⟩,
    ⟨pts 5 3 7 0 (1 + 5 * 2) {counts := [0,0,0,0,2], epochPos := 5}, 15, 248, 15, 9, job0,
      (hd (pts 5 3 7 0 (1 + 5 * 2) {counts := [0,0,0,0,2], epochPos := 5}) 200).1,
      (hd (pts 5 3 7 0 (1 + 5 * 2) {counts := [0,0,0,0,2], epochPos := 5}) 200).2,
      hq (pts 5 3 7 0 (1 + 5 * 2) {counts := [0,0,0,0,2], epochPos := 5}) 200,
      (hd (pts 5 3 7 0 (1 + 5 * 2) {counts := [0,0,0,0,2], epochPos := 5}) 201).1,
      (hd (pts 5 3 7 0 (1 + 5 * 2) {counts := [0,0,0,0,2], epochPos := 5}) 201).2,
      hq (pts 5 3 7 0 (1 + 5 * 2) {counts := [0,0,0,0,2], epochPos := 5}) 201, by refine ⟨?_, ?_, ?_, ?_, ?_, ?_, ?_, ?_, ?_, ?_, ?_, ⟨someOf (by decide +kernel), rfl⟩, ?_, ?_, ?_, ⟨someOf (by decide +kernel), rfl⟩, ?_⟩ <;> decide +kernel⟩,
    ⟨ptm 3 (pts 5 3 7 0 (1 + 2 * 2) {counts := [0,0,1,0,2], epochPos := 6}), 15, 248, 15, 9, job0,
      (hd (ptm 3 (pts 5 3 7 0 (1 + 2 * 2) {counts := [0,0,1,0,2], epochPos := 6})) 200).1,
      (hd (ptm 3 (pts 5 3 7 0 (1 + 2 * 2) {counts := [0,0,1,0,2], epochPos := 6})) 200).2,
      hq (ptm 3 (pts 5 3 7 0 (1 + 2 * 2) {counts := [0,0,1,0,2], epochPos := 6})) 200,
      (hd (ptm 3 (pts 5 3 7 0 (1 + 2 * 2) {counts := [0,0,1,0,2], epochPos := 6})) 203).1,
      (hd (ptm 3 (pts 5 3 7 0 (1 + 2 * 2) {counts := [0,0,1,0,2], epochPos := 6})) 203).2,
      hq (ptm 3 (pts 5 3 7 0 (1 + 2 * 2) {counts := [0,0,1,0,2], epochPos := 6})) 203, by refine ⟨?_, ?_, ?_, ?_, ?_, ?_, ?_, ?_, ?_, ?_, ?_, ⟨someOf (by decide +kernel), rfl⟩, ?_, ?_, ?_, ?_, ?_, ?_, ⟨someOf (by decide +kernel), rfl⟩⟩ <;> decide +kernel⟩,
    ⟨ptm 1 (pts 5 0 0 0 1 {}), 15, 248, 15, 9, job0, (hd (ptm 1 (pts 5 0 0 0 1 {})) 200).1,
      (hd (ptm 1 (pts 5 0 0 0 1 {})) 200).2, hq (ptm 1 (pts 5 0 0 0 1 {})) 200,
      (hd (ptm 1 (pts 5 0 0 0 1 {})) 201).1, (hd (ptm 1 (pts 5 0 0 0 1 {})) 202).1,
      (hd (ptm 1 (pts 5 0 0 0 1 {})) 201).2, (hd (ptm 1 (pts 5 0 0 0 1 {})) 202).2,
      hq (ptm 1 (pts 5 0 0 0 1 {})) 201, hq (ptm 1 (pts 5 0 0 0 1 {})) 202, by refine ⟨?_, ?_, ?_, ?_, ?_, ?_, ?_, ?_, ?_, ?_, ?_, ⟨someOf (by decide +kernel), rfl⟩, ?_, ?_, ?_, ⟨someOf (by decide +kernel), rfl⟩, ⟨someOf (by decide +kernel), rfl⟩⟩ <;> decide +kernel⟩,
    ⟨vuq 77 (que 77 { msgs := [wq 700] } (qd 77 1 1 255 0 0 (s := run0))), 15, 77, 9, job0,
      (hm (vuq 77 (que 77 { msgs := [wq 700] } (qd 77 1 1 255 0 0 (s := run0)))) 77).1,
      (hd (vuq 77 (que 77 { msgs := [wq 700] } (qd 77 1 1 255 0 0 (s := run0)))) 77).2,
      (hm (vuq 77 (que 77 { msgs := [wq 700] } (qd 77 1 1 255 0 0 (s := run0)))) 77).2.2.1,
      (hm (vuq 77 (que 77 { msgs := [wq 700] } (qd 77 1 1 255 0 0 (s := run0)))) 77).2.2.2,
      ((vuq 77 (que 77 { msgs := [wq 700] } (qd 77 1 1 255 0 0 (s := run0)))).view.vuReads 9 15 77).getD (vuq 77 (que 77 { msgs := [wq 700] } (qd 77 1 1 255 0 0 (s := run0)))).view, by decide +kernel⟩,
    ⟨pts 5 3 7 0 (1 + 1 * 2) {owed := [(4, 1), (5, 2)]}, 15, 248, 15, 9, 4, 0, job0, [(5,2)], by decide +kernel⟩,
    ⟨que 4095 { head := 16, tail := 64, msgs := [m1] } (qd 4095 2 1 255 0 0 (s := run0)), 15, 4095, 9, job0,
      match (que 4095 { head := 16, tail := 64 } (qd 4095 2 1 255 0 0 (s := run0))).view.head 15 4095 with | .pass n => n | _ => 0, by decide +kernel⟩,
    ⟨que 300 { seq := 3, sum := some 2, comb := some 500 } (comb 0 [cm 0 true, cm 1 false, cm 2 true]), 15, 300, 9,
      job0,
      (List.range 3).map fun k => hd (que 300 { seq := 3, sum := some 2, comb := some 500 } (comb 0 [cm 0 true, cm 1 false, cm 2 true])) (400 + k),
      (List.range 3).map fun k => hq (que 300 { seq := 3, sum := some 2, comb := some 500 } (comb 0 [cm 0 true, cm 1 false, cm 2 true])) (400 + k),
      2, 500, by decide +kernel⟩,
    ⟨que 300 { seq := 3, sum := some 2, comb := some 501 } (comb 0 [cm 0 true, cm 1 false, cm 2 true]), 15, 300, 9,
      job0,
      (List.range 3).map fun k => hd (que 300 { seq := 3, sum := some 2, comb := some 501 } (comb 0 [cm 0 true, cm 1 false, cm 2 true])) (400 + k),
      (List.range 3).map fun k => hq (que 300 { seq := 3, sum := some 2, comb := some 501 } (comb 0 [cm 0 true, cm 1 false, cm 2 true])) (400 + k),
      2, 501, by decide +kernel⟩⟩

/-- States and operands that meet the hypotheses of `Obligations.StallWaveAndQuorum`. -/
theorem witness_StallWaveAndQuorum :
    (∃ (s : State) (h : Nat), s.Ready ∧ h < 4096 ∧ s.view.job h = none) ∧
    (∃ (s : State) (h : Nat) (j : Job), s.Ready ∧ h < 4096 ∧ s.view.job h = some j ∧ j.frozen = true ∧ j.outstanding =
      [] ∧ j.frozenAt + 64 * max 1 ((j.lastClear + s.view.lat j Config.waveRel - j.frozenAt + 63) / 64) ≤ s.view.now) ∧
    (∃ (s : State) (h : Nat) (j : Job), s.Ready ∧ h < 4096 ∧ s.view.job h = some j ∧ j.frozen = true ∧ j.outstanding =
      [] ∧ s.view.now < j.frozenAt + 64 * max 1 ((j.lastClear + s.view.lat j Config.waveRel - j.frozenAt + 63) / 64)) ∧
    (∃ (s : State) (h : Nat) (j : Job), s.Ready ∧ h < 4096 ∧ s.view.job h = some j ∧ 4096 ≤ j.quorum ∧ j.spills = [] ∧
      s.view.spillChain j = []) ∧
    (∃ (s : State) (h : Nat) (f : Nat) (j : Job), s.Ready ∧ h < 4096 ∧ s.view.job h = some j ∧ j.freezeAt = some f ∧
      j.frozen = false ∧ j.started = true ∧ f ≤ s.view.now) ∧
    (∃ (s : State) (h : Nat) (j : Job), s.Ready ∧ h < 4096 ∧ s.view.job h = some j ∧ 4096 ≤ j.quorum ∧ j.spills = [] ∧
      s.view.spillChain j ≠ [] ∧ (List.find?     (fun c =>       have d := s.view.qdesc c.fst c.snd;       (fun c =>
      spillNeed (s.view.spillable c.fst c.snd)) c != 0 && (!d.sEn || decide (d.sSize - (s.view.queue c.fst
      c.snd).sideUsed < (fun c => spillNeed (s.view.spillable c.fst c.snd)) c)))     (s.view.spillChain j) =   none)) ∧
    (∃ (s : State) (h : Nat) (j : Job) (c : Nat × Nat), s.Ready ∧ h < 4096 ∧ s.view.job h = some j ∧ 4096 ≤ j.quorum ∧
      j.spills = [] ∧ (List.find?     (fun c =>       have d := s.view.qdesc c.fst c.snd;       (fun c => spillNeed
      (s.view.spillable c.fst c.snd)) c != 0 && (!d.sEn || decide (d.sSize - (s.view.queue c.fst c.snd).sideUsed <
      (fun c => spillNeed (s.view.spillable c.fst c.snd)) c)))     (s.view.spillChain j) =   some c) ∧ j.phase =
      JobPhase.running ∧ j.fault = none) ∧
    (∃ (s : State) (st : Nat) (h : Nat) (j : Job) (r : LateResult), s.Ready ∧ st < 16 ∧ s.view.liveJob st = some (h,
      j) ∧ (List.find? (fun x => !x.raised && decide (x.due ≤ j.cyc)) (s.view.stn st).late = some r) ∧
      ((j.outstanding.any fun x => x.unit == r.unit && x.queue == 4096 + r.id) = false)) ∧
    (∃ (s : State) (h : Nat) (c : Nat) (j : Job) (x : Spill) (rest : List Spill), s.Ready ∧ h < 4096 ∧ x.queue < 65536
      ∧ s.view.job h = some j ∧ j.spills = x :: rest ∧ j.frozen = false ∧ x.done = some c ∧ c ≤ j.cyc ∧
      s.view.spillMoving x = false) ∧
    (∃ (s : State) (st : Nat) (h : Nat) (j : Job) (r : LateResult), s.Ready ∧ st < 16 ∧ s.view.liveJob st = some (h,
      j) ∧ (List.find? (fun x => !x.raised && decide (x.due ≤ j.cyc)) (s.view.stn st).late = none) ∧ (List.find? (fun
      x => x.raised && decide (x.act ≤ j.cyc)) (s.view.stn st).late = some r) ∧ ((j.outstanding.any fun x => x.unit ==
      r.unit && x.queue == 4096 + r.id) = true)) ∧
    (∃ (s : State) (h : Nat) (c : Nat) (j : Job) (x : Spill) (rest : List Spill), s.Ready ∧ h < 4096 ∧ x.queue < 65536
      ∧ s.view.job h = some j ∧ j.spills = x :: rest ∧ j.frozen = false ∧ x.done = some c ∧ (j.cyc < c ∨
      s.view.spillMoving x = true)) :=
  ⟨⟨run0, 8, by decide +kernel⟩,
    ⟨jf (fun _ => jz 936 930) run0, 9, jz 936 930, by decide +kernel⟩,
    ⟨jf (fun _ => jz 800 990) run0, 9, jz 800 990, by decide +kernel⟩,
    ⟨jf (fun j => {j with quorum := 4096}) run0, 9, {job0 with quorum := 4096}, by decide +kernel⟩,
    ⟨setR (Reg.waveCount 15) (2^64-1) (jf (fun _ => jfz) run0), 9, 1000, jfz, by decide +kernel⟩,
    ⟨qf 1 0 {job0 with quorum := 4096}, 9, {job0 with quorum := 4096}, by decide +kernel⟩,
    ⟨qf 0 0 {job0 with quorum := 4096}, 9, {job0 with quorum := 4096}, (15, 4095), by decide +kernel⟩,
    ⟨stf (fun x => {x with late := [lr]}) (jf (fun j => {j with stalls := [SR 3 4 (some 9)]}) run0), 15, 9,
      jb (fun j => {j with stalls := [SR 3 4 (some 9)]}), lr, by decide +kernel⟩,
    ⟨spS, 9, 500, jsp, ({ queue := 15*4096+4095, msgs := 1, done := some 500 } : Spill),
      [({ queue := 15 * 4096 + 7, msgs := 3 } : Spill)], by decide +kernel⟩,
    ⟨stf (fun x => {x with late := [{lr with raised := true}]}) (jf (fun j => {j with stalls := [SR (4096+7) 4 none], freezeAt := some 44}) run0),
      15, 9, jb (fun j => {j with stalls := [SR (4096+7) 4 none], freezeAt := some 44}), {lr with raised := true}, by decide +kernel⟩,
    ⟨jf (fun j => {j with spills := [{ queue := 15*4096+4095, msgs := 1, done := some 501 }]}) spS, 9, 501,
      jsp2 (fun j => {j with spills := [{ queue := 15*4096+4095, msgs := 1, done := some 501 }]}),
      ({ queue := 15*4096+4095, msgs := 1, done := some 501 } : Spill), ([] : List Spill), by decide +kernel⟩⟩

/-- States and operands that meet the hypotheses of `Obligations.SlabPorts`. -/
theorem witness_SlabPorts :
    (∃ (s : State) (st : Nat) (b : Nat) (v : Nat) (q : PortReq) (k : Nat) (x : W32), s.Ready ∧ st < 16 ∧ b < 256 ∧
      (s.view.portOf st b).seen ≠ some s.view.now ∧ (Option.any (fun r => r.fst == s.view.now) (s.view.stn
      st).scrubRead = false) ∧ (leastBy s.view.portKey (List.filter (fun r => !s.view.bankBusy st b r.addr)
      (List.filter s.view.reqStands (s.view.portOf st b).reqs)) = some q) ∧ q.user = PortUser.vuWrite v ∧ q.words =
      [(k, x)] ∧ k < 32) ∧
    (∃ (s : State) (st : Nat), s.Ready ∧ st < 16 ∧ (s.view.stn st).scrubOn = true ∧ s.view.consistRuns st = false ∧
      (s.view.stn st).scrubNext ≤ s.view.now ∧ 2 ≤ s.reg (Reg.stPwrStatus st) % 4 ∧ (s.view.stn st).scrubFix = [] ∧
      s.view.scrubMay st (bits (s.reg (Reg.scrubStatus st)) 14 2) = true) ∧
    (∃ (s : State) (st : Nat) (b : Nat), s.Ready ∧ st < 16 ∧ b < 256 ∧ (List.filter s.view.reqStands (s.view.portOf st
      b).reqs = [] ∨ (s.view.portOf st b).seen = some s.view.now)) ∧
    (∃ (s : State) (st : Nat) (b : Nat) (q : PortReq), s.Ready ∧ st < 16 ∧ b < 256 ∧ List.filter s.view.reqStands
      (s.view.portOf st b).reqs = [q] ∧ (s.view.portOf st b).seen ≠ some s.view.now ∧ (Option.any (fun r => r.fst ==
      s.view.now) (s.view.stn st).scrubRead = false) ∧ s.view.bankBusy st b q.addr = true) ∧
    (∃ (s : State) (st : Nat) (c : Nat) (l : Nat), s.Ready ∧ st < 16 ∧ (s.view.stn st).scrubOn = true ∧
      s.view.consistRuns st = false ∧ (s.view.stn st).scrubNext ≤ s.view.now ∧ 2 ≤ s.reg (Reg.stPwrStatus st) % 4 ∧
      (s.view.stn st).scrubFix ≠ [] ∧ (s.view.stn st).scrubRead = some (c, l) ∧ s.view.scrubMay st l = true) ∧
    (∃ (s : State) (st : Nat) (b : Nat) (h : Nat) (v : Nat) (j : Job) (q : PortReq) (n : Nat) (r : VuRun), s.Ready ∧
      st < 16 ∧ b < 256 ∧ (s.view.portOf st b).seen ≠ some s.view.now ∧ (Option.any (fun r => r.fst == s.view.now)
      (s.view.stn st).scrubRead = false) ∧ (leastBy s.view.portKey (List.filter (fun r => !s.view.bankBusy st b
      r.addr) (List.filter s.view.reqStands (s.view.portOf st b).reqs)) = some q) ∧ q.user = PortUser.vuRead v n ∧
      q.job = some h ∧ s.view.liveJob st = some (h, j) ∧ q.addr % 128 = 0 ∧ q.len = 128 ∧ s.dev.slabErr = [] ∧
      (s.view.vuOf st v).run = some r ∧ List.filter s.view.reqStands (s.view.portOf st b).reqs = [q] ∧ q.order ≠ 4) :=
  ⟨⟨port { reqs := [pq], cyc := some 998, bank := 3 } run0, 15, 255, 31, pq, 31, (0xAABBCCDD : W32), by decide +kernel⟩,
    ⟨scr 0, 15, by decide +kernel⟩,
    ⟨run0, 15, 255, by decide +kernel⟩,
    ⟨port { reqs := [pq], cyc := some 999, bank := bankOf false 0xBFF80 } run0, 15, 255, pq, by decide +kernel⟩,
    ⟨setD (fun d => { d with stn := [(15, { scrubOn := true, scrubNext := 1000, scrubFix := [7, 9], scrubRead := some (990, 6143) })], slabErr := [(5, 1), (7, 1), (9, 2)] }) (scr 3),
      15, 990, 6143, by decide +kernel⟩,
    ⟨vuS {run := some rr} ({ port { reqs := [pr], cyc := none, bank := 3 } run0 with mem := { run0.mem with slab := [(15*2^28+255*2^20+0xBFF80 + 31*4 + 2, 5)] } }),
      15, 255, 9, 31, job0, pr, 4, rr, by decide +kernel⟩⟩

/-- States and operands that meet the hypotheses of `Obligations.MarshallingEngines`. -/
theorem witness_MarshallingEngines :
    (∃ (s : State) (st : Nat) (e : Nat) (h : Nat) (j : Job) (m : UnitMsg), s.Ready ∧ st < 16 ∧ e < 8 ∧ s.view.liveJob
      st = some (h, j) ∧ (s.view.engine st e).halted = false ∧ (s.view.engine st e).busy = false ∧ (∀ (p : Prev),
      (s.view.stn st).prev = some p → ∀ (y : UnitMsg), y ∈ p.sb.starts → y.kind ≠ 2 ∨ y.unit ≠ e) ∧ (List.find? (fun m
      => m.kind == 2 && m.unit == e && decide (m.due ≤ j.cyc)) (s.view.sb st).starts = some m)) ∧
    (∃ (s : State) (st : Nat) (e : Nat) (h : Nat) (j : Job) (ds : EngDesc), s.Ready ∧ st < 16 ∧ e < 8 ∧ s.view.liveJob
      st = some (h, j) ∧ (s.view.engine st e).halted = false ∧ (s.view.engine st e).busy = true ∧ (s.view.engine st
      e).job = h ∧ (s.view.engine st e).descs.getLast? = some ds ∧ ds.issued = false ∧ (s.view.engine st e).next ≤
      j.cyc ∧ (∀ (z : Nat × Piece), z ∈ (s.view.engine st e).pieces → z.snd.stage ≠ 1) ∧ (s.view.xferDesc st
      ds).srcKind ≠ 2 ∧ s.view.engBadAddr st (s.view.xferDesc st ds) (s.view.engine st e).row (s.view.engine st e).off
      ((s.view.xferDesc st ds).pieceLen (s.view.engine st e).row (s.view.engine st e).off) = none ∧ ((s.view.xferDesc
      st ds).dstKind = 3 → ∀ (z : Nat × Piece), z ∈ (s.view.engine st e).pieces → z.snd.run ≠ ds.id) ∧ ((¬∀ (l :
      SrcLine), l ∈ (s.view.engine st e).lines ∨ (s.view.engine st e).prevLine = some l ∧ (s.view.engine st e).count =
      0 ∧ (s.view.xferDesc st ds).merge = true → l.kind ≠ (s.view.xferDesc st ds).srcKind ∨ l.line ≠ (s.view.xferDesc
      st ds).srcAt (s.view.engine st e).row (s.view.engine st e).off / 128 * 128) ∨ (s.view.engRead h j st e
      (s.view.xferDesc st ds) ((s.view.xferDesc st ds).srcAt (s.view.engine st e).row (s.view.engine st
      e).off)).isSome = true) ∧ (∀ (l : SrcLine), l ∈ (s.view.engine st e).lines ∨ (s.view.engine st e).prevLine =
      some l ∧ (s.view.engine st e).count = 0 ∧ (s.view.xferDesc st ds).merge = true → l.kind ≠ (s.view.xferDesc st
      ds).srcKind ∨ l.line ≠ (s.view.xferDesc st ds).srcAt (s.view.engine st e).row (s.view.engine st e).off / 128 *
      128) ∧ (s.view.xferDesc st ds).srcKind = 1 ∧ List.length s.dev.host.reads < 768) ∧
    (∃ (s : State) (tag : Nat) (st : Nat) (e : Nat) (p : Nat) (h : Nat) (y : Piece) (ds : EngDesc) (c : Instr),
      s.Ready ∧ ffind s.dev.host.reads tag = some (st, e, p) ∧ st < 16 ∧ e < 8 ∧ (s.view.stn st).job = some h ∧
      (s.view.engine st e).busy = true ∧ (s.view.engine st e).job = h ∧ (s.view.engine st e).halted = false ∧ ffind
      (s.view.engine st e).pieces p = some y ∧ (List.find? (fun d => d.id == y.run) (s.view.engine st e).descs = some
      ds) ∧ bit (s.reg (Reg.meErr st e)) 31 = false ∧ (c = Instr.hostReadCompletion tag none ∨ c =
      Instr.completionTimeout tag)) ∧
    (∃ (s : State) (tag : Nat) (st : Nat) (e : Nat) (p : Nat) (h : Nat) (y : Piece) (b : Bytes), s.Ready ∧ ffind
      s.dev.host.reads tag = some (st, e, p) ∧ st < 16 ∧ e < 8 ∧ (s.view.stn st).job = some h ∧ (s.view.engine st
      e).busy = true ∧ (s.view.engine st e).job = h ∧ (s.view.engine st e).halted = false ∧ ffind (s.view.engine st
      e).pieces p = some y ∧ List.length b = 128) ∧
    (∃ (s : State) (st : Nat) (e : Nat) (h : Nat) (j : Job) (ds : EngDesc) (rest : List EngDesc), s.Ready ∧ st < 16 ∧
      e < 8 ∧ s.view.liveJob st = some (h, j) ∧ (s.view.engine st e).halted = false ∧ (s.view.engine st e).busy = true
      ∧ (s.view.engine st e).job = h ∧ (s.view.engine st e).descs = ds :: rest ∧ ds.issued = true ∧ ds.cut = none ∧ (∀
      (z : Nat × Piece), z ∈ (s.view.engine st e).pieces → z.snd.stage = 3) ∧ (∀ (z : Nat × Piece), z ∈ (s.view.engine
      st e).pieces → z.snd.run = ds.id → z.snd.due ≤ if z.snd.arc = true then s.view.now else j.cyc)) ∧
    (∃ (s : State) (st : Nat) (e : Nat) (h : Nat) (j : Job) (ds : EngDesc), s.Ready ∧ st < 16 ∧ e < 8 ∧ s.view.liveJob
      st = some (h, j) ∧ (s.view.engine st e).halted = false ∧ (s.view.engine st e).busy = true ∧ (s.view.engine st
      e).job = h ∧ (s.view.engine st e).descs.getLast? = some ds ∧ ds.issued = false ∧ (s.view.engine st e).next ≤
      j.cyc ∧ (∀ (z : Nat × Piece), z ∈ (s.view.engine st e).pieces → z.snd.stage ≠ 1) ∧ (s.view.xferDesc st
      ds).srcKind ≠ 2 ∧ s.view.engBadAddr st (s.view.xferDesc st ds) (s.view.engine st e).row (s.view.engine st e).off
      ((s.view.xferDesc st ds).pieceLen (s.view.engine st e).row (s.view.engine st e).off) = none ∧ ((s.view.xferDesc
      st ds).dstKind = 3 → ∀ (z : Nat × Piece), z ∈ (s.view.engine st e).pieces → z.snd.run ≠ ds.id) ∧ (∀ (l :
      SrcLine), l ∈ (s.view.engine st e).lines ∨ (s.view.engine st e).prevLine = some l ∧ (s.view.engine st e).count =
      0 ∧ (s.view.xferDesc st ds).merge = true → l.kind ≠ (s.view.xferDesc st ds).srcKind ∨ l.line ≠ (s.view.xferDesc
      st ds).srcAt (s.view.engine st e).row (s.view.engine st e).off / 128 * 128) ∧ (s.view.xferDesc st ds).srcKind =
      1 ∧ 768 ≤ List.length s.dev.host.reads) ∧
    (∃ (s : State) (st : Nat) (tag : Nat) (f : RlsFill) (data : Bytes), s.Ready ∧ st < 16 ∧ ffind s.dev.fills (st *
      65536 + tag) = some f ∧ f.data = some data) ∧
    (∃ (s : State) (st : Nat) (e : Nat) (h : Nat) (j : Job) (ds : EngDesc) (way : Way), s.Ready ∧ st < 16 ∧ e < 8 ∧
      s.view.liveJob st = some (h, j) ∧ (s.view.engine st e).halted = false ∧ (s.view.engine st e).busy = true ∧
      (s.view.engine st e).job = h ∧ (s.view.engine st e).descs.getLast? = some ds ∧ ds.issued = false ∧
      (s.view.engine st e).next ≤ j.cyc ∧ (∀ (z : Nat × Piece), z ∈ (s.view.engine st e).pieces → z.snd.stage ≠ 1) ∧
      (s.view.xferDesc st ds).srcKind ≠ 2 ∧ s.view.engBadAddr st (s.view.xferDesc st ds) (s.view.engine st e).row
      (s.view.engine st e).off ((s.view.xferDesc st ds).pieceLen (s.view.engine st e).row (s.view.engine st e).off) =
      none ∧ ((s.view.xferDesc st ds).dstKind = 3 → ∀ (z : Nat × Piece), z ∈ (s.view.engine st e).pieces → z.snd.run ≠
      ds.id) ∧ (∀ (l : SrcLine), l ∈ (s.view.engine st e).lines ∨ (s.view.engine st e).prevLine = some l ∧
      (s.view.engine st e).count = 0 ∧ (s.view.xferDesc st ds).merge = true → l.kind ≠ (s.view.xferDesc st ds).srcKind
      ∨ l.line ≠ (s.view.xferDesc st ds).srcAt (s.view.engine st e).row (s.view.engine st e).off / 128 * 128) ∧
      (s.view.xferDesc st ds).srcKind = 0 ∧ gaDevice ((s.view.xferDesc st ds).srcAt (s.view.engine st e).row
      (s.view.engine st e).off) = s.view.deviceId ∧ gaSpace ((s.view.xferDesc st ds).srcAt (s.view.engine st e).row
      (s.view.engine st e).off) = 0 ∧ s.view.wayBack j st ((s.view.xferDesc st ds).srcAt (s.view.engine st e).row
      (s.view.engine st e).off / 128 * 128) s.view.now ≠ none ∧ s.view.wayTo j st ((s.view.xferDesc st ds).srcAt
      (s.view.engine st e).row (s.view.engine st e).off / 128 * 128) s.view.now = some way) ∧
    (∃ (s : State) (st : Nat) (e : Nat) (h : Nat) (j : Job) (ds : EngDesc) (p : Nat) (y : Piece), s.Ready ∧ st < 16 ∧
      e < 8 ∧ s.view.liveJob st = some (h, j) ∧ (s.view.engine st e).halted = false ∧ (s.view.engine st e).busy = true
      ∧ (s.view.engine st e).job = h ∧ (s.view.engine st e).descs = [ds] ∧ ds.issued = true ∧ ds.cut = none ∧
      (s.view.engine st e).pieces = [(p, y)] ∧ ds.id = y.run ∧ y.stage = 1 ∧ (s.view.xferDesc st ds).dstKind = 0 ∧
      gaDevice y.dst = s.view.deviceId ∧ gaSpace y.dst = 0 ∧ (s.view.xferDesc st ds).nextPos y.row (y.off + y.len) =
      none ∧ (s.view.xferDesc st ds).dstAt y.row y.off = y.dst ∧ (s.view.xferDesc st ds).pieceLen y.row y.off = y.len
      ∧ (s.view.wayTo j st y.dst (s.view.now + (y.due - if y.arc = true then s.view.now else j.cyc)) ≠ none)) :=
  ⟨⟨box (fun b => {b with starts := [me]}) (eng e0 (xd 511 (2 * 128) 5 6 7 8 9 10 run0)), 15, 7, 9, job0, me, by decide +kernel⟩,
    ⟨eng e1 (xd 511 (1 + 3*2^10) 300 3 0x1000 0x2000 SRC (ga 0 0 77) run0), 15, 7, 9, job0, dsc, by refine ⟨?_, ?_, ?_, ?_, ?_, ?_, ?_, ?_, ?_, ?_, ?_, ?_, ?_, ?_, .inr (by decide +kernel), allLines (by decide +kernel), ?_, ?_⟩ <;> decide +kernel⟩,
    ⟨reads (eng e3 (xd 511 1 300 3 0x1000 0x2000 SRC (ga 0 0 77) run0)), 5, 15, 7, 9, 9, ph, dsi,
      Instr.completionTimeout 5, by decide +kernel⟩,
    ⟨reads (eng e3 (xd 511 1 300 3 0x1000 0x2000 SRC (ga 0 0 77) run0)), 5, 15, 7, 9, 9, ph, bb, by decide +kernel⟩,
    ⟨eng (e2 pc) (xd 511 (2^9) 300 3 0x1000 0x2000 SRC (ga 0 0 77) run0), 15, 7, 9, job0, dsi, ([] : List EngDesc), by decide +kernel⟩,
    ⟨manyReads (eng e1 (xd 511 (1 + 3*2^10) 300 3 0x1000 0x2000 SRC (ga 0 0 77) run0)), 15, 7, 9, job0, dsc, by refine ⟨?_, ?_, ?_, ?_, ?_, ?_, ?_, ?_, ?_, ?_, ?_, ?_, ?_, ?_, allLines (by decide +kernel), ?_, ?_⟩ <;> decide +kernel⟩,
    ⟨setD (fun d => { d with fills := [(15*65536+65535, fl1)], rlsUse := 8, rls := [(15*256+254, [{}])] }) run0, 15,
      65535, fl1, bb, by decide +kernel⟩,
    ⟨eng e1 (xd 511 (3*2^10) 300 3 0x1000 0x2000 SRC (ga 0 0 77) run0), 15, 7, 9, job0, dsc,
      ((eng e1 (xd 511 (3*2^10) 300 3 0x1000 0x2000 SRC (ga 0 0 77) run0)).view.wayTo job0 15 ((((eng e1 (xd 511 (3*2^10) 300 3 0x1000 0x2000 SRC (ga 0 0 77) run0)).view.xferDesc 15 dsc).srcAt ((eng e1 (xd 511 (3*2^10) 300 3 0x1000 0x2000 SRC (ga 0 0 77) run0)).view.engine 15 7).row ((eng e1 (xd 511 (3*2^10) 300 3 0x1000 0x2000 SRC (ga 0 0 77) run0)).view.engine 15 7).off) / 128 * 128) (eng e1 (xd 511 (3*2^10) 300 3 0x1000 0x2000 SRC (ga 0 0 77) run0)).view.now).getD default, by refine ⟨?_, ?_, ?_, ?_, ?_, ?_, ?_, ?_, ?_, ?_, ?_, ?_, ?_, ?_, allLines (by decide +kernel), ?_, ?_, ?_, ?_, ?_⟩ <;> decide +kernel⟩,
    ⟨setR (Reg.meBytes 15 7) (2^64-3) (eng (e2 py) (xd 511 0 300 3 0x1000 0x2000 (SRC + 84) (ga 0 0 (2^32 + 4096*8 - 172)) run0)),
      15, 7, 9, job0, dsi, 8, py, by decide +kernel⟩⟩

/-- States and operands that meet the hypotheses of `Obligations.Ports`. -/
theorem witness_Ports :
    (∃ (s : State) (p : Nat), s.Ready ∧ p < 8 ∧ (∀ (r : Nat), (s.view.ep p).ring = some r → r < 16) ∧ s.view.portState
      p ≠ psTraining ∧ s.view.portState p ≠ psIdent ∧ (s.view.linkUp p = false ∨ (s.view.ep p).replay = [] ∨
      s.view.now < (s.view.ep p).lastAck + 19000) ∧ s.view.portState p = psRetrain ∧ 2 ≤ (s.view.ep p).attempts ∧
      (s.view.portClosing p = false ∨ s.view.portHolds p ≠ 0 ∨ s.view.sending p = true)) ∧
    (∃ (s : State) (p : Nat), s.Ready ∧ p < 8 ∧ (∀ (r : Nat), (s.view.ep p).ring = some r → r < 16) ∧ s.view.portState
      p = psTraining ∧ (s.view.portState p = psTraining ∨ s.view.portState p = psIdent)) ∧
    (∃ (s : State) (r : Nat) (c : Cmd), s.Ready ∧ r < 16 ∧ s.Serves r 129 c ∧ (c.p 0 % 8 ≤ 5 ∧ bits (c.p 0) 5 4 ≤ 2 ∧
      s.view.fabricSet = true) ∧ (bits (c.p 0) 5 4 = 0 ∨ 768 ≤ s.view.version ∧ List.find? (fun x => bit x.snd.ports
      (c.p 0 % 8)) s.dev.consists = none) ∧ s.view.portConflict (c.p 0 % 8) = none ∧ bits (c.p 0) 5 4 ≠ 0 ∧
      (s.view.portState ((if bits (c.p 0) 5 4 = 0 then s.view else s.view.substitute (c.p 0 % 8) (bits (c.p 0) 5 4 -
      1)).physPort (c.p 0 % 8)) = psClosed ∨ s.view.portState ((if bits (c.p 0) 5 4 = 0 then s.view else
      s.view.substitute (c.p 0 % 8) (bits (c.p 0) 5 4 - 1)).physPort (c.p 0 % 8)) = psFailed) ∧ ((if bits (c.p 0) 5 4
      = 0 then s.view else s.view.substitute (c.p 0 % 8) (bits (c.p 0) 5 4 - 1)).portDir ((if bits (c.p 0) 5 4 = 0
      then s.view else s.view.substitute (c.p 0 % 8) (bits (c.p 0) 5 4 - 1)).physPort (c.p 0 % 8)) ≤ 5) ∧ (1 < (if
      bits (c.p 0) 5 4 = 0 then s.view else s.view.substitute (c.p 0 % 8) (bits (c.p 0) 5 4 - 1)).ringSize ((if bits
      (c.p 0) 5 4 = 0 then s.view else s.view.substitute (c.p 0 % 8) (bits (c.p 0) 5 4 - 1)).portDir ((if bits (c.p 0)
      5 4 = 0 then s.view else s.view.substitute (c.p 0 % 8) (bits (c.p 0) 5 4 - 1)).physPort (c.p 0 % 8)) / 2))) ∧
    (∃ (s : State) (r : Nat) (c : Cmd), s.Ready ∧ r < 16 ∧ s.Serves r 129 c ∧ (¬(c.p 0 % 8 ≤ 5 ∧ bits (c.p 0) 5 4 ≤ 2
      ∧ s.view.fabricSet = true))) ∧
    (∃ (s : State) (r : Nat) (c : Cmd), s.Ready ∧ r < 16 ∧ s.Serves r 128 c ∧ c.p 0 % 8 ≤ 5 ∧ s.view.portConflict (c.p
      0 % 8) = none ∧ s.view.portState (s.view.physPort (c.p 0 % 8)) = psClosed) ∧
    (∃ (s : State) (r : Nat) (c : Cmd), s.Ready ∧ r < 16 ∧ s.Serves r 128 c ∧ c.p 0 % 8 ≤ 5 ∧ s.view.portConflict (c.p
      0 % 8) = none ∧ s.view.portState (s.view.physPort (c.p 0 % 8)) ≠ psClosed ∧ s.view.portState (s.view.physPort
      (c.p 0 % 8)) ≠ psFailed) ∧
    (∃ (s : State) (r : Nat) (c : Cmd), s.Ready ∧ r < 16 ∧ s.Serves r 128 c ∧ 5 < c.p 0 % 8) ∧
    (∃ (s : State) (r : Nat) (c : Cmd), s.Ready ∧ r < 16 ∧ s.Serves r 129 c ∧ (c.p 0 % 8 ≤ 5 ∧ bits (c.p 0) 5 4 ≤ 2 ∧
      s.view.fabricSet = true) ∧ (bits (c.p 0) 5 4 = 0 ∨ 768 ≤ s.view.version ∧ List.find? (fun x => bit x.snd.ports
      (c.p 0 % 8)) s.dev.consists = none) ∧ s.view.portConflict (c.p 0 % 8) = none ∧ (s.view.portState ((if bits (c.p
      0) 5 4 = 0 then s.view else s.view.substitute (c.p 0 % 8) (bits (c.p 0) 5 4 - 1)).physPort (c.p 0 % 8)) ≠
      psClosed ∧ s.view.portState ((if bits (c.p 0) 5 4 = 0 then s.view else s.view.substitute (c.p 0 % 8) (bits (c.p
      0) 5 4 - 1)).physPort (c.p 0 % 8)) ≠ psFailed ∨ 5 < (if bits (c.p 0) 5 4 = 0 then s.view else s.view.substitute
      (c.p 0 % 8) (bits (c.p 0) 5 4 - 1)).portDir ((if bits (c.p 0) 5 4 = 0 then s.view else s.view.substitute (c.p 0
      % 8) (bits (c.p 0) 5 4 - 1)).physPort (c.p 0 % 8)) ∨ (if bits (c.p 0) 5 4 = 0 then s.view else s.view.substitute
      (c.p 0 % 8) (bits (c.p 0) 5 4 - 1)).ringSize ((if bits (c.p 0) 5 4 = 0 then s.view else s.view.substitute (c.p 0
      % 8) (bits (c.p 0) 5 4 - 1)).portDir ((if bits (c.p 0) 5 4 = 0 then s.view else s.view.substitute (c.p 0 % 8)
      (bits (c.p 0) 5 4 - 1)).physPort (c.p 0 % 8)) / 2) ≤ 1)) ∧
    (∃ (s : State) (p : Nat), s.Ready ∧ p < 8 ∧ (∀ (r : Nat), (s.view.ep p).ring = some r → r < 16) ∧ s.view.portState
      p = psIdent ∧ s.view.portClosing p = false) ∧
    (∃ (s : State) (p : Nat), s.Ready ∧ p < 8 ∧ (∀ (r : Nat), (s.view.ep p).ring = some r → r < 16) ∧ s.view.portState
      p = psRetrain ∧ (s.view.ep p).attempts < 2) ∧
    (∃ (s : State) (r : Nat) (c : Cmd), s.Ready ∧ r < 16 ∧ s.Serves r 129 c ∧ (c.p 0 % 8 ≤ 5 ∧ bits (c.p 0) 5 4 ≤ 2 ∧
      s.view.fabricSet = true) ∧ bits (c.p 0) 5 4 ≠ 0 ∧ s.view.version < 768) ∧
    (∃ (s : State) (r : Nat) (c : Cmd), s.Ready ∧ r < 16 ∧ s.Serves r 128 c ∧ c.p 0 % 8 ≤ 5 ∧ s.view.portConflict (c.p
      0 % 8) = none ∧ s.view.portState (s.view.physPort (c.p 0 % 8)) = psFailed) ∧
    (∃ (s : State) (r : Nat) (c : Cmd) (x : Nat × Consist), s.Ready ∧ r < 16 ∧ s.Serves r 129 c ∧ (c.p 0 % 8 ≤ 5 ∧
      bits (c.p 0) 5 4 ≤ 2 ∧ s.view.fabricSet = true) ∧ bits (c.p 0) 5 4 ≠ 0 ∧ 768 ≤ s.view.version ∧
      s.view.portConflict (c.p 0 % 8) = none ∧ (List.find? (fun x => bit x.snd.ports (c.p 0 % 8)) s.dev.consists =
      some x)) ∧
    (∃ (s : State) (r : Nat) (c : Cmd) (d : Nat), s.Ready ∧ r < 16 ∧ s.Serves r 129 c ∧ (c.p 0 % 8 ≤ 5 ∧ bits (c.p 0)
      5 4 ≤ 2 ∧ s.view.fabricSet = true) ∧ (bits (c.p 0) 5 4 = 0 ∨ 768 ≤ s.view.version) ∧ s.view.portConflict (c.p 0
      % 8) = some d) ∧
    (∃ (s : State) (p : Nat) (c : Instr), s.Ready ∧ p < 8 ∧ (∀ (r : Nat), (s.view.ep p).ring = some r → r < 16) ∧
      s.view.linkUp p = true ∧ (c = Instr.laneLockLoss p ∨ c = Instr.ackTimeout p ∧ (s.view.ep p).replay ≠ [] ∧
      (s.view.ep p).lastAck + 19000 ≤ s.view.now)) ∧
    (∃ (s : State) (p : Nat), s.Ready ∧ p < 8 ∧ (∀ (r : Nat), (s.view.ep p).ring = some r → r < 16) ∧
      s.view.portClosing p = true ∧ s.view.portHolds p = 0 ∧ s.view.sending p = false) ∧
    (∃ (s : State) (r : Nat) (c : Cmd) (d : Nat), s.Ready ∧ r < 16 ∧ s.Serves r 128 c ∧ c.p 0 % 8 ≤ 5 ∧
      s.view.portConflict (c.p 0 % 8) = some d) :=
  ⟨⟨setD (fun d => {d with maint := [{code := 5, target := 3}]}) (fab 4 3 (epp 3 {attempts := 2} fw)), 3, by decide +kernel⟩,
    ⟨fab 1 5 fw, 5, by decide +kernel⟩,
    ⟨serve 15 0x81 [3 + 32] (fab 0 7 fw), 15, cmdOf 0x81 [3 + 32], by decide +kernel⟩,
    ⟨serve 15 0x81 [6] (fab 0 3 fw), 15, cmdOf 0x81 [6], by decide +kernel⟩,
    ⟨serve 15 0x80 [5, 0] (fab 0 5 fw), 15, cmdOf 0x80 [5, 0], by decide +kernel⟩,
    ⟨serve 15 0x80 [5, 0] (fab 3 5 fw), 15, cmdOf 0x80 [5, 0], by decide +kernel⟩,
    ⟨serve 15 0x80 [6, 0] (fab 0 5 fw), 15, cmdOf 0x80 [6, 0], by decide +kernel⟩,
    ⟨serve 15 0x81 [3] (fab 3 3 (epp 3 {attempts := 3} fw)), 15, cmdOf 0x81 [3], by decide +kernel⟩,
    ⟨fab 2 7 fw, 7, by decide +kernel⟩,
    ⟨setD (fun d => {d with maint := [{code := 5, target := 3}]}) (fab 4 3 (epp 3 {attempts := 1} fw)), 3, by decide +kernel⟩,
    ⟨serve 15 0x81 [3 + 16] (setR Reg.coIfVersion 0x2FF (fab 0 3 fw)), 15, cmdOf 0x81 [3 + 16], by decide +kernel⟩,
    ⟨serve 15 0x80 [5, 0] (setR (Reg.portPeer 5) (2^63 + 5) (fab 6 5 fw)), 15, cmdOf 0x80 [5, 0], by decide +kernel⟩,
    ⟨serve 15 0x81 [3 + 32] (con 5 { ports := 8 } (fab 0 3 fw)), 15, cmdOf 0x81 [3 + 32], (5, { ports := 8 }), by decide +kernel⟩,
    ⟨serve 15 0x81 [3] (fab 0 3 (epp 3 {ring := some 4} fw)), 15, cmdOf 0x81 [3],
      ((serve 15 0x81 [3] (fab 0 3 (epp 3 {ring := some 4} fw))).view.portConflict 3).getD 0, by decide +kernel⟩,
    ⟨fab 3 3 (epp 3 {replay := [(1, [], 3)], attempts := 2} (clkOf (fun c => {c with arclk := 19000}) fw)), 3,
      Instr.ackTimeout 3, by decide +kernel⟩,
    ⟨bg 0x80 [3, 0] (fab 4 3 (epp 3 {ring := some 15, drainEnd := some 2000, attempts := 2} fw)), 3, by decide +kernel⟩,
    ⟨serve 15 0x80 [5, 0] (setD (fun d => { d with maint := [{code := 5, target := 5}] }) (fab 0 5 fw)), 15,
      cmdOf 0x80 [5, 0],
      ((serve 15 0x80 [5, 0] (setD (fun d => { d with maint := [{code := 5, target := 5}] }) (fab 0 5 fw))).view.portConflict 5).getD 0, by decide +kernel⟩⟩

/-- States and operands that meet the hypotheses of `Obligations.FlitsAndTransit`. -/
theorem witness_FlitsAndTransit :
    (∃ (s : State) (p : Nat) (f : Bytes) (fec : Option Nat), s.Ready ∧ p < 8 ∧ List.length f = 512 ∧ s.view.linkUp p =
      true ∧ fec.isSome = true ∧ flitOk f = true ∧ 1 ≤ (FlitHdr.decode f).ftype ∧ (FlitHdr.decode f).ftype ≤ 4 ∧
      (FlitHdr.decode f).seq ≠ (s.view.ep p).rxNext ∧ (((s.view.ep p).rxSome || (s.view.ep p).owe.any fun x => x != 0)
      = false ∨ s.view.now < (s.view.ep p).ackFrom + 190)) ∧
    (∃ (s : State) (p : Nat) (f : Bytes) (fec : Option Nat), s.Ready ∧ p < 8 ∧ List.length f = 512 ∧ s.view.linkUp p =
      true ∧ (fec = none ∨ flitOk f = false) ∧ (((s.view.ep p).rxSome || (s.view.ep p).owe.any fun x => x != 0) =
      true) ∧ (s.view.ep p).ackFrom + 190 ≤ s.view.now) ∧
    (∃ (s : State) (id : Nat) (k : Packet) (p : Nat) (vc : Nat), s.Ready ∧ ffind s.dev.pkts id = some k ∧
      s.view.pktReady id k = true ∧ s.view.outPort k = some (p, vc) ∧ p < 8 ∧ s.view.portState p = psRetrain ∧
      (s.view.portClosing p = false ∨ k.sent ≠ 0)) ∧
    (∃ (s : State) (id : Nat) (k : Packet), s.Ready ∧ ffind s.dev.pkts id = some k ∧ s.view.pktReady id k = false) ∧
    (∃ (s : State) (p : Nat) (f : Bytes) (fec : Option Nat), s.Ready ∧ p < 8 ∧ List.length f = 512 ∧ s.view.linkUp p =
      true ∧ fec.isSome = true ∧ flitOk f = true ∧ 1 ≤ (FlitHdr.decode f).ftype ∧ (FlitHdr.decode f).ftype ≤ 4 ∧
      (FlitHdr.decode f).seq = (s.view.ep p).rxNext) ∧
    (∃ (s : State) (p : Nat), s.Ready ∧ p < 8 ∧ s.view.linkUp p = true) ∧
    (∃ (s : State) (id : Nat) (k : Packet) (p : Nat) (vc : Nat), s.Ready ∧ ffind s.dev.pkts id = some k ∧
      s.view.pktReady id k = true ∧ s.view.outPort k = some (p, vc) ∧ p < 8 ∧ (¬(s.view.portState p = psUp ∨
      s.view.portState p = psDraining ∧ k.sent ≠ 0)) ∧ (s.view.portState p ≠ psRetrain ∨ s.view.portClosing p = true ∧
      k.sent = 0)) ∧
    (∃ (s : State) (id : Nat) (k : Packet) (p : Nat) (vc : Nat), s.Ready ∧ ffind s.dev.pkts id = some k ∧
      s.view.pktReady id k = true ∧ s.view.outPort k = some (p, vc) ∧ p < 8 ∧ (s.view.portState p = psUp ∨
      s.view.portState p = psDraining ∧ k.sent ≠ 0) ∧ (¬((k.op = opWait ∨ k.op = opCombine) ∧ s.view.portVersion p =
      1)) ∧ (s.view.flitGoes id k p vc && s.view.inputTurn p == some k.input) = true) ∧
    (∃ (s : State) (p : Nat) (f : Bytes) (fec : Option Nat), s.Ready ∧ p < 8 ∧ List.length f = 512 ∧ s.view.linkUp p =
      true ∧ fec.isSome = true ∧ flitOk f = true ∧ ((FlitHdr.decode f).ftype = 0 ∨ (FlitHdr.decode f).ftype = 5)) ∧
    (∃ (s : State) (id : Nat) (k : Packet) (p : Nat) (vc : Nat), s.Ready ∧ ffind s.dev.pkts id = some k ∧
      s.view.pktReady id k = true ∧ s.view.outPort k = some (p, vc) ∧ p < 8 ∧ (s.view.portState p = psUp ∨
      s.view.portState p = psDraining ∧ k.sent ≠ 0) ∧ (¬((k.op = opWait ∨ k.op = opCombine) ∧ s.view.portVersion p =
      1)) ∧ (s.view.flitGoes id k p vc && s.view.inputTurn p == some k.input) = false) ∧
    (∃ (s : State) (id : Nat) (k : Packet) (p : Nat) (vc : Nat), s.Ready ∧ ffind s.dev.pkts id = some k ∧
      s.view.pktReady id k = true ∧ s.view.outPort k = some (p, vc) ∧ p < 8 ∧ (s.view.portState p = psUp ∨
      s.view.portState p = psDraining ∧ k.sent ≠ 0) ∧ ((k.op = opWait ∨ k.op = opCombine) ∧ s.view.portVersion p = 1)) ∧
    (∃ (s : State) (id : Nat) (k : Packet), s.Ready ∧ ffind s.dev.pkts id = some k ∧ s.view.pktReady id k = true ∧
      s.view.nextLink k = none) :=
  ⟨⟨fab 3 5 (epp 5 {rxNext := 1, unacked := 0} fw), 5, fl5 3 0 (some 5) 5 pb, some 3, by decide +kernel⟩,
    ⟨fab 3 5 (epp 5 {rxNext := 4095, rxSome := true, owe := [300, 2, 3, 4]} fw), 5, fl5 4 4095 none 9 pb, none, by decide +kernel⟩,
    ⟨fab 4 0 (setR Reg.ilStatus 1 (pks [(8, pk)] fw)), 8, pk, 0, 1, by decide +kernel⟩,
    ⟨fab 3 0 (setR Reg.ilStatus 1 (pks [(8, pk), (9, pk)] fw)), 9, pk, by decide +kernel⟩,
    ⟨fab 3 5 (epp 5 {rxNext := 4095, unacked := 31} fw), 5, fl5 1 4095 none (2+3*64) pb, some 0, by decide +kernel⟩,
    ⟨setR (Reg.portReplays 3) (2^48-1) (fab 5 3 (epp 3 {replay := [(4095, [1,2], 6)]} fw)), 3, by decide +kernel⟩,
    ⟨fab 4 0 (epp 0 {drainEnd := some 5} (setR Reg.ilStatus 1 (pks [(8, pk)] fw))), 8, pk, 0, 1, by decide +kernel⟩,
    ⟨fab 3 0 (epp 0 {txNext := 4095, credits := [2, 1, 1, 0], replay := [(7, [], 3)]} (setR Reg.ilStatus 1 (pks [(8, pkL)] fw))),
      8, pkL, 0, 1, by decide +kernel⟩,
    ⟨fab 3 5 (epp 5 {rxNext := 7, unacked := 3, replay := [(4, [1], 1), (5, [2], 2), (6, [3], 1)], credits := [1, 2, 3, 4]} fw),
      5, fl5 5 9 (some 5) 5 [], some 2, by decide +kernel⟩,
    ⟨fab 3 0 (epp 0 {txNext := 4095, credits := [0, 0, 1, 0], replay := [(7, [], 3)]} (setR Reg.ilStatus 1 (pks [(8, pk), (9, pk)] fw))),
      8, pk, 0, 1, by decide +kernel⟩,
    ⟨fab 3 0 (setR (Reg.portPeer 0) (2^63 + 2 * 2^24) (setR Reg.ilStatus 1 (pks [(8, {pk with op := opWait})] fw))),
      8, {pk with op := opWait}, 0, 1, by decide +kernel⟩,
    ⟨fab 3 0 (epp 0 {txNext := 4095, credits := [2, 1, 1, 0], replay := [(7, [], 3)]} (setR Reg.ilStatus 1 (pks [(8, pk), (9, {pk with dest := 2 + 3 * 64})] fw))),
      9, {pk with dest := 2 + 3 * 64}, by decide +kernel⟩⟩

/-- States and operands that meet the hypotheses of `Obligations.RemoteInstructions`. -/
theorem witness_RemoteInstructions :
    (∃ (s : State) (st : Nat) (h : Nat) (j : Job) (i : Nat), s.Ready ∧ st < 16 ∧ insOp i = 54 ∧ s.Issues st h j i []) ∧
    (∃ (s : State) (st : Nat) (h : Nat) (j : Job) (i : Nat) (c : Instr) (e : RemEntry) (arg : Nat) (len : Nat),
      s.Ready ∧ st < 16 ∧ (s.Issues st h j i (if insOp i = 48 then [insA i] else [insA i, insB i])) ∧ ((c =
      Instr.sbRld st ∧ insOp i = 48 ∧ e = { rd := insD i, size := if bit (insImm i) 0 = true then 8 else 4, addr := (s.view.sb st).reg (insA i) }
      ∧ arg = 0 ∧ len = if bit (insImm i) 0 = true then 8 else 4) ∨ c = Instr.sbRwait st ∧ insOp i = 51 ∧ e = { op := 5, addr := (s.view.sb st).reg (insA i) }
      ∧ len = 1 ∧ arg = (if insB i = 0 then 1 else (s.view.sb st).reg (insB i)) % 2 ^ 32 + bits (insImm i) 13 12 * 2 ^
      32 + bits (insImm i) 14 14 * 2 ^ 34 ∨ c = Instr.sbRtkt st ∧ insOp i = 52 ∧ e = { op := 6, rd := insD i, addr := (s.view.sb st).reg (insA i) }
      ∧ (arg = if insB i = 0 then 1 else (s.view.sb st).reg (insB i)) ∧ len = 1) ∧ s.view.remFree st e.op = true ∧
      s.view.inTorus (gaDevice ((s.view.sb st).reg (insA i))) = true) ∧
    (∃ (s : State) (id : Nat) (k : Packet) (key : Nat) (e : RemEntry) (j : Job), s.Ready ∧ ffind s.dev.pkts id = some
      k ∧ k.arrived = true ∧ (k.op = opResponse ∨ k.op = opAck) ∧ s.view.pktHead id k = true ∧ s.view.remFor k = some
      (key, e) ∧ e.unit = 0 ∧ key / 65536 < 16 ∧ (s.view.stn (key / 65536)).job = some e.job ∧ s.view.job e.job = some
      j ∧ (s.view.sb (key / 65536)).wait = SbWait.remote (key % 65536)) ∧
    (∃ (s : State) (id : Nat) (k : Packet), s.Ready ∧ ffind s.dev.pkts id = some k ∧ k.arrived = true ∧ (k.op =
      opResponse ∨ k.op = opAck) ∧ s.view.pktHead id k = true ∧ s.view.remFor k = none) ∧
    (∃ (s : State) (st : Nat) (h : Nat) (j : Job) (i : Nat) (c : Instr) (e : RemEntry) (arg : Nat) (data : Bytes) (len
      : Nat), s.Ready ∧ st < 16 ∧ s.Issues st h j i [insA i, insB i] ∧ ((c = Instr.sbRst st ∧ insOp i = 49 ∧ e = { op := 1, size := if bit (insImm i) 0 = true then 8 else 4, addr := (s.view.sb st).reg (insA i) }
      ∧ arg = 0 ∧ data = toLe (if bit (insImm i) 0 = true then 8 else 4) ((s.view.sb st).reg (insB i)) ∧ len = if bit
      (insImm i) 0 = true then 8 else 4) ∨ c = Instr.sbRsig st ∧ insOp i = 50 ∧ e = { op := 4, size := 1, addr := (s.view.sb st).reg (insA i) }
      ∧ arg = (if insB i = 0 then 1 else (s.view.sb st).reg (insB i)) % 2 ^ 32 ∧ data = [] ∧ len = 1) ∧ s.view.remFree
      st e.op = true ∧ s.view.inTorus (gaDevice ((s.view.sb st).reg (insA i))) = true) ∧
    (∃ (s : State) (st : Nat) (h : Nat) (j : Job) (i : Nat) (bs : Bytes) (v : Bool) (x : Queue), s.Ready ∧ st < 16 ∧
      insOp i = 53 ∧ s.Issues st h j i [insA i] ∧ s.HeadHas st (insImm i % 4096) bs v x ∧ (s.view.remFree st (if bit
      (insImm i) 12 = true then 3 else 2) = true) ∧ s.view.inTorus (gaDevice ((s.view.sb st).reg (insA i))) = true) ∧
    (∃ (s : State) (st : Nat) (h : Nat) (j : Job) (i : Nat) (c : Instr) (e : RemEntry) (arg : Nat) (len : Nat),
      s.Ready ∧ st < 16 ∧ (s.Issues st h j i (if insOp i = 48 then [insA i] else [insA i, insB i])) ∧ ((c =
      Instr.sbRld st ∧ insOp i = 48 ∧ e = { rd := insD i, size := if bit (insImm i) 0 = true then 8 else 4, addr := (s.view.sb st).reg (insA i) }
      ∧ arg = 0 ∧ len = if bit (insImm i) 0 = true then 8 else 4) ∨ c = Instr.sbRwait st ∧ insOp i = 51 ∧ e = { op := 5, addr := (s.view.sb st).reg (insA i) }
      ∧ len = 1 ∧ arg = (if insB i = 0 then 1 else (s.view.sb st).reg (insB i)) % 2 ^ 32 + bits (insImm i) 13 12 * 2 ^
      32 + bits (insImm i) 14 14 * 2 ^ 34 ∨ c = Instr.sbRtkt st ∧ insOp i = 52 ∧ e = { op := 6, rd := insD i, addr := (s.view.sb st).reg (insA i) }
      ∧ (arg = if insB i = 0 then 1 else (s.view.sb st).reg (insB i)) ∧ len = 1) ∧ s.view.remFree st e.op = false) ∧
    (∃ (s : State) (st : Nat) (h : Nat) (j : Job) (i : Nat) (c : Instr) (e : RemEntry) (arg : Nat) (data : Bytes) (len
      : Nat), s.Ready ∧ st < 16 ∧ s.Issues st h j i [insA i, insB i] ∧ ((c = Instr.sbRst st ∧ insOp i = 49 ∧ e = { op := 1, size := if bit (insImm i) 0 = true then 8 else 4, addr := (s.view.sb st).reg (insA i) }
      ∧ arg = 0 ∧ data = toLe (if bit (insImm i) 0 = true then 8 else 4) ((s.view.sb st).reg (insB i)) ∧ len = if bit
      (insImm i) 0 = true then 8 else 4) ∨ c = Instr.sbRsig st ∧ insOp i = 50 ∧ e = { op := 4, size := 1, addr := (s.view.sb st).reg (insA i) }
      ∧ arg = (if insB i = 0 then 1 else (s.view.sb st).reg (insB i)) % 2 ^ 32 ∧ data = [] ∧ len = 1) ∧ s.view.remFree
      st e.op = false) ∧
    (∃ (s : State) (st : Nat) (h : Nat) (j : Job) (i : Nat) (c : Instr) (e : RemEntry) (arg : Nat) (data : Bytes) (len
      : Nat), s.Ready ∧ st < 16 ∧ s.Issues st h j i [insA i, insB i] ∧ ((c = Instr.sbRst st ∧ insOp i = 49 ∧ e = { op := 1, size := if bit (insImm i) 0 = true then 8 else 4, addr := (s.view.sb st).reg (insA i) }
      ∧ arg = 0 ∧ data = toLe (if bit (insImm i) 0 = true then 8 else 4) ((s.view.sb st).reg (insB i)) ∧ len = if bit
      (insImm i) 0 = true then 8 else 4) ∨ c = Instr.sbRsig st ∧ insOp i = 50 ∧ e = { op := 4, size := 1, addr := (s.view.sb st).reg (insA i) }
      ∧ arg = (if insB i = 0 then 1 else (s.view.sb st).reg (insB i)) % 2 ^ 32 ∧ data = [] ∧ len = 1) ∧ s.view.remFree
      st e.op = true ∧ s.view.inTorus (gaDevice ((s.view.sb st).reg (insA i))) = false ∧ gaDevice ((s.view.sb st).reg
      (insA i)) ≠ s.view.deviceId) :=
  ⟨⟨setR (Reg.rmtStatus 15) 0x1F (atPc (ii 0x36 0 1 0 0) (rem0 [] (RW A 0x1122334455667788 id))), 15, 9, job0,
      ii 0x36 0 1 0 0, by decide +kernel⟩,
    ⟨atPc (ii 0x30 31 1 2 1) (rem0 [(65535, {})] (RW A 0x1122334455667788 id)), 15, 9, job0, ii 0x30 31 1 2 1,
      Instr.sbRld 15, ({ op := 0, rd := 31, size := 8, addr := A } : RemEntry), 0, 8, by decide +kernel⟩,
    ⟨rS 6 1 8 8, 8, rsp 8, 15*65536 + 65535, ent 6 1 8, job0, by decide +kernel⟩,
    ⟨rS 1 1 8 8, 8, rsp 8, by decide +kernel⟩,
    ⟨atPc (ii 0x32 0 1 2 0) (rem0 [(65535, {})] (RW A 0x1122334455667788 id)), 15, 9, job0, ii 0x32 0 1 2 0,
      Instr.sbRsig 15, ({ op := 4, size := 1, addr := A } : RemEntry), 0x55667788, ([] : Bytes), 1, by decide +kernel⟩,
    ⟨atPc (ii 0x35 31 1 0 (77 + 4096)) (que 77 { msgs := [wq 700], head := 8 } (qd 77 1 1 255 0 0 (s := (rem0 [] (RW A 0x1122334455667788 id))))),
      15, 9, job0, ii 0x35 31 1 0 (77+4096),
      (hd (atPc (ii 0x35 31 1 0 (77 + 4096)) (que 77 { msgs := [wq 700], head := 8 } (qd 77 1 1 255 0 0 (s := (rem0 [] (RW A 0x1122334455667788 id)))))) 77).1,
      (hd (atPc (ii 0x35 31 1 0 (77 + 4096)) (que 77 { msgs := [wq 700], head := 8 } (qd 77 1 1 255 0 0 (s := (rem0 [] (RW A 0x1122334455667788 id)))))) 77).2,
      hq (atPc (ii 0x35 31 1 0 (77 + 4096)) (que 77 { msgs := [wq 700], head := 8 } (qd 77 1 1 255 0 0 (s := (rem0 [] (RW A 0x1122334455667788 id)))))) 77, by refine ⟨?_, ?_, ?_, ?_, ⟨someOf (by decide +kernel), rfl⟩, ?_, ?_⟩ <;> decide +kernel⟩,
    ⟨atPc (ii 0x34 31 1 0 0x7000) (rem0 ((List.range 512).map fun i => (15*65536+i, {op := 0})) (RW A 0x1122334455667788 id)),
      15, 9, job0, ii 0x34 31 1 0 0x7000, Instr.sbRtkt 15, ({ op := 6, rd := 31, addr := A } : RemEntry), 1, 1, by decide +kernel⟩,
    ⟨atPc (ii 0x32 0 1 0 0) (rem0 ((List.range 1024).map fun i => (15*65536+i, {op := 1})) (RW A 0x1122334455667788 id)),
      15, 9, job0, ii 0x32 0 1 0 0, Instr.sbRsig 15, ({ op := 4, size := 1, addr := A } : RemEntry), 1, ([] : Bytes),
      1, by decide +kernel⟩,
    ⟨atPc (ii 0x31 0 1 2 1) (rem0 [(65535, {})] (RW (G 60 0 40) 0x1122334455667788 id)), 15, 9, job0,
      ii 0x31 0 1 2 1, Instr.sbRst 15, ({ op := 1, size := 8, addr := G 60 0 40 } : RemEntry), 0,
      toLe 8 0x1122334455667788, 8, by decide +kernel⟩⟩

/-- States and operands that meet the hypotheses of `Obligations.RemoteTimers`. -/
theorem witness_RemoteTimers :
    (∃ (s : State) (o : Nat), s.Ready ∧ (o = Reg.epTimeoutAcc ∨ o = Reg.epTimeoutWait) ∧ s.view.bar0Open o = true) ∧
    (∃ (s : State) (st : Nat) (tag : Nat) (e : RemEntry) (j : Job), s.Ready ∧ st < 16 ∧ tag < 65536 ∧ ffind s.dev.rem
      (st * 65536 + tag) = some e ∧ e.issued + e.limit ≤ s.view.now ∧ e.unit = 0 ∧ (s.view.stn st).job = some e.job ∧
      s.view.job e.job = some j ∧ j.phase = JobPhase.running ∧ j.fault = none) ∧
    (∃ (s : State) (st : Nat) (tag : Nat) (e : RemEntry), s.Ready ∧ st < 16 ∧ tag < 65536 ∧ ffind s.dev.rem (st *
      65536 + tag) = some e ∧ s.view.now < e.issued + e.limit) :=
  ⟨⟨fw, Reg.epTimeoutAcc, by decide +kernel⟩,
    ⟨setD (fun d => {d with rem := [(15 * 65536 + 65535, tmE)]}) (RW A 5 fun b => {b with wait := .remote 65535}),
      15, 65535, tmE, job0, by decide +kernel⟩,
    ⟨setD (fun d => {d with rem := [(15 * 65536 + 65535, {tmE with limit := 501})]}) (RW A 5 fun b => {b with wait := .remote 65535}),
      15, 65535, {tmE with limit := 501}, by decide +kernel⟩⟩

/-- States and operands that meet the hypotheses of `Obligations.RemoteTargets`. -/
theorem witness_RemoteTargets :
    (∃ (s : State) (id : Nat) (op : Nat) (k : Packet) (st : Nat) (q : Nat) (idx : Nat), s.Ready ∧ s.view.request id op
      = some k ∧ k.addr % 2 ^ 46 = idx * 2 ^ 16 + st * 2 ^ 12 + q ∧ q < 4096 ∧ st < 16 ∧ st < s.view.stations ∧ idx <
      64 ∧ (op = opMessage ∧ idx = 0 ∨ op = opCombine) ∧ s.QueueIsPresent st q ∧ (Option.any (fun x => x.snd.started
      && x.snd.phase == JobPhase.running) (s.view.stnJob st) = true) ∧ (if op = opMessage then (s.view.qdesc st
      q).kind = 1 ∨ (s.view.qdesc st q).kind = 2 else (s.view.qdesc st q).combines = true ∧ idx < (s.view.qdesc st
      q).senders)) ∧
    (∃ (s : State) (id : Nat) (op : Nat) (k : Packet) (st : Nat) (c : Nat), s.Ready ∧ s.view.request id op = some k ∧
      gaSpace k.addr = 2 ∧ s.view.tokenAt (gaOffset k.addr) = some (st, c) ∧ (s.view.token st c).state =
      TokState.active ∧ s.view.tokBefore st c op id = false ∧ op = opLoad ∧ ((if op = opStore then List.length k.data
      else k.len) = 4 ∨ (if op = opStore then List.length k.data else k.len) = 8) ∧ k.misaligned = false) ∧
    (∃ (s : State) (id : Nat) (op : Nat) (k : Packet), s.Ready ∧ s.view.request id op = some k ∧ gaSpace k.addr = 4 ∧
      op = opLoad ∧ s.view.regDenied (gaOffset k.addr) 0 = true) ∧
    (∃ (s : State) (id : Nat) (op : Nat) (k : Packet), s.Ready ∧ s.view.request id op = some k ∧ gaSpace k.addr = 4 ∧
      op = opStore ∧ s.view.regDenied (gaOffset k.addr) 1 = true) ∧
    (∃ (s : State) (id : Nat) (op : Nat) (k : Packet), s.Ready ∧ s.view.request id op = some k ∧ gaSpace k.addr = 0 ∧
      k.misaligned = false ∧ ((gaOffset k.addr % 128 + if op = opStore then List.length k.data else k.len) ≤ 128) ∧ (0
      < if op = opStore then List.length k.data else k.len) ∧ (s.view.ddrReachable (gaOffset k.addr) (if op = opStore
      then List.length k.data else k.len) = true) ∧ (s.view.rangeLost (gaOffset k.addr) (if op = opStore then
      List.length k.data else k.len) = false) ∧ op = opLoad) ∧
    (∃ (s : State) (id : Nat) (op : Nat) (k : Packet) (c : Nat), s.Ready ∧ s.view.request id op = some k ∧ gaSpace
      k.addr = 3 ∧ counterAt (gaOffset k.addr) = some c ∧ s.view.ticketBefore c id = false ∧ op = opLoad ∧ ((if op =
      opStore then List.length k.data else k.len) = 4 ∨ (if op = opStore then List.length k.data else k.len) = 8) ∧
      k.misaligned = false) ∧
    (∃ (s : State) (id : Nat) (op : Nat) (k : Packet) (c : Nat), s.Ready ∧ s.view.request id op = some k ∧ gaSpace
      k.addr = 3 ∧ counterAt (gaOffset k.addr) = some c ∧ s.view.ticketBefore c id = false ∧ op = opStore ∧ ((if op =
      opStore then List.length k.data else k.len) = 4 ∨ (if op = opStore then List.length k.data else k.len) = 8) ∧
      k.misaligned = false) ∧
    (∃ (s : State) (id : Nat) (op : Nat) (k : Packet) (c : Nat), s.Ready ∧ s.view.request id op = some k ∧ gaSpace
      k.addr = 3 ∧ counterAt (gaOffset k.addr) = some c ∧ s.view.ticketBefore c id = false ∧ op = opTicket) ∧
    (∃ (s : State) (id : Nat) (op : Nat) (k : Packet), s.Ready ∧ s.view.request id op = some k ∧ gaSpace k.addr = 0 ∧
      k.misaligned = false ∧ ((gaOffset k.addr % 128 + if op = opStore then List.length k.data else k.len) ≤ 128) ∧ (0
      < if op = opStore then List.length k.data else k.len) ∧ (s.view.ddrReachable (gaOffset k.addr) (if op = opStore
      then List.length k.data else k.len) = true) ∧ (s.view.rangeLost (gaOffset k.addr) (if op = opStore then
      List.length k.data else k.len) = false) ∧ op = opStore) ∧
    (∃ (s : State) (id : Nat) (op : Nat) (k : Packet) (st : Nat) (c : Nat), s.Ready ∧ s.view.request id op = some k ∧
      gaSpace k.addr = 2 ∧ s.view.tokenAt (gaOffset k.addr) = some (st, c) ∧ (s.view.token st c).state =
      TokState.active ∧ s.view.tokBefore st c op id = false ∧ op = opSignal ∧ (∀ (w : Waiter), w ∈ (s.view.token st
      c).waiters → tokSatisfied (((s.view.token st c).prod + BitVec.toNat k.arg % 2 ^ 32) % 2 ^ 32) (nth 0
      (s.view.token st c).cons w.cursor) w.k = false)) ∧
    (∃ (s : State) (id : Nat) (op : Nat) (k : Packet) (st : Nat) (c : Nat), s.Ready ∧ s.view.request id op = some k ∧
      gaSpace k.addr = 2 ∧ s.view.tokenAt (gaOffset k.addr) = some (st, c) ∧ (s.view.token st c).state =
      TokState.active ∧ s.view.tokBefore st c op id = false ∧ op = opWait ∧ s.view.remoteWaits st < 32 ∧ ((fun y => ∀
      (w : Waiter), w ∈ y.waiters → tokSatisfied y.prod (nth 0 y.cons w.cursor) w.k = false) (s.view.token st c))) ∧
    (∃ (s : State) (id : Nat) (op : Nat) (k : Packet), s.Ready ∧ s.view.request id op = some k ∧ gaSpace k.addr = 1 ∧
      k.misaligned = false ∧ ((gaOffset k.addr % 128 + if op = opStore then List.length k.data else k.len) ≤ 128) ∧ (0
      < if op = opStore then List.length k.data else k.len) ∧ (s.view.slabExists (gaOffset k.addr) (if op = opStore
      then List.length k.data else k.len) = true) ∧ op = opLoad) ∧
    (∃ (s : State) (id : Nat) (op : Nat) (k : Packet), s.Ready ∧ s.view.request id op = some k ∧ gaSpace k.addr = 4 ∧
      op = opLoad ∧ s.view.regDenied (gaOffset k.addr) 0 = false ∧ s.view.regAt (gaOffset k.addr) = true ∧ ((if op =
      opStore then List.length k.data else k.len) = 4 ∨ (if op = opStore then List.length k.data else k.len) = 8) ∧
      ((gaOffset k.addr % if op = opStore then List.length k.data else k.len) = 0)) ∧
    (∃ (s : State) (id : Nat) (op : Nat) (k : Packet), s.Ready ∧ s.view.request id op = some k ∧ gaSpace k.addr = 1 ∧
      k.misaligned = false ∧ ((gaOffset k.addr % 128 + if op = opStore then List.length k.data else k.len) ≤ 128) ∧ (0
      < if op = opStore then List.length k.data else k.len) ∧ (s.view.slabExists (gaOffset k.addr) (if op = opStore
      then List.length k.data else k.len) = true) ∧ op = opStore ∧ gaOffset k.addr % 4 = 0 ∧ ((if op = opStore then
      List.length k.data else k.len) % 4 = 0)) ∧
    (∃ (s : State) (id : Nat) (op : Nat) (k : Packet) (st : Nat) (q : Nat) (idx : Nat), s.Ready ∧ s.view.request id op
      = some k ∧ k.addr % 2 ^ 46 = idx * 2 ^ 16 + st * 2 ^ 12 + q ∧ q < 4096 ∧ st < 16 ∧ st < s.view.stations ∧ idx <
      64 ∧ (op = opMessage ∧ idx = 0 ∨ op = opCombine) ∧ s.QueueIsPresent st q ∧ (¬Option.any (fun x => x.snd.started
      && x.snd.phase == JobPhase.running) (s.view.stnJob st) = true ∨ ¬if op = opMessage then (s.view.qdesc st q).kind
      = 1 ∨ (s.view.qdesc st q).kind = 2 else (s.view.qdesc st q).combines = true ∧ idx < (s.view.qdesc st
      q).senders)) :=
  ⟨⟨T (RQ 2 0 (15*4096+77) 8 0 d8) (fun s => qd 77 1 1 255 0 0 (s := s)), 8, 2, RQ 2 0 (15*4096+77) 8 0 d8, 15, 77,
      0, by decide +kernel⟩,
    ⟨T (RQ 0 2 (15*256+47*4) 8) (tk 15 47 x0), 8, 0, RQ 0 2 (15*256+47*4) 8, 15, 47, by decide +kernel⟩,
    ⟨T (RQ 0 4 0 8), 8, 0, RQ 0 4 0 8, by decide +kernel⟩,
    ⟨T (RQ 1 4 0x800000 8 0 d8), 8, 1, RQ 1 4 0x800000 8 0 d8, by decide +kernel⟩,
    ⟨T (RQ 0 0 (15*4096+64) 64 (ctx := 0xF0050)), 8, 0, RQ 0 0 (15*4096+64) 64 (ctx := 0xF0050), by decide +kernel⟩,
    ⟨T (RQ 0 3 1008 4) (fun s => setR (Reg.tkoValue 63) (2^60+5) s), 8, 0, RQ 0 3 1008 4, 63, by decide +kernel⟩,
    ⟨T (RQ 1 3 0 8 7 d8) (fun s => setR (Reg.tkoValue 0) (2^60+5) s), 8, 1, RQ 1 3 0 8 7 d8, 0, by decide +kernel⟩,
    ⟨T (RQ 6 3 1008 1 (2^64-1)) (fun s => setR (Reg.tkoValue 63) 5 s), 8, 6, RQ 6 3 1008 1 (2^64-1), 63, by decide +kernel⟩,
    ⟨setR Reg.dmCapacity (2^40) (T (RQ 1 0 (2^32+15*4096+64) 8 0 d8)), 8, 1, RQ 1 0 (2^32+15*4096+64) 8 0 d8, by decide +kernel⟩,
    ⟨T (RQ 4 2 (15*256+47*4) 1 (2^32+9)) (tk 15 47 x0), 8, 4, RQ 4 2 (15*256+47*4) 1 (2^32+9), 15, 47, by decide +kernel⟩,
    ⟨T (RQ 5 2 (15*256+47*4) 1 (9+3*2^32)) (tk 15 47 x0), 8, 5, RQ 5 2 (15*256+47*4) 1 (9+3*2^32), 15, 47, by decide +kernel⟩,
    ⟨T (RQ 0 1 (15*2^28+255*2^20+0xBFFF8) 8), 8, 0, RQ 0 1 (15*2^28+255*2^20+0xBFFF8) 8, by decide +kernel⟩,
    ⟨setR Reg.epAccess 3 (T (RQ 0 4 0x2100 8 (ctx := 0))), 8, 0, RQ 0 4 0x2100 8 (ctx := 0), by decide +kernel⟩,
    ⟨T (RQ 1 1 (15*2^28+255*2^20+0xBFFF8) 8 0 d8), 8, 1, RQ 1 1 (15*2^28+255*2^20+0xBFFF8) 8 0 d8, by decide +kernel⟩,
    ⟨T (RQ 2 0 (14*4096+77) 8 0 d8) (fun s => qd 77 1 1 255 0 0 (s := s)), 8, 2, RQ 2 0 (14*4096+77) 8 0 d8, 14, 77,
      0, by decide +kernel⟩⟩

/-- States and operands that meet the hypotheses of `Obligations.Timetable`. -/
theorem witness_Timetable :
    (∃ (s : State) (r : Nat) (b : Bytes) (c : Cmd) (e : Nat), s.Ready ∧ r < 16 ∧ s.Serves r 48 c ∧ s.view.checkTable
      (List.take (c.p 1) b) (c.p 1) = Except.error e ∧ (leNat (List.take (c.p 1) b) 0 4 = 0 ∨ 4096 < leNat (List.take
      (c.p 1) b) 0 4 ∨ leNat (List.take (c.p 1) b) 4 4 ≠ 0 ∨ c.p 1 ≠ 136 + 32 * leNat (List.take (c.p 1) b) 0 4) ∧
      (s.dev.tt.inForce = none ∧ s.dev.tt.pending = none ∨ s.view.now < s.dev.tt.next)) ∧
    (∃ (s : State) (h : Nat) (j : Job), s.Ready ∧ h < 4096 ∧ s.dev.jobs = [(h, j)] ∧ j.rtWaits = true ∧
      j.runBegin.isSome = true ∧ (∃ e, j.runEnd = some e ∧ e ≤ s.view.now)) ∧
    (∃ (s : State) (x : Table), s.Ready ∧ s.dev.tt.inForce = none ∧ s.dev.tt.pending = some x ∧ s.dev.tt.next ≤
      s.view.now ∧ s.dev.jobs = []) ∧
    (∃ (s : State) (h : Nat) (j : Job), s.Ready ∧ h < 4096 ∧ s.dev.jobs = [(h, j)] ∧ (j.rtWaits = false ∨ j.runBegin =
      none ∨ ∀ (e : Nat), j.runEnd = some e → s.view.now < e)) ∧
    (∃ (s : State) (r : Nat) (b : Bytes) (c : Cmd) (x : Table), s.Ready ∧ r < 16 ∧ s.Serves r 48 c ∧ s.view.checkTable
      (List.take (c.p 1) b) (c.p 1) = Except.ok x ∧ s.dev.jobs = []) ∧
    (∃ (s : State) (x : Table), s.Ready ∧ s.dev.tt.inForce = some x ∧ s.dev.tt.next ≤ s.view.now ∧ s.dev.jobs = [] ∧
      s.dev.tt.entry < x.entries.length) :=
  ⟨⟨serve 15 0x30 [0, 50] T0, 15, imgB, cmdOf 0x30 [0, 50],
      match T0.view.checkTable (imgB.take 50) 50 with | .error e => e | .ok _ => 0, by
        refine ⟨?_, ?_, ?_, ?_, ?_, ?_⟩ <;>
        first | decide +kernel | exact eqErr (by decide +kernel)⟩,
    ⟨job jr 4095 T0, 4095, jr, by decide +kernel⟩,
    ⟨ttS (fun t => {t with pending := some tbl, next := 1000, entry := 7}) T0, tbl, by decide +kernel⟩,
    ⟨job {jr with phase := .running} 4095 T0, 4095, {jr with phase := .running}, by decide +kernel⟩,
    ⟨serve 15 0x30 (ps img2t) T0, 15, img2t, cmdOf 0x30 (ps img2t), okT T0 img2t, by
        refine ⟨?_, ?_, ?_, ?_, ?_⟩ <;>
        first | decide +kernel | exact eqOk (by decide +kernel)⟩,
    ⟨ttS (fun t => {t with inForce := some tbl, next := 1000, entry := 1}) (setR Reg.ttTime (2^64-1) T0), tbl, by decide +kernel⟩⟩

/-- States and operands that meet the hypotheses of `Obligations.Installation`. -/
theorem witness_Installation :
    (∃ (s : State) (h : Nat) (j : Job) (y : Install), s.Ready ∧ h < 4096 ∧ s.view.job h = some j ∧ j.install = some y
      ∧ s.view.stationsRun j = true ∧ (s.view.dueToStart j = false ∨ (s.view.consistOf j).regInv = 0) ∧ y.frames = []
      ∧ y.armed = false) ∧
    (∃ (s : State) (h : Nat) (j : Job) (c : Consist), s.Ready ∧ h < 4096 ∧ s.view.job h = some j ∧ s.view.consist
      j.consist = some c ∧ j.phase = JobPhase.queued ∧ (∃ st, st ∈ s.view.jobStations j ∧ ¬(fun st => (s.view.stn
      st).standby = none ∧ (s.view.stn st).prev = none ∧ (s.view.stn st).job ≠ some h ∧ (s.view.stn st).testDue = none
      ∧ (s.view.stn st).drainDue = none) st)) ∧
    (∃ (s : State) (h : Nat) (j : Job) (y : Install), s.Ready ∧ h < 4096 ∧ s.view.job h = some j ∧ j.install = some y
      ∧ s.view.stationsRun j = false) ∧
    (∃ (s : State) (h : Nat) (j : Job) (y : Install) (i : Nat) (i' : Nat) (l : List Nat), s.Ready ∧ h < 4096 ∧
      s.view.job h = some j ∧ j.install = some y ∧ s.view.stationsRun j = true ∧ (s.view.dueToStart j = false ∨
      (s.view.consistOf j).regInv = 0) ∧ y.frames = i :: i' :: l ∧ y.next ≤ s.view.now ∧ (nth { } (s.view.consistOf
      j).frames i).bad = false) ∧
    (∃ (s : State) (h : Nat) (j : Job) (y : Install), s.Ready ∧ h < 4096 ∧ s.view.job h = some j ∧ j.install = some y
      ∧ s.view.stationsRun j = true ∧ (s.view.dueToStart j = false ∨ (s.view.consistOf j).regInv = 0) ∧ y.frames ≠ []
      ∧ s.view.now < y.next) ∧
    (∃ (s : State) (h : Nat) (j : Job) (c : Consist), s.Ready ∧ h < 4096 ∧ s.view.job h = some j ∧ s.view.consist
      j.consist = some c ∧ j.phase = JobPhase.queued ∧ (∀ (st : Nat), st ∈ s.view.jobStations j → (fun st =>
      (s.view.stn st).standby = none ∧ (s.view.stn st).prev = none ∧ (s.view.stn st).job ≠ some h ∧ (s.view.stn
      st).testDue = none ∧ (s.view.stn st).drainDue = none) st) ∧ s.view.goldenIsBad j.consist = false) ∧
    (∃ (s : State) (h : Nat) (j : Job) (y : Install) (i : Nat) (i' : Nat) (l : List Nat), s.Ready ∧ h < 4096 ∧
      s.view.job h = some j ∧ j.install = some y ∧ s.view.stationsRun j = true ∧ (s.view.dueToStart j = false ∨
      (s.view.consistOf j).regInv = 0) ∧ y.frames = i :: i' :: l ∧ y.next ≤ s.view.now ∧ (nth { } (s.view.consistOf
      j).frames i).bad = true ∧ j.consist < 64 ∧ s.dev.jobs = [(h, j)] ∧ j.phase = JobPhase.installing ∧ j.window =
      none ∧ s.view.busMaster = false) :=
  ⟨⟨IS {frames := [], slab := [3]}, 4095, ji {frames := [], slab := [3]}, ({frames := [], slab := [3]} : Install), by decide +kernel⟩,
    ⟨job jq 4095 (stn 0 {job := some 4095} R0), 4095, jq, c0, by decide +kernel⟩,
    ⟨setR (Reg.stPwrStatus 0) 2 (IS {frames := [0]}), 4095, ji {frames := [0]}, ({frames := [0]} : Install), by decide +kernel⟩,
    ⟨setP (planeKey 0 true 1 3) 0xFF (IS yF), 4095, ji yF, yF, iFr, 0, ([] : List Nat), by decide +kernel⟩,
    ⟨IS {frames := [0], slab := [3], next := 1001}, 4095, ji {frames := [0], slab := [3], next := 1001},
      ({frames := [0], slab := [3], next := 1001} : Install), by decide +kernel⟩,
    ⟨job jq 4095 (con 0 cT (setP (planeKey 15 true 1 (2^32-1)) 8 (setP (planeKey 0 true 2 0) 7 (setP (planeKey 0 false 2 0) 7 R0)))),
      4095, jq, cT, by decide +kernel⟩,
    ⟨con 0 {c0 with frames := c0.frames.map fun f => {f with bad := true}} (setD (fun d => { d with host := { d.host with cfg := [] } }) (IS yF)),
      4095, ji yF, yF, iFr, 0, ([] : List Nat), by decide +kernel⟩⟩

/-- States and operands that meet the hypotheses of `Obligations.PlanesAreTakenUp`. -/
theorem witness_PlanesAreTakenUp :
    (∃ (s : State) (st : Nat) (u : Nat) (h : Nat), s.Ready ∧ st < 16 ∧ (s.view.stn st).standby = some h ∧ (s.view.stn
      st).armed = true ∧ s.view.planesWritten h = true ∧ (s.view.stn st).prev = none ∧ (s.view.stn st).job ≠ some h ∧
      u < 256 ∧ bit (s.view.stn st).bayWait u = true ∧ s.view.bayInvalid h st u = false ∧ (s.view.muOf st u).run =
      none ∧ (s.view.muOf st u).pipe = [] ∧ (s.view.muOf st u).drains = [] ∧ s.view.senderBusy st u (muUnit st u) =
      false ∧ (∀ (e : Nat × Slot), e ∈ (s.view.muOf st u).slots → e.snd.state = SlotState.free) ∧ (s.view.oldBox st
      h).quiet 0 u = true ∧ u < 32 ∧ bit (s.view.stn st).vuWait u = true ∧ (s.view.vuOf st u).run = none ∧
      (s.view.vuOf st u).writes = [] ∧ (∀ (e : Nat × List FtRow), e ∈ (s.view.vuOf st u).comps → e.snd = []) ∧
      (s.view.oldBox st h).quiet 1 u = true ∧ (s.view.stn st).job = none ∧ (∀ (b : Nat), b < 256 → s.view.bayInvalid h
      st b = false) ∧ bit (s.reg (Reg.stFaultStatus st)) 0 = false ∧ (s.view.stn st).testDue = none ∧ (s.view.stn
      st).drainDue = none) ∧
    (∃ (s : State) (st : Nat) (u : Nat) (h : Nat), s.Ready ∧ st < 16 ∧ (s.view.stn st).standby = some h ∧ (s.view.stn
      st).armed = false ∧ u < 256 ∧ u < 32) ∧
    (∃ (s : State) (st : Nat) (u : Nat), s.Ready ∧ st < 16 ∧ (s.view.stn st).standby = none ∧ u < 256 ∧ u < 32) ∧
    (∃ (s : State) (st : Nat) (h : Nat) (k : Nat) (j : Job), s.Ready ∧ st < 16 ∧ (s.view.stn st).standby = some h ∧
      (s.view.stn st).armed = true ∧ s.view.planesWritten h = true ∧ (s.view.stn st).prev = none ∧ (s.view.stn st).job
      ≠ some h ∧ (s.view.stn st).job = some k ∧ s.view.job k = some j ∧ j.started = true ∧ j.phase = JobPhase.running
      ∧ ((s.view.stn st).bayWait ≠ 0 ∨ (s.view.stn st).vuWait ≠ 0) ∧ bit j.progEnd st = true) ∧
    (∃ (s : State) (st : Nat) (h : Nat) (k : Nat) (j : Job), s.Ready ∧ st < 16 ∧ (s.view.stn st).standby = some h ∧
      (s.view.stn st).armed = true ∧ s.view.planesWritten h = true ∧ (s.view.stn st).prev = none ∧ (s.view.stn st).job
      ≠ some h ∧ (s.view.stn st).job = some k ∧ s.view.job k = some j ∧ j.started = true ∧ j.phase = JobPhase.running
      ∧ ((s.view.stn st).bayWait ≠ 0 ∨ (s.view.stn st).vuWait ≠ 0) ∧ bit j.progEnd st = false) :=
  ⟨⟨PS {st0 with job := none}, 15, 31, 4095, by decide +kernel⟩,
    ⟨PS {st0 with armed := false}, 15, 31, 4095, by decide +kernel⟩,
    ⟨PS {st0 with standby := none}, 15, 31, by decide +kernel⟩,
    ⟨PSu, 15, 4095, 9, {job0 with progEnd := 2^15}, by decide +kernel⟩,
    ⟨job {job0 with progEnd := 0} 9 (PS st0), 15, 4095, 9, {job0 with progEnd := 0}, by decide +kernel⟩⟩

/-- States and operands that meet the hypotheses of `Obligations.ConsistTimeZero`. -/
theorem witness_ConsistTimeZero :
    (∃ (s : State) (h : Nat) (j : Job) (y : Install) (b : Nat) (e : Nat), s.Ready ∧ h < 4096 ∧ s.dev.jobs = [(h, j)] ∧
      j.install = some y ∧ y.frames = [] ∧ y.slab = [] ∧ y.armed = true ∧ j.phase = JobPhase.installing ∧ j.rt = true
      ∧ j.runBegin = some b ∧ j.runEnd = some e ∧ b ≤ s.view.now ∧ s.view.now < e ∧ (s.view.consistOf j).regInv = 0 ∧
      s.view.stationsRun j = true ∧ (∀ (st : Nat), st ∈ s.view.jobStations j → (s.view.stn st).job = some h ∧
      (s.view.stn st).prev = none ∧ s.view.freeFor st h = true) ∧ (∀ (k : Nat), k < 16 → bit (s.view.consistOf
      j).ttMask k = true → (s.view.ch k).retrain = none) ∧ s.view.goldenIsBad j.consist = false ∧ s.view.now % 64 ≠ 0) ∧
    (∃ (s : State) (h : Nat) (j : Job) (y : Install) (b : Nat) (e : Nat), s.Ready ∧ h < 4096 ∧ s.dev.jobs = [(h, j)] ∧
      j.install = some y ∧ y.frames = [] ∧ y.slab = [] ∧ y.armed = true ∧ j.phase = JobPhase.installing ∧ j.rt = true
      ∧ j.runBegin = some b ∧ j.runEnd = some e ∧ b ≤ s.view.now ∧ s.view.now < e ∧ (s.view.consistOf j).regInv = 0 ∧
      s.view.stationsRun j = true ∧ (∀ (st : Nat), st ∈ s.view.jobStations j → (s.view.stn st).job = some h ∧
      (s.view.stn st).prev = none ∧ s.view.freeFor st h = true) ∧ (∀ (k : Nat), k < 16 → bit (s.view.consistOf
      j).ttMask k = true → (s.view.ch k).retrain = none) ∧ s.view.goldenIsBad j.consist = false ∧ s.view.now % 64 = 0
      ∧ (∀ (n : Nat), n ∈ (s.view.consistOf j).late → n = 0)) :=
  ⟨⟨ZS 1023 jz0, 4095, jz0, ({armed := true} : Install), 961, 1025, by decide +kernel⟩,
    ⟨ZS 1024 jz0, 4095, jz0, ({armed := true} : Install), 961, 1025, by decide +kernel⟩⟩

/-- States and operands that meet the hypotheses of `Obligations.JobsEnd`. -/
theorem witness_JobsEnd :
    (∃ (s : State) (h : Nat), s.Ready ∧ h < 4096 ∧ s.view.job h = none) ∧
    (∃ (s : State) (h : Nat) (j : Job), s.Ready ∧ h < 4096 ∧ s.view.job h = some j ∧ j.phase = JobPhase.running ∧
      (j.fault.isSome = true ∨ j.cancel = true) ∧ j.faultAt < s.view.now ∧ s.view.canEnd h j = false ∧ (j.phase ≠
      JobPhase.finishing ∨ s.view.jobWrites h = true)) ∧
    (∃ (s : State) (h : Nat) (j : Job), s.Ready ∧ h < 4096 ∧ s.view.job h = some j ∧ (j.phase ≠ JobPhase.running ∨
      j.fault = none ∧ j.cancel = false ∨ s.view.now ≤ j.faultAt) ∧ j.phase = JobPhase.finishing ∧ s.view.jobWrites h
      = false ∧ 768 ≤ s.view.version ∧ j.status ≠ scMiss ∧ j.window = none ∧ s.view.busMaster = true ∧ j.countersign =
      false ∧ j.vector = none) ∧
    (∃ (s : State) (h : Nat) (j : Job), s.Ready ∧ h < 4096 ∧ s.view.job h = some j ∧ s.view.canEnd h j = true ∧
      s.OnlyJob h j ∧ (j.phase = JobPhase.stopping ∨ s.dev.queues = [])) ∧
    (∃ (s : State) (h : Nat) (j : Job) (k : Nat), s.Ready ∧ h < 4096 ∧ s.view.job h = some j ∧ j.phase =
      JobPhase.finishing ∧ s.view.jobWrites h = false ∧ 768 ≤ s.view.version ∧ j.status ≠ scMiss ∧ j.window = some k ∧
      j.vector = none) :=
  ⟨⟨fw, 4095, by decide +kernel⟩,
    ⟨JS jf1, 4095, jf1, by decide +kernel⟩,
    ⟨JS jr1, 4095, jr1, by decide +kernel⟩,
    ⟨E1 id, 4095, jend id, by decide +kernel⟩,
    ⟨setD (fun d => { d with host := { d.host with windows := [(239, {busy := true, job := 4095})] } }) (JS jr2),
      4095, jr2, 239, by decide +kernel⟩⟩

/-- States and operands that meet the hypotheses of `Obligations.Stabling`. -/
theorem witness_Stabling :
    (∃ (s : State) (h : Nat) (j : Job) (c : Consist), s.Ready ∧ h < 4096 ∧ s.OnlyJob h j ∧ j.phase = JobPhase.stabling
      ∧ s.view.consist j.consist = some c ∧ j.rt = false ∧ (∀ (d : CntDecl), d ∈ c.counters → d.phys < 64) ∧
      s.view.saveBad j (j.request.getD 0) = none ∧ j.cancel = false ∧ s.view.job h = some j ∧ (s.view.atStop j = none
      ∨ j.phase ≠ JobPhase.running ∨ j.fault.isSome = true ∨ j.cancel = true ∨ j.frozen = true) ∧ j.phase ≠
      JobPhase.restoring) ∧
    (∃ (s : State) (h : Nat) (j : Job) (k : Nat), s.Ready ∧ h < 4096 ∧ s.view.job h = some j ∧ s.view.atStop j = some
      k ∧ j.phase = JobPhase.running ∧ j.fault = none ∧ j.cancel = false ∧ j.frozen = false ∧ (∀ (st : Nat), st ∈
      s.view.jobStations j → (s.view.stn st).prev = none ∧ s.view.unitsIdle st h = true ∧ s.view.moving st = false ∧
      (∀ (e : Nat × List OutMsg), e ∈ s.view.myOutboxes st → e.snd = []) ∧ ∀ (q : Nat), q ∈ s.view.myQueues st →
      (s.view.queue st q).reqs = []) ∧ s.view.tokMoving h = false ∧ s.view.storesWait h = false ∧ (∀ (e : Nat ×
      RemEntry), e ∈ s.dev.rem → e.snd.job ≠ h) ∧ j.phase ≠ JobPhase.stabling) ∧
    (∃ (s : State) (h : Nat) (j : Job) (c : Consist) (x : Saved) (y : Install), s.Ready ∧ h < 4096 ∧ s.OnlyJob h j ∧
      j.phase = JobPhase.restoring ∧ j.rt = false ∧ j.limit = none ∧ s.view.consist j.consist = some c ∧ c.saved =
      some x ∧ j.install = some y ∧ y.frames = [] ∧ y.slab = [] ∧ y.armed = true ∧ c.regInv = 0 ∧ s.view.stationsRun j
      = true ∧ (∀ (st : Nat), st ∈ s.view.jobStations j → (s.view.stn st).job = some h ∧ (s.view.stn st).prev = none ∧
      (s.view.stn st).standby = none ∧ (s.view.stn st).drainDue = none ∧ bit (s.reg (Reg.stFaultStatus st)) 0 = false)
      ∧ s.view.goldenIsBad j.consist = false ∧ s.view.areaBad c = none ∧ (∀ (d : CntDecl), d ∈ c.counters → d.phys <
      64) ∧ s.view.now % 64 ≠ x.cyc % 64) ∧
    (∃ (s : State) (h : Nat) (j : Job) (c : Consist) (x : Saved) (y : Install), s.Ready ∧ h < 4096 ∧ s.OnlyJob h j ∧
      j.phase = JobPhase.restoring ∧ j.rt = false ∧ j.limit = none ∧ s.view.consist j.consist = some c ∧ c.saved =
      some x ∧ j.install = some y ∧ y.frames = [] ∧ y.slab = [] ∧ y.armed = true ∧ c.regInv = 0 ∧ s.view.stationsRun j
      = true ∧ (∀ (st : Nat), st ∈ s.view.jobStations j → (s.view.stn st).job = some h ∧ (s.view.stn st).prev = none ∧
      (s.view.stn st).standby = none ∧ (s.view.stn st).drainDue = none ∧ bit (s.reg (Reg.stFaultStatus st)) 0 = false)
      ∧ s.view.goldenIsBad j.consist = false ∧ s.view.areaBad c = none ∧ (∀ (d : CntDecl), d ∈ c.counters → d.phys <
      64) ∧ s.view.now % 64 = x.cyc % 64) ∧
    (∃ (s : State) (h : Nat) (j : Job) (c : Consist) (u : UnitRef) (a : Nat), s.Ready ∧ h < 4096 ∧ s.OnlyJob h j ∧
      j.phase = JobPhase.stabling ∧ s.view.consist j.consist = some c ∧ j.rt = false ∧ (∀ (d : CntDecl), d ∈
      c.counters → d.phys < 64) ∧ s.view.saveBad j (j.request.getD 0) = some (u, a) ∧ j.fault = none) :=
  ⟨⟨sT, 4095, jT, cS, by decide +kernel⟩,
    ⟨SS (jS id) id, 4095, jS id, 1, by decide +kernel⟩,
    ⟨sR jR cR2, 4095, jR, cR2, { svd with cyc := 1001 }, ({armed := true} : Install), by decide +kernel⟩,
    ⟨sR jR cR, 4095, jR, cR, { svd with cyc := 1000 - 64 * 5 }, ({armed := true} : Install), by decide +kernel⟩,
    ⟨muS { slots := [(7, {state := .live, tag := 4})], accErr := [(1024*7+4, 2)] } (SS {jT with rings := [3], arms := [{}]} id),
      4095, {jT with rings := [3], arms := [{}]}, cS,
      match (muS { slots := [(7, {state := .live, tag := 4})], accErr := [(1024*7+4, 2)] } (SS jT id)).view.saveBad jT 1 with | some (u, _) => u | none => {},
      0, by decide +kernel⟩⟩

/-- States and operands that meet the hypotheses of `Obligations.StationPower`. -/
theorem witness_StationPower :
    (∃ (s : State) (n : Nat) (r : Nat) (r' : Nat), nth 16 s.dev.chip.spareRow n < 32 ∧ s.view.physRow n r =
      s.view.physRow n r') ∧
    (∃ (s : State) (n : Nat), nth 16 s.dev.chip.spareRow n < 32) ∧
    (∃ (s : State) (n : Nat), nth 16 s.dev.chip.spareRow n < 32) ∧
    (∃ (s : State) (st : Nat), s.Ready ∧ st < 16 ∧ (s.view.stn st).pwrDue = none ∧ s.view.pwr st ≠ 0 ∧ s.view.pwr st <
      s.view.pwrGoal st ∧ s.view.pwrAdmitted (some st) ≤ bits (s.reg Reg.pwrCap) 11 0 ∧ (∀ (k : Nat), k < st →
      (s.view.stn k).pwrWait = false)) ∧
    (∃ (s : State) (st : Nat) (due : Nat), s.Ready ∧ st < 16 ∧ (s.view.stn st).pwrDue = some due ∧ due ≤ s.view.now ∧
      s.view.pwrBusy st = true ∧ s.view.pwrTarget st = 3 ∧ s.view.pwr st ≠ 1 ∧ ((s.view.stn st).pwrDue.isSome = true ∨
      s.view.pwrGoal st ≤ s.view.pwr st) ∧ (s.view.stn st).pwrWait = false) ∧
    (∃ (s : State) (st : Nat), s.Ready ∧ st < 16 ∧ (s.view.stn st).pwrDue = none ∧ s.view.pwr st ≠ 0 ∧ s.view.pwr st <
      s.view.pwrGoal st ∧ (¬(s.view.pwrAdmitted (some st) ≤ bits (s.reg Reg.pwrCap) 11 0 ∧ ∀ (k : Nat), k < st →
      (s.view.stn k).pwrWait = false))) ∧
    (∃ (s : State) (st : Nat) (due : Nat), s.Ready ∧ st < 16 ∧ (s.view.stn st).pwrDue = some due ∧ s.view.now < due) ∧
    (∃ (s : State) (st : Nat) (due : Nat), s.Ready ∧ st < 16 ∧ (s.view.stn st).pwrDue = some due ∧ due ≤ s.view.now ∧
      s.view.pwrBusy st = true ∧ s.view.pwrTarget st = 2 ∧ s.view.pwr st = 1) :=
  ⟨⟨setD (fun d => { d with chip := { d.chip with spareRow := List.replicate 16 5 } }) fw, 15, 4, 4, by decide +kernel⟩,
    ⟨setD (fun d => { d with chip := { d.chip with spareRow := List.replicate 16 5 } }) fw, 15, by decide +kernel⟩,
    ⟨setD (fun d => { d with chip := { d.chip with spareRow := List.replicate 16 5 } }) fw, 15, by decide +kernel⟩,
    ⟨PW {} 2400 5, 15, by decide +kernel⟩,
    ⟨PW {pwrDue := some 1000} 2400 (2 + 3 * 4), 15, 1000, by decide +kernel⟩,
    ⟨PW {} 1 (2 + 2 * 4), 15, by decide +kernel⟩,
    ⟨PW {pwrDue := some 1001} 2400 (2 + 3 * 4), 15, 1001, by decide +kernel⟩,
    ⟨setD (fun d => {d with rls := [(15*256+255, [{}]), (14*256, [{}])], fills := [(15*65536, {})]}) (PW {pwrDue := some 1000} 2400 (1 + 2 * 4)),
      15, 1000, by decide +kernel⟩⟩

/-- States and operands that meet the hypotheses of `Obligations.GangerChecks`. -/
theorem witness_GangerChecks :
    (∃ (s : State), s.Ready ∧ bit (s.reg Reg.gangStatus) 0 = true ∧ s.dev.gang.next ≤ s.view.now ∧ allDiffer
      s.dev.gang.enable = true) ∧
    (∃ (s : State), s.Ready ∧ (bit (s.reg Reg.gangStatus) 0 = false ∨ s.view.now < s.dev.gang.next)) ∧
    (∃ (s : State) (e : Nat) (i : Nat) (c : Nat) (n : Nat) (z : Nat), s.Ready ∧ bit (s.reg Reg.gangStatus) 0 = true ∧
      s.dev.gang.next ≤ s.view.now ∧ s.dev.gang.interval = [i, i, i] ∧ s.dev.gang.cursor = [c, c, c] ∧
      s.dev.gang.total = [n, n, n] ∧ z ≠ e ∧ s.dev.gang.enable = [e, z, e] ∧ s.dev.consists = []) ∧
    (∃ (s : State) (e : Nat) (i : Nat) (c : Nat) (n : Nat) (x : Nat) (y : Nat) (left : List Nat) (k : Consist) (f :
      Frame), s.Ready ∧ bit (s.reg Reg.gangStatus) 0 = true ∧ s.dev.gang.next ≤ s.view.now ∧ s.dev.gang.interval = [i,
      i, i] ∧ s.dev.gang.cursor = [c, c, c] ∧ s.dev.gang.total = [n, n, n] ∧ s.dev.gang.enable = [e, e, e] ∧
      s.view.gangFrames = x :: y :: left ∧ c = x ∧ (∀ (z : Nat), z ∈ y :: left → gangOrder x < gangOrder z) ∧
      s.dev.gang.expect = s.dev.gang.counted + 1 + (y :: left).length ∧ s.view.consist (x / 2 ^ 33) = some k ∧
      k.frames[x % 2 ^ 32]? = some f ∧ f.bad = false ∧ x / 2 ^ 32 % 2 = 1) ∧
    (∃ (s : State) (e : Nat) (i : Nat) (c : Nat) (n : Nat) (x : Nat) (y : Nat) (left : List Nat) (k : Consist) (f :
      Frame) (st : Nat) (p : Bool × Nat), s.Ready ∧ bit (s.reg Reg.gangStatus) 0 = true ∧ s.dev.gang.next ≤ s.view.now
      ∧ s.dev.gang.interval = [i, i, i] ∧ s.dev.gang.cursor = [c, c, c] ∧ s.dev.gang.total = [n, n, n] ∧
      s.dev.gang.enable = [e, e, e] ∧ s.view.gangFrames = x :: y :: left ∧ c = x ∧ (∀ (z : Nat), z ∈ y :: left →
      gangOrder x < gangOrder z) ∧ s.dev.gang.expect = s.dev.gang.counted + 1 + (y :: left).length ∧ s.view.consist (x
      / 2 ^ 33) = some k ∧ k.frames[x % 2 ^ 32]? = some f ∧ f.bad = false ∧ x / 2 ^ 32 % 2 = 0 ∧ s.view.frameStations
      f = [st] ∧ s.view.planesOf st (x / 2 ^ 33) (x % 2 ^ 32) f.region = [p] ∧ s.view.holds f st p.fst = false ∧
      s.view.goldenIsBad (x / 2 ^ 33) = false) :=
  ⟨⟨gg (fun g => {g with next := 1000, enable := [1,2,3]}) fw, by decide +kernel⟩,
    ⟨setR Reg.gangStatus 0 fw, by decide +kernel⟩,
    ⟨gg (fun g => {g with next := 1000, enable := [1,2,1], interval := [65536, 65536, 65536]}) fw, 1, 65536, 0, 0, 2, by decide +kernel⟩,
    ⟨GS 4294967296 (fun g => {g with expect := 6}) resident, 1, 7, 4294967296, 9, 4294967296, 4294967297,
      ([] : List Nat), (resident.view.consist 0).getD {}, nth {} ff 0, by decide +kernel⟩,
    ⟨GS 1 (fun g => {g with expect := 4+1+2}) (stn 0 {job := some 9} (job {job0 with consist := 0} 9 resident)), 1,
      7, 1, 9, 1, 4294967296, ([4294967297] : List Nat), (resident.view.consist 0).getD {}, nth {} ff 1, 0,
      (false, 9), by decide +kernel⟩⟩

/-- States and operands that meet the hypotheses of `Obligations.EventTaken`. -/
theorem witness_EventTaken :
    (∃ (s : State), s.Ready ∧ s.dev.host.events = []) ∧
    (∃ (s : State) (e : Event), s.Ready ∧ s.dev.host.events = [e] ∧ (¬(bit (s.reg Reg.evqCtrl) 0 = true ∧ bit (s.reg
      Reg.evqStatus) 14 = false))) ∧
    (∃ (s : State) (e : Event), s.Ready ∧ s.dev.host.events = [e] ∧ (bit (s.reg Reg.evqCtrl) 0 = true ∧ bit (s.reg
      Reg.evqStatus) 14 = false) ∧ s.view.busMaster = true ∧ (bits (s.reg Reg.evqStatus) 11 0 + 2 ^ bits (s.reg
      Reg.evqCtrl) 4 1 - bits (s.reg Reg.evqHead) 11 0) % 2 ^ bits (s.reg Reg.evqCtrl) 4 1 = 2 ^ bits (s.reg
      Reg.evqCtrl) 4 1 - 1) ∧
    (∃ (s : State), s.Ready ∧ (bit (s.reg Reg.evqCtrl) 0 = true ∧ bit (s.reg Reg.evqStatus) 14 = false) ∧
      s.view.busMaster = false) ∧
    (∃ (s : State) (e : Event), s.Ready ∧ s.dev.host.events = [e] ∧ (bit (s.reg Reg.evqCtrl) 0 = true ∧ bit (s.reg
      Reg.evqStatus) 14 = false) ∧ s.view.busMaster = true ∧ (bits (s.reg Reg.evqStatus) 11 0 + 2 ^ bits (s.reg
      Reg.evqCtrl) 4 1 - bits (s.reg Reg.evqHead) 11 0) % 2 ^ bits (s.reg Reg.evqCtrl) 4 1 ≠ 2 ^ bits (s.reg
      Reg.evqCtrl) 4 1 - 1) :=
  ⟨⟨on 4 3 3 0 fw, by decide +kernel⟩,
    ⟨EV [ev] fw, ev, by decide +kernel⟩,
    ⟨EV [ev] (on 4 3 4 0 fw), ev, by decide +kernel⟩,
    ⟨EV [ev] (on 4 3 3 0 (setD (fun d => { d with host := { d.host with cfg := [] } }) fw)), by decide +kernel⟩,
    ⟨EV [ev] (on 4 15 3 1 fw), ev, by decide +kernel⟩⟩

/-- States and operands that meet the hypotheses of `Obligations.EventOrder`. -/
theorem witness_EventOrder :
    (∃ (s : State), s.Ready ∧ s.view.busMaster = true ∧ s.dev.host.events ≠ [] ∧ (∀ (e : Event), e ∈ s.dev.host.events
      → e.addr < 2 ^ 26 ∧ e.bit < 32)) :=
  ⟨EV [{ev with due := 11}, {ev with bit := 30, info := 3}, {ev with bit := 30}, ev] (on 12 4095 3 1 fw), by decide +kernel⟩

end Sys2Proof.Tests
end

section
/-! Proofs about the operations at a token (chapter 08): what a note of a late result, an answer to a signal box, a grant
and a wait that reaches its slot change, and when held waits are looked at. -/

namespace Sys2Proof.Machine
open Sys2Proof

/-! ### Stations and signal boxes after an update -/

theorem Mach.stn_setStn_eq_ite (m : Mach) (n n' : Nat) (x : Station) :
    (m.setStn n x).stn n' = if n = n' then x else m.stn n' := by
  simp [Mach.stn, Mach.setStn]

theorem Mach.stn_modStn (m : Mach) (n n' : Nat) (f : Station → Station) :
    (m.modStn n f).stn n' = if n = n' then f (m.stn n) else m.stn n' :=
  m.stn_setStn_eq_ite n n' _

/-- What an update of one station keeps of each station, it keeps of all. -/
theorem Mach.stn_modStn_keeps {β : Type} (m : Mach) (n n' : Nat) {f : Station → Station} (p : Station → β)
    (h : ∀ x, p (f x) = p x) : p ((m.modStn n f).stn n') = p (m.stn n') := by
  rw [Mach.stn_modStn]
  split
  next e => rw [h, e]
  next => rfl

theorem Mach.sb_sbReply (m : Mach) (st : Nat) (r : Reply) :
    (m.sbReply st r).sb st = { m.sb st with replies := (m.sb st).replies ++ [r] } := by
  simp [Mach.sbReply, Mach.modSb, Mach.sb, Mach.stn_modStn]

@[simp] theorem Mach.sbReply_log (m : Mach) (st : Nat) (r : Reply) : (m.sbReply st r).log = m.log := rfl
@[simp] theorem Mach.sbReply_token (m : Mach) (st n t : Nat) (r : Reply) :
    (m.sbReply st r).token n t = m.token n t := rfl
@[simp] theorem Mach.sbReply_tokOps (m : Mach) (st n : Nat) (r : Reply) :
    ((m.sbReply st r).stn n).tokOps = (m.stn n).tokOps :=
  m.stn_modStn_keeps st n Station.tokOps fun _ => rfl

/-! ### A note of a late result touches the list of late results and the age counter alone (R310) -/

/-- A note of a late result makes no note, or is the next age with one more entry in the station's list. -/
theorem Mach.noteResult_cases (m : Mach) (u : UnitRef) (late act : Nat) :
    m.noteResult u late act = m ∨ ∃ y, m.noteResult u late act =
      m.nextAge.2.modStn u.st fun s => { s with late := s.late ++ [y] } := by
  unfold Mach.noteResult
  split
  · exact .inl rfl
  · exact .inr ⟨_, rfl⟩

@[simp] theorem Mach.noteResult_log (m : Mach) (u : UnitRef) (late act : Nat) :
    (m.noteResult u late act).log = m.log := by
  obtain h | ⟨y, h⟩ := m.noteResult_cases u late act
  · rw [h]
  · rw [h]
    rfl

@[simp] theorem Mach.noteResult_token (m : Mach) (u : UnitRef) (late act n t : Nat) :
    (m.noteResult u late act).token n t = m.token n t := by
  obtain h | ⟨y, h⟩ := m.noteResult_cases u late act
  · rw [h]
  · rw [h]
    rfl

/-- A note of a late result keeps whatever does not read the list of late results. -/
theorem Mach.noteResult_stn_keeps {β : Type} (m : Mach) (u : UnitRef) (late act n : Nat) (p : Station → β)
    (hp : ∀ (x : Station) l, p { x with late := l } = p x) : p ((m.noteResult u late act).stn n) = p (m.stn n) := by
  obtain h | ⟨y, h⟩ := m.noteResult_cases u late act
  · rw [h]
  · rw [h, Mach.stn_modStn_keeps _ _ _ p fun x => hp x _]
    rfl

@[simp] theorem Mach.noteResult_tokOps (m : Mach) (u : UnitRef) (late act n : Nat) :
    ((m.noteResult u late act).stn n).tokOps = (m.stn n).tokOps :=
  m.noteResult_stn_keeps u late act n Station.tokOps fun _ _ => rfl

@[simp] theorem Mach.noteResult_sb (m : Mach) (u : UnitRef) (late act n : Nat) :
    (m.noteResult u late act).sb n = m.sb n :=
  m.noteResult_stn_keeps u late act n Station.sb fun _ _ => rfl

/-! ### Answers and grants (R210, R220) -/

theorem Mach.cyc_of_job {m : Mach} {st h : Nat} {j : Job} (hs : (m.stn st).job = some h) (hj : m.job h = some j) :
    m.cyc st = j.cyc := by
  simp [Mach.cyc, Mach.stnJob, hs, hj]

theorem Mach.wakeLatency_of_job {m : Mach} {h : Nat} {j : Job} (tokSt st : Nat) (hj : m.job h = some j) :
    m.wakeLatency tokSt st h = m.lat j Config.tkWake + m.stnLatency tokSt st := by
  simp [Mach.wakeLatency, hj]

/-- An effect for the present job of a station acts on the machine as it stands. -/
theorem Mach.inJob_present {m : Mach} {st h : Nat} (hs : (m.stn st).job = some h) (f : Mach → Mach) :
    m.inJob st h f = f m := by
  simp [Mach.inJob, Mach.asOld, hs]

/-- The answer to the signal box of a job's station is one reply, due a latency after the job's present cycle. -/
theorem Mach.sbAnswer_present {m : Mach} {st h : Nat} {j : Job} (hs : (m.stn st).job = some h) (hj : m.job h = some j)
    (id lat : Nat) (r : Reply) :
    m.sbAnswer st h id lat r =
      (m.sbReply st { r with due := j.cyc + lat }).noteResult (sbUnit st) (m.lateOf j id) (j.cyc + lat) := by
  rw [Mach.sbAnswer, Mach.inJob_present hs, Mach.cyc_of_job hs hj, hj]
  rfl

/-- A slot after a wait of it is granted: a wait that consumes moves its cursor by its count. -/
def Token.granted (x : Token) (w : Waiter) : Token :=
  { x with
    cons := if w.consume then setNth x.cons w.cursor ((nth 0 x.cons w.cursor + w.k) % 2 ^ 32) else x.cons
    waiters := removeFirst (· == w) x.waiters }

/-- The grant of a wait of a signal box: the slot is granted, and the box is answered for the slot's owner. -/
theorem Mach.grantWait_local {m : Mach} {st t : Nat} {w : Waiter} (hw : w.pkt = none) :
    m.grantWait st t w =
      (m.setToken st t ((m.token st t).granted w)).sbAnswer w.st (m.token st t).owner Config.tkWake
        (m.wakeLatency st w.st (m.token st t).owner) { write := false } := by
  rw [Mach.grantWait, hw]
  rfl

/-- What the grant of a wait of a signal box leaves: no write, the granted slot, and one more reply at the box. -/
theorem Mach.grantWait_local_reads {m : Mach} {st t : Nat} {w : Waiter} {j : Job} (hw : w.pkt = none)
    (hs : (m.stn w.st).job = some (m.token st t).owner) (hj : m.job (m.token st t).owner = some j) :
    (m.grantWait st t w).log = m.log ∧ ((m.grantWait st t w).stn st).tokOps = (m.stn st).tokOps ∧
      (m.grantWait st t w).token st t = (m.token st t).granted w ∧
      (m.grantWait st t w).sb w.st = { m.sb w.st with
        replies := (m.sb w.st).replies ++
          [{ write := false, due := j.cyc + (m.lat j Config.tkWake + m.stnLatency st w.st) }] } := by
  rw [Mach.grantWait_local hw, Mach.wakeLatency_of_job st w.st hj,
    Mach.sbAnswer_present (m := m.setToken st t _) hs hj]
  refine ⟨by simp, ?_, by simp, ?_⟩
  · rw [Mach.noteResult_tokOps, Mach.sbReply_tokOps]
    rfl
  · rw [Mach.noteResult_sb, Mach.sb_sbReply]
    rfl

/-! ### When held waits are looked at (R210, R214) -/

/-- A wait is satisfied when PROD, less the cursor and the count, is below 2^31 modulo 2^32 (R210). -/
theorem tokSatisfied_iff {prod cons k : Nat} (hc : cons < 2 ^ 32) (hk : k < 2 ^ 32) :
    tokSatisfied prod cons k = true ↔ ((prod : Int) - cons - k) % 2 ^ 32 < 2 ^ 31 := by
  rw [tokSatisfied, decide_eq_true_iff]
  omega

/-- A selection over the stations finds the waits of one station once, in the place of that station. -/
theorem flatMap_range_ite_eq {α : Type} (l : List α) {a n : Nat} (h : a < n) :
    (List.range n).flatMap (fun i => if a = i then l else []) = l := by
  induction n with
  | zero => omega
  | succ n ih =>
    rw [List.range_succ, List.flatMap_append, List.flatMap_singleton]
    by_cases e : a = n
    · subst e
      have hnone : (List.range a).flatMap (fun i => if a = i then l else []) = [] :=
        List.flatMap_eq_nil_iff.mpr fun i hi => if_neg (Nat.ne_of_gt (List.mem_range.mp hi))
      simp [hnone]
    · rw [ih (by omega), if_neg e, List.append_nil]

/-- A slot that holds one wait, of a signal box, grants it exactly when the slot is ACTIVE and the wait satisfied. -/
theorem Mach.settleToken_singleton {m : Mach} {st t : Nat} {w : Waiter} (hw : (m.token st t).waiters = [w])
    (hp : w.pkt = none) (hs : w.st < 16) :
    m.settleToken st t =
      if (m.token st t).state == .active && tokSatisfied (m.token st t).prod (nth 0 (m.token st t).cons w.cursor) w.k
      then m.grantWait st t w else m := by
  have honly : ∀ n, [w].filter (fun w => w.pkt.isNone && w.st == n) = if w.st = n then [w] else [] := fun n => by
    simp [List.filter_cons, hp]
  have hremote : [w].filter (fun w => w.pkt.isSome) = [] := by simp [hp]
  simp only [Mach.settleToken, hw, honly, hremote, flatMap_range_ite_eq [w] hs, List.append_nil, List.foldl_cons,
    List.foldl_nil]

/-- No signal and no wait of this device has reached a slot of a station. -/
def Mach.noTokOp (m : Mach) (st t : Nat) : Prop :=
  ∀ y ∈ (m.stn st).tokOps, 1 < y.kind ∨ m.tokReached t y = false ∨ m.jobLive y.job = false

theorem Mach.tokOpAt_eq_false_iff (m : Mach) (st t : Nat) : m.tokOpAt st t [0, 1] = false ↔ m.noTokOp st t := by
  rw [Mach.tokOpAt, List.any_eq_false]
  refine forall₂_congr fun y _ => ?_
  have hkind : [0, 1].contains y.kind = true ↔ ¬ 1 < y.kind := by
    simp only [List.contains_iff_mem, List.mem_cons, List.not_mem_nil, or_false]
    omega
  rw [Bool.and_eq_true, Bool.and_eq_true, hkind, Decidable.not_and_iff_not_or_not, Decidable.not_and_iff_not_or_not,
    Decidable.not_not, Bool.not_eq_true, Bool.not_eq_true, or_assoc, or_comm (a := m.jobLive y.job = false)]

/-- No signal and no wait is outstanding at a slot, of this device or remote. -/
def Mach.quietAt (m : Mach) (st t : Nat) : Prop :=
  m.noTokOp st t ∧ m.remoteAt st t opSignal m.dev.pktNext = false ∧ m.remoteAt st t opWait m.dev.pktNext = false

theorem Mach.quietAt_iff (m : Mach) (st t : Nat) : m.quietAt st t ↔
    (m.tokOpAt st t [0, 1] || m.remoteAt st t opSignal m.dev.pktNext || m.remoteAt st t opWait m.dev.pktNext) = false := by
  rw [Mach.quietAt, ← Mach.tokOpAt_eq_false_iff, Bool.or_eq_false_iff, Bool.or_eq_false_iff, and_assoc]

theorem Mach.settleDue_of_quietAt {m : Mach} {st t : Nat} (h : m.quietAt st t) :
    m.settleDue st t = m.settleToken st t :=
  if_neg (Bool.not_eq_true _ ▸ m.quietAt_iff st t |>.mp h)

theorem Mach.settleDue_of_not_quietAt {m : Mach} {st t : Nat} (h : ¬ m.quietAt st t) : m.settleDue st t = m :=
  if_pos (Bool.not_eq_false _ ▸ mt (m.quietAt_iff st t).mpr h)

/-- Which remote requests have arrived at a slot is a matter of the packets, the registers and the part alone. -/
theorem Mach.remoteAt_congr {m m' : Mach} (hmem : m'.mem = m.mem) (hlog : m'.log = m.log)
    (hpkts : m'.dev.pkts = m.dev.pkts) (hchip : m'.dev.chip = m.dev.chip) (st t op below : Nat) :
    m'.remoteAt st t op below = m.remoteAt st t op below := by
  have hheld : ∀ k, m'.pktHeld k = m.pktHeld k := fun k => by
    rw [Mach.pktHeld, Mach.raw_congr m m' hmem hlog, Mach.pktHeld]
  have hhead : ∀ id k, m'.pktHead id k = m.pktHead id k := fun id k => by rw [Mach.pktHead, hpkts, Mach.pktHead]
  have hrequest : ∀ id, m'.request id op = m.request id op := fun id => by
    simp only [Mach.request, hpkts, hheld, hhead]
  have hslot : ∀ k, m'.atSlot k st t = m.atSlot k st t := fun k => by
    rw [Mach.atSlot, Mach.tokenAt, Mach.stations, hchip, Mach.atSlot, Mach.tokenAt, Mach.stations]
  simp only [Mach.remoteAt, hpkts, hrequest, hslot]

/-! ### A wait that reaches its slot (R214) -/

/-- The wait that an operation of a signal box holds on its slot. -/
def TokOp.waiter (o : TokOp) : Waiter := { st := o.srcSt, cursor := o.cursor, k := o.val, consume := !o.flag }

/-- The machine in which an operation travels to a token of a station no longer. -/
def Mach.dropTokOp (m : Mach) (st : Nat) (o : TokOp) : Mach :=
  m.modStn st fun s => { s with tokOps := removeFirst (· == o) s.tokOps }

/-- The machine after a wait has reached its slot: it travels no longer, and the slot holds it. -/
def Mach.holdWait (m : Mach) (st t : Nat) (o : TokOp) : Mach :=
  (m.dropTokOp st o).setToken st t { m.token st t with waiters := (m.token st t).waiters ++ [o.waiter] }

section Held
variable (m : Mach) (st t : Nat) (o : TokOp)

theorem Mach.dropTokOp_tokOps : ((m.dropTokOp st o).stn st).tokOps = removeFirst (· == o) (m.stn st).tokOps := by
  rw [Mach.dropTokOp, Mach.stn_modStn, if_pos rfl]

theorem Mach.dropTokOp_job (n : Nat) : ((m.dropTokOp st o).stn n).job = (m.stn n).job :=
  m.stn_modStn_keeps st n Station.job fun _ => rfl

theorem Mach.dropTokOp_sb (n : Nat) : (m.dropTokOp st o).sb n = m.sb n :=
  m.stn_modStn_keeps st n Station.sb fun _ => rfl

@[simp] theorem Mach.holdWait_token : (m.holdWait st t o).token st t =
    { m.token st t with waiters := (m.token st t).waiters ++ [o.waiter] } :=
  Mach.token_setToken _ _ _ _

theorem Mach.holdWait_stn (n : Nat) : (m.holdWait st t o).stn n = (m.dropTokOp st o).stn n := rfl

theorem Mach.holdWait_sb (n : Nat) : (m.holdWait st t o).sb n = m.sb n := m.dropTokOp_sb st o n

/-- A wait that is held moves no packet. -/
theorem Mach.holdWait_remoteAt (op below : Nat) : (m.holdWait st t o).remoteAt st t op below = m.remoteAt st t op below :=
  Mach.remoteAt_congr rfl rfl rfl rfl st t op below

theorem Mach.holdWait_pktNext : (m.holdWait st t o).dev.pktNext = m.dev.pktNext := rfl

theorem Mach.holdWait_noTokOp : (m.holdWait st t o).noTokOp st t ↔
    ∀ y ∈ removeFirst (· == o) (m.stn st).tokOps, 1 < y.kind ∨ m.tokReached t y = false ∨ m.jobLive y.job = false := by
  rw [Mach.noTokOp, Mach.holdWait_stn, Mach.dropTokOp_tokOps]
  rfl

end Held

/-- The first operation at a slot that is not POISONED, a wait of a job in progress that nothing stands before, is held
there, and the slot's waits are looked at where nothing more is outstanding. -/
theorem effTokenOpArrival_wait {m : Mach} {st t : Nat} {o : TokOp}
    (hfirst : leastBy tokKey ((m.stn st).tokOps.filter (m.tokReached t)) = some o) (hheld : m.tokHeld st t 1 = false)
    (hkind : o.kind = 1) (hlive : m.jobLive o.job = true) (hstate : (m.token st t).state ≠ .poisoned) :
    effTokenOpArrival st t m = (m.holdWait st t o).settleDue st t := by
  have hheld' : ¬ m.tokHeld st t o.kind = true := by simp [hkind, hheld]
  have hlive' : ¬ m.jobLive o.job = false := by simp [hlive]
  have hstate' : ¬ ((m.token st t).state == .poisoned) = true := by simpa using hstate
  rw [effTokenOpArrival, hfirst]
  exact (if_neg hheld').trans <| (if_neg (by omega)).trans <| (if_neg hlive').trans <| (if_pos hkind).trans <|
    congrArg (Mach.settleDue · st t) (if_neg hstate')

/-- Before a wait, no remote signal stands at the slot (R214). -/
theorem Mach.remoteAt_opSignal_of_tokHeld {m : Mach} {st t : Nat} (h : m.tokHeld st t 1 = false) :
    m.remoteAt st t opSignal m.dev.pktNext = false := by
  simp only [Mach.tokHeld, Bool.or_eq_false_iff] at h
  obtain ⟨⟨-, hsignal⟩, -⟩ := h
  simpa using hsignal

/-- A wait of a job that runs on its station comes first at a slot of that job, which is ACTIVE and holds no wait, and
nothing stands before it. -/
structure Mach.WaitArrives (m : Mach) (st t : Nat) (o : TokOp) (j : Job) : Prop where
  first : leastBy tokKey ((m.stn st).tokOps.filter (m.tokReached t)) = some o
  free : m.tokHeld st t 1 = false
  isWait : o.kind = 1
  live : m.jobLive o.job = true
  job : m.job o.job = some j
  onStation : (m.stn o.srcSt).job = some o.job
  station : o.srcSt < 16
  active : (m.token st t).state = .active
  owner : (m.token st t).owner = o.job
  alone : (m.token st t).waiters = []

/-- A wait is the last signal or wait outstanding at its slot. -/
def Mach.lastAt (m : Mach) (st t : Nat) (o : TokOp) : Prop :=
  (∀ y ∈ removeFirst (· == o) (m.stn st).tokOps, 1 < y.kind ∨ m.tokReached t y = false ∨ m.jobLive y.job = false) ∧
    m.remoteAt st t opWait m.dev.pktNext = false

namespace Mach.WaitArrives
variable {m : Mach} {st t : Nat} {o : TokOp} {j : Job}

theorem effect (h : m.WaitArrives st t o j) : effTokenOpArrival st t m = (m.holdWait st t o).settleDue st t :=
  effTokenOpArrival_wait h.first h.free h.isWait h.live (by simp [h.active])

theorem quietAt_iff (h : m.WaitArrives st t o j) : (m.holdWait st t o).quietAt st t ↔ m.lastAt st t o := by
  rw [Mach.quietAt, Mach.holdWait_noTokOp, Mach.holdWait_pktNext, Mach.holdWait_remoteAt, Mach.holdWait_remoteAt,
    and_iff_right (Mach.remoteAt_opSignal_of_tokHeld h.free), Mach.lastAt]

theorem held_token (h : m.WaitArrives st t o j) :
    (m.holdWait st t o).token st t = { m.token st t with waiters := [o.waiter] } := by
  rw [Mach.holdWait_token, h.alone, List.nil_append]

/-- Once nothing more is outstanding, the wait alone decides whether it is granted. -/
theorem settleToken_eq (h : m.WaitArrives st t o j) :
    (m.holdWait st t o).settleToken st t =
      if tokSatisfied (m.token st t).prod (nth 0 (m.token st t).cons o.cursor) o.val
      then (m.holdWait st t o).grantWait st t o.waiter else m.holdWait st t o := by
  rw [Mach.settleToken_singleton (w := o.waiter) (by rw [h.held_token]) rfl h.station, h.held_token, h.active,
    beq_self_eq_true, Bool.true_and]
  rfl

/-- A wait that is satisfied once nothing more is outstanding is granted. -/
theorem effect_granted (h : m.WaitArrives st t o j) (hl : m.lastAt st t o)
    (hs : tokSatisfied (m.token st t).prod (nth 0 (m.token st t).cons o.cursor) o.val = true) :
    effTokenOpArrival st t m = (m.holdWait st t o).grantWait st t o.waiter := by
  rw [h.effect, Mach.settleDue_of_quietAt (h.quietAt_iff.mpr hl), h.settleToken_eq, if_pos hs]

/-- A wait that is not satisfied, or not the last outstanding, is held. -/
theorem effect_held (h : m.WaitArrives st t o j)
    (hn : tokSatisfied (m.token st t).prod (nth 0 (m.token st t).cons o.cursor) o.val = false ∨ ¬ m.lastAt st t o) :
    effTokenOpArrival st t m = m.holdWait st t o := by
  rw [h.effect]
  by_cases hl : m.lastAt st t o
  · rw [Mach.settleDue_of_quietAt (h.quietAt_iff.mpr hl), h.settleToken_eq, hn.resolve_right (not_not_intro hl)]
    rfl
  · exact Mach.settleDue_of_not_quietAt (mt h.quietAt_iff.mp hl)

/-- The slot after its only wait was granted. -/
theorem granted_token (h : m.WaitArrives st t o j) :
    ((m.holdWait st t o).token st t).granted o.waiter = { m.token st t with
      cons := if o.flag then (m.token st t).cons
        else setNth (m.token st t).cons o.cursor ((nth 0 (m.token st t).cons o.cursor + o.val) % 2 ^ 32) } := by
  rw [h.held_token]
  have hnone : removeFirst (· == o.waiter) [o.waiter] = (m.token st t).waiters := by simp [removeFirst, h.alone]
  rw [Token.granted, hnone]
  cases hf : o.flag <;> simp [TokOp.waiter, hf]

/-- What a granted wait leaves: the slot with its cursor, and the reply on its way to the waiter. -/
theorem granted_reads (h : m.WaitArrives st t o j) :
    ((m.holdWait st t o).grantWait st t o.waiter).log = m.log ∧
      (((m.holdWait st t o).grantWait st t o.waiter).stn st).tokOps = removeFirst (· == o) (m.stn st).tokOps ∧
      ((m.holdWait st t o).grantWait st t o.waiter).token st t = { m.token st t with
        cons := if o.flag then (m.token st t).cons
          else setNth (m.token st t).cons o.cursor ((nth 0 (m.token st t).cons o.cursor + o.val) % 2 ^ 32) } ∧
      ((m.holdWait st t o).grantWait st t o.waiter).sb o.srcSt = { m.sb o.srcSt with
        replies := (m.sb o.srcSt).replies ++
          [{ write := false, due := j.cyc + m.lat j Config.tkWake + m.stnLatency st o.srcSt }] } := by
  have howner : ((m.holdWait st t o).token st t).owner = o.job := by rw [h.held_token, h.owner]
  have hstn : ((m.holdWait st t o).stn o.srcSt).job = some ((m.holdWait st t o).token st t).owner := by
    rw [howner, Mach.holdWait_stn, Mach.dropTokOp_job, h.onStation]
  have hjob : (m.holdWait st t o).job ((m.holdWait st t o).token st t).owner = some j := howner ▸ h.job
  obtain ⟨hlog, hops, htoken, hsb⟩ := Mach.grantWait_local_reads (w := o.waiter) rfl hstn hjob
  refine ⟨hlog, ?_, htoken.trans h.granted_token, ?_⟩
  · rw [hops, Mach.holdWait_stn, Mach.dropTokOp_tokOps]
  · rw [Nat.add_assoc, ← Mach.holdWait_sb m st t o]
    exact hsb

end Mach.WaitArrives

/-- A command that logs no write leaves the stores. -/
theorem State.after_mem {s : State} {m : Mach} (h : m.log = {}) : (s.after m).mem = s.mem := by
  rw [State.after, h]
  rfl

/-- Settles O33: a wait is held on its slot first, and R210 decides at once whether it is granted where no signal or wait
of the cycle is outstanding. -/
theorem tokenWaits : Obligations.TokenWaits := by
  unfold Obligations.TokenWaits
  refine ⟨by decide, ?_⟩
  intro s st k o j hready hst hk hsrc hfirst hfree hkind hlive hjob hstn hactive howner halone
    x rest last cons due sb _ hcons hval
  have h : s.view.WaitArrives st k o j :=
    ⟨hfirst, hfree, hkind, hlive, hjob, hstn, hsrc, hactive, howner, halone⟩
  have hsat := tokSatisfied_iff (prod := x.prod) hcons hval
  have hform : (Instr.tokenOpArrival st k).wellFormed = true :=
    Bool.and_eq_true_iff.mpr ⟨decide_eq_true hst, decide_eq_true hk⟩
  refine ⟨fun hlast hd => exec_run (fun _ => rfl) hready hform ?_, fun hn => exec_run (fun _ => rfl) hready hform ?_⟩
  · obtain ⟨hlog, hops, htoken, hsb⟩ := h.granted_reads
    rw [h.effect_granted hlast (hsat.mpr hd)]
    exact ⟨State.after_mem hlog, hops, htoken, hsb⟩
  · have hn' := hn.imp_left fun hd => Bool.eq_false_iff.mpr (mt hsat.mp (Int.not_lt.mpr hd))
    rw [h.effect_held hn']
    exact ⟨State.after_mem rfl, Mach.dropTokOp_tokOps _ st o, h.held_token, Mach.dropTokOp_sb _ st o _, rfl⟩

end Sys2Proof.Machine
end

section
/-! The rules of operations of the host's side that proofs share: one register written, a host write of a word of BAR0,
and a reply (R11, R349). -/

namespace Sys2Proof.Machine
open Sys2Proof

/-! ### One register written -/

theorem State.after_setRaw_dev (s : State) (o v : Nat) : (s.after (s.view.setRaw o v)).dev = s.dev := rfl

/-- A command whose one write is of a register leaves that register with the value. -/
theorem State.regsBecome_setRaw (s : State) (o : Nat) {v : Nat} (hv : v < 2 ^ 64) :
    s.RegsBecome (s.after (s.view.setRaw o v)) [(o, v)] := by
  have hwrote : Mach.Wrote s (s.view.setRaw o v) [o] := Mach.wrote_view.setRaw (List.mem_singleton_self o)
  refine ⟨hwrote.keepsBut, List.forall_mem_singleton.mpr ?_⟩
  rw [hwrote.reg, Mach.raw_setRaw, if_pos rfl, Nat.mod_eq_of_lt hv]

theorem State.regsBecome_setBit (s : State) (o : Nat) {i : Nat} (hi : i < 64) :
    s.RegsBecome (s.after (s.view.setBit o i)) [(o, s.reg o ||| 2 ^ i)] :=
  s.regsBecome_setRaw o (or_two_pow_lt _ i 64 (s.reg_lt o) hi)

/-! ### A host write of a word of BAR0 (R11) -/

/-- The host's aligned write of a word of BAR0 is one write of 32 bits. -/
theorem effRegisterWrite_word {o : Nat} (h : o % 4 = 0) (v : W64) (m : Mach) :
    effRegisterWrite 0 o 4 v m = m.write32 o (v.toNat % 2 ^ 32) :=
  (if_pos rfl).trans (if_pos ⟨rfl, h⟩)

/-- Between the Control Office and the stations, a write that BAR0 takes is one of the blocks'. -/
theorem Mach.write32_block {m : Mach} {o : Nat} (ho : m.bar0Open o = true) (hlo : 0x200000 ≤ o) (hhi : o < 0x1000000)
    (v : Nat) : m.write32 o v = m.blockWrite o v := by
  simp [Mach.write32, ho, hhi, Nat.not_lt.mpr hlo]

/-! ### A reply (R349) -/

@[simp] theorem bit_zero (i : Nat) : bit 0 i = false := by simp [bit]
@[simp] theorem bit_b2n (b : Bool) : bit (b2n b) 0 = b := by cases b <;> rfl

/-- The two posted writes of a reply, newest first. -/
def replyWrites (a : Nat) (c : Cmd) (status detail value : Nat) (phase : Bool) : List Output :=
  [.hostWrite (a + 28) (toLe 4 (pack [(0, 12, c.entry), (31, 1, b2n phase)])),
    .hostWrite a (toLe 2 status ++ toLe 2 c.opcode ++ toLe 4 c.tag ++ toLe 8 detail ++ toLe 8 value ++ zeros 4)]

/-- The machine in which the command `c` of a ring has been answered: the ring is free, its status shows no command and
the phase of the reply, and the outputs `out` went out. -/
def Mach.answered (m : Mach) (r : Nat) (c : Cmd) (phase : Bool) (pend : Nat) (out : List Output) : Mach :=
  let x := m.ring r
  let m := m.setRing r { x with cmd := none, wrote := x.wrote || c.entry == 0 }
  let m := (m.setField (Reg.ringStatus r) 12 12 0).setField (Reg.ringStatus r) 13 13 (b2n phase)
  { m with dev := { m.dev with host := { m.dev.host with msixPend := pend }, out := out ++ m.dev.out } }

theorem Reg.ringStatus_ne_ringRplBase (r : Nat) : Reg.ringStatus r ≠ Reg.ringRplBase r := by
  simp [Reg.ringStatus, Reg.ringRplBase]

theorem Reg.ringStatus_ne_ringCtrl (r : Nat) : Reg.ringStatus r ≠ Reg.ringCtrl r := by
  simp [Reg.ringStatus, Reg.ringCtrl]

section Reply
variable (m : Mach) (r : Nat) (c : Cmd) (phase : Bool) (pend : Nat) (out : List Output)

theorem Mach.answered_raw (o : Nat) : (m.answered r c phase pend out).raw o =
    ((m.setField (Reg.ringStatus r) 12 12 0).setField (Reg.ringStatus r) 13 13 (b2n phase)).raw o := rfl

theorem Mach.answered_raw_of_ne {o : Nat} (ho : Reg.ringStatus r ≠ o) :
    (m.answered r c phase pend out).raw o = m.raw o := by
  simp [Mach.answered_raw, ho]

theorem Mach.answered_raw_ringStatus : (m.answered r c phase pend out).raw (Reg.ringStatus r) =
    setBits (setBits (m.raw (Reg.ringStatus r)) 12 12 0) 13 13 (b2n phase) := by
  simp [Mach.answered_raw]

theorem Mach.answered_ring (r' : Nat) : (m.answered r c phase pend out).ring r' =
    if r = r' then { m.ring r with cmd := none, wrote := (m.ring r).wrote || c.entry == 0 } else m.ring r' :=
  m.ring_setRing r r' _

theorem Mach.answered_busy : bit ((m.answered r c phase pend out).raw (Reg.ringStatus r)) 12 = false := by
  simp [Mach.answered_raw_ringStatus, bit_setBits]

theorem Mach.answered_phase : bit ((m.answered r c phase pend out).raw (Reg.ringStatus r)) 13 = phase := by
  simp [Mach.answered_raw_ringStatus, bit_setBits]

/-- A vector raised after the answer adds one message to the outputs, or leaves a pending bit. -/
theorem Mach.answered_msix (v : Nat) : ∃ pend' vec,
    (m.answered r c phase pend out).msix v = m.answered r c phase pend' (vec ++ out) ∧
      ∀ o ∈ vec, o = Output.msix v := by
  obtain ⟨vec, pend', h, hvec⟩ := (m.answered r c phase pend out).msix_dev v
  refine ⟨pend', vec, ?_, hvec⟩
  rw [h]
  simp only [Mach.answered, List.append_assoc]

end Reply

/-- The phase of a reply: it turns with each reply at entry 0 but the first (R349). -/
def Mach.replyPhase (m : Mach) (r : Nat) (c : Cmd) : Bool :=
  let old := bit (m.raw (Reg.ringStatus r)) 13
  if c.entry = 0 ∧ (m.ring r).wrote then !old else old

/-- With Bus Master Enable, a reply answers its command and goes out as its two writes; the ring's vector follows. -/
theorem Mach.reply_of_busMaster {m : Mach} {r : Nat} {c : Cmd} (hc : (m.ring r).cmd = some c) (hb : m.busMaster = true)
    (status detail value : Nat) :
    let phase := m.replyPhase r c
    let m' := m.answered r c phase m.dev.host.msixPend
      (replyWrites (m.raw (Reg.ringRplBase r) + 32 * c.entry) c status detail value phase)
    m.reply r status detail value = if c.irq then m'.msix (bits (m.raw (Reg.ringCtrl r)) 10 5) else m' := by
  intro phase m'
  let m₁ := (m.setRing r { m.ring r with cmd := none, wrote := (m.ring r).wrote || c.entry == 0 }).setField
    (Reg.ringStatus r) 12 12 0
  have hbus : ¬ m₁.busMaster = false := ne_false_of_eq_true hb
  have hold : bit (m₁.raw (Reg.ringStatus r)) 13 = bit (m.raw (Reg.ringStatus r)) 13 := by
    rw [Mach.raw_setField _ _ _ _ _ _ (by decide), if_pos rfl, bit_setBits]
    rfl
  have hbase : ∀ v, (m₁.setField (Reg.ringStatus r) 13 13 (b2n v)).raw (Reg.ringRplBase r) =
      m.raw (Reg.ringRplBase r) :=
    fun v => m.answered_raw_of_ne r c v 0 [] (Reg.ringStatus_ne_ringRplBase r)
  have hctrl : m'.raw (Reg.ringCtrl r) = m.raw (Reg.ringCtrl r) :=
    m.answered_raw_of_ne r c phase _ _ (Reg.ringStatus_ne_ringCtrl r)
  simp only [Mach.reply, hc]
  rw [if_neg hbus, hold, hbase, ← hctrl]
  rfl

/-- A reply frees its ring and goes out as two posted writes, with the ring's vector at most after them. -/
theorem Mach.reply_shape {m : Mach} {r : Nat} {c : Cmd} (hc : (m.ring r).cmd = some c) (hb : m.busMaster = true)
    (status detail value : Nat) : ∃ phase pend vec, (c.irq = false → vec = []) ∧
      (∀ o ∈ vec, o = Output.msix (bits (m.raw (Reg.ringCtrl r)) 10 5)) ∧
      m.reply r status detail value = m.answered r c phase pend
        (vec ++ replyWrites (m.raw (Reg.ringRplBase r) + 32 * c.entry) c status detail value phase) := by
  rw [Mach.reply_of_busMaster hc hb]
  cases hirq : c.irq
  · exact ⟨m.replyPhase r c, m.dev.host.msixPend, [], fun _ => rfl, by simp, rfl⟩
  · obtain ⟨pend, vec, hmsix, hvec⟩ := m.answered_msix r c (m.replyPhase r c) m.dev.host.msixPend
      (replyWrites (m.raw (Reg.ringRplBase r) + 32 * c.entry) c status detail value (m.replyPhase r c))
      (bits (m.raw (Reg.ringCtrl r)) 10 5)
    exact ⟨m.replyPhase r c, pend, vec, nofun, hvec, hmsix⟩

theorem Mach.Wrote.answered {s : State} {m : Mach} {l : List Nat} (h : Mach.Wrote s m l) {r : Nat}
    (hr : Reg.ringStatus r ∈ l) (c : Cmd) (phase : Bool) (pend : Nat) (out : List Output) :
    Mach.Wrote s (m.answered r c phase pend out) l :=
  ((h.setField (hi := 12) (lo := 12) (v := 0) hr).setField (hi := 13) (lo := 13) (v := b2n phase) hr).dev _ rfl rfl

section Answered
variable (s : State) (r : Nat) (c : Cmd) (phase : Bool) (pend : Nat)

theorem State.wrote_answered (out : List Output) :
    Mach.Wrote s (s.view.answered r c phase pend out) [Reg.ringStatus r] :=
  Mach.wrote_view.answered (List.mem_singleton_self _) ..

/-- An answer changes nothing but the marks of the reply. -/
theorem State.repliesAlone_answered (out : List Output) :
    s.RepliesAlone (s.after (s.view.answered r c phase pend out)) r [] :=
  ⟨(s.wrote_answered r c phase pend out).keepsBut, rfl⟩

/-- An answer whose outputs are the two writes of a reply, with the ring's vector at most after them, is a reply. -/
theorem State.replied_answered {vec : List Output} (hirq : c.irq = false → vec = [])
    (hvec : ∀ o ∈ vec, o = Output.msix (bits (s.reg (Reg.ringCtrl r)) 10 5)) (status detail value : Nat) :
    s.Replied (s.after (s.view.answered r c phase pend
      (vec ++ replyWrites (s.reg (Reg.ringRplBase r) + 32 * c.entry) c status detail value phase)))
      r c [] status detail value := by
  have hring := s.view.answered_ring r c phase pend
    (vec ++ replyWrites (s.reg (Reg.ringRplBase r) + 32 * c.entry) c status detail value phase)
  have hstatus := (s.wrote_answered r c phase pend
    (vec ++ replyWrites (s.reg (Reg.ringRplBase r) + 32 * c.entry) c status detail value phase)).reg (Reg.ringStatus r)
  refine ⟨congrArg Ring.cmd ((hring r).trans (if_pos rfl)), fun r' hr' => (hring r').trans (if_neg hr'.symm),
    (congrArg (bit · 12) hstatus).trans (Mach.answered_busy ..), vec, hirq, hvec, ?_⟩
  rw [hstatus, Mach.answered_phase, List.append_nil]
  rfl

end Answered

/-- A reply of the command in progress on a ring answers it, and does nothing else. -/
theorem State.replied_reply {s : State} {r : Nat} {c : Cmd} (hc : (s.view.ring r).cmd = some c)
    (hb : s.view.busMaster = true) (status detail value : Nat) :
    s.Replied (s.after (s.view.reply r status detail value)) r c [] status detail value ∧
      s.RepliesAlone (s.after (s.view.reply r status detail value)) r [] := by
  obtain ⟨phase, pend, vec, hirq, hvec, h⟩ := Mach.reply_shape hc hb status detail value
  rw [h]
  exact ⟨s.replied_answered r c phase pend hirq hvec status detail value, s.repliesAlone_answered r c phase pend _⟩

end Sys2Proof.Machine
end

section
/-! Proofs about the set-up of the fabric (R287): the writes of its topology registers, and PORT_OPEN without it. -/

namespace Sys2Proof.Machine
open Sys2Proof

/-! ### Topology registers (R287) -/

/-- Some port is neither CLOSED nor FAILED. -/
def Mach.somePortUp (m : Mach) : Bool :=
  (List.range 8).any fun p => m.portState p != psClosed && m.portState p != psFailed

theorem Mach.somePortUp_iff (m : Mach) :
    m.somePortUp = true ↔ ∃ p, p < 8 ∧ m.portState p ≠ psClosed ∧ m.portState p ≠ psFailed := by
  simp [Mach.somePortUp]

theorem Mach.somePortUp_eq_false_iff (m : Mach) :
    m.somePortUp = false ↔ ∀ p, p < 8 → m.portState p = psClosed ∨ m.portState p = psFailed := by
  simp [Mach.somePortUp, Decidable.or_iff_not_imp_left]

/-- The registers of the topology, and the bits that each has. -/
def topologyReg (which : Nat) : Nat := nth 0 [Reg.epDeviceId, Reg.epTorus, Reg.epDimMap] which
def topologyMask (which : Nat) : Nat := nth 0 [0x8003FFFF, 0x7F7F7F, 0x3FFFF] which

theorem topologyMask_lt {which : Nat} (h : which < 3) : topologyMask which < 2 ^ 64 := by
  obtain rfl | rfl | rfl : which = 0 ∨ which = 1 ∨ which = 2 := by omega
  all_goals decide

/-- A write of a topology register is discarded while a port is up, and takes the register's bits otherwise. -/
theorem effEpTopologyWrite_eq {which : Nat} (h : which < 3) (v : W32) (m : Mach) :
    effEpTopologyWrite which v m =
      if m.bar0Open (topologyReg which) = false then m
      else if m.somePortUp then m.setBit Reg.epStatus 0
      else m.setRaw (topologyReg which) (v.toNat &&& topologyMask which) := by
  obtain rfl | rfl | rfl : which = 0 ∨ which = 1 ∨ which = 2 := by omega
  all_goals rfl

theorem effEpTopologyWrite_portsDown {which : Nat} (h : which < 3) (v : W32) {m : Mach}
    (ho : m.bar0Open (topologyReg which) = true) (hp : m.somePortUp = false) :
    effEpTopologyWrite which v m = m.setRaw (topologyReg which) (v.toNat &&& topologyMask which) := by
  simp [effEpTopologyWrite_eq h, ho, hp]

theorem effEpTopologyWrite_portUp {which : Nat} (h : which < 3) (v : W32) {m : Mach}
    (ho : m.bar0Open (topologyReg which) = true) (hp : m.somePortUp = true) :
    effEpTopologyWrite which v m = m.setBit Reg.epStatus 0 := by
  simp [effEpTopologyWrite_eq h, ho, hp]

/-! ### EP_PORT_CTRL (R287) -/

theorem Mach.blockWrite_portCtrl (m : Mach) {p : Nat} (hp : p < 8) (v : Nat) :
    m.blockWrite (Reg.portCtrl p) v = m.portCtrlWrite p v := by
  have hport : p = 0 ∨ p = 1 ∨ p = 2 ∨ p = 3 ∨ p = 4 ∨ p = 5 ∨ p = 6 ∨ p = 7 := by omega
  obtain rfl | rfl | rfl | rfl | rfl | rfl | rfl | rfl := hport
  all_goals rfl

theorem Reg.portCtrl_eq (p : Nat) : Reg.portCtrl p = 0xC00000 + (p + 1) * 0x10000 := rfl

/-- A host write of EP_PORT_CTRL comes to the port's own rule. -/
theorem effRegisterWrite_portCtrl {m : Mach} {p : Nat} (hp : p < 8) (ho : m.bar0Open (Reg.portCtrl p) = true)
    (v : W64) : effRegisterWrite 0 (Reg.portCtrl p) 4 v m = m.portCtrlWrite p (v.toNat % 2 ^ 32) := by
  have hreg := Reg.portCtrl_eq p
  rw [effRegisterWrite_word (by omega), Mach.write32_block ho (by omega) (by omega), Mach.blockWrite_portCtrl m hp]

theorem Mach.portCtrlWrite_down {m : Mach} {p : Nat} (h : m.portState p = psClosed ∨ m.portState p = psFailed)
    (v : Nat) : m.portCtrlWrite p v = m.setRaw (Reg.portCtrl p) (v &&& 0xF1) :=
  if_neg fun ⟨hc, hf⟩ => h.elim hc hf

theorem Mach.portCtrlWrite_up {m : Mach} {p : Nat} (hc : m.portState p ≠ psClosed) (hf : m.portState p ≠ psFailed)
    (v : Nat) : m.portCtrlWrite p v = m.setBit (Reg.portStatus p) 12 :=
  if_pos ⟨hc, hf⟩

/-! ### PORT_OPEN before the fabric is set up (R287) -/

/-- The coordinates of a device are the three fields of its ID. -/
theorem Mach.coordOf_deviceId (m : Mach) : coordOf m.deviceId 0 = bits (m.raw Reg.epDeviceId) 5 0 ∧
    coordOf m.deviceId 1 = bits (m.raw Reg.epDeviceId) 11 6 ∧
    coordOf m.deviceId 2 = bits (m.raw Reg.epDeviceId) 17 12 := by
  simp only [coordOf, Mach.deviceId, bits]
  omega

/-- The fabric is set up when the ID is valid and every ring size exceeds the device's own coordinate. -/
theorem Mach.fabricSet_iff (m : Mach) : m.fabricSet = true ↔
    bit (m.raw Reg.epDeviceId) 31 = true ∧
      bits (m.raw Reg.epDeviceId) 5 0 < bits (m.raw Reg.epTorus) 6 0 ∧
      bits (m.raw Reg.epDeviceId) 11 6 < bits (m.raw Reg.epTorus) 14 8 ∧
      bits (m.raw Reg.epDeviceId) 17 12 < bits (m.raw Reg.epTorus) 22 16 := by
  obtain ⟨hx, hy, hz⟩ := m.coordOf_deviceId
  simp [Mach.fabricSet, List.range_succ, Mach.ringSize, hx, hy, hz]

/-- PORT_OPEN answers BAD_PARAM of its first parameter while the fabric is not set up. -/
theorem effPortOpen_of_not_fabricSet {m : Mach} {r : Nat} {c : Cmd} (hc : (m.ring r).cmd = some c)
    (hop : c.opcode = 0x81) (hb : c.begun = false) (hw : m.waitsTurn r c = false) (hg : m.gate 0x81 = none)
    (hf : m.fabricSet = false) : effPortOpen r m = m.badParam r 0 := by
  rw [effPortOpen, Mach.command_served _ hc hop hb hw hg]
  exact if_pos (.inr (.inr hf))

/-- Settles O10: the topology registers and EP_PORT_CTRL are written while the ports are down, and PORT_OPEN needs the
fabric set up. -/
theorem topologyWrite : Obligations.TopologyWrite := by
  unfold Obligations.TopologyWrite
  refine ⟨?_, ?_, ?_⟩
  · intro s which v hready hwhich o hopen
    have hform : (Instr.epTopologyWrite which v).wellFormed = true := decide_eq_true hwhich
    refine ⟨fun hdown => exec_run (fun _ => rfl) hready hform ?_, fun hup => exec_run (fun _ => rfl) hready hform ?_⟩
    · rw [effEpTopologyWrite_portsDown hwhich v hopen (s.view.somePortUp_eq_false_iff.mpr hdown)]
      exact ⟨rfl, s.regsBecome_setRaw _ (Nat.and_lt_two_pow _ (topologyMask_lt hwhich))⟩
    · rw [effEpTopologyWrite_portUp hwhich v hopen (s.view.somePortUp_iff.mpr hup)]
      exact ⟨rfl, s.regsBecome_setBit _ (by decide)⟩
  · intro s p v hready hp hopen
    refine ⟨fun hdown => exec_run (fun _ => rfl) hready rfl ?_, fun hc hf => exec_run (fun _ => rfl) hready rfl ?_⟩
    · rw [effRegisterWrite_portCtrl hp hopen, Mach.portCtrlWrite_down hdown]
      exact ⟨rfl, s.regsBecome_setRaw _ (Nat.and_lt_two_pow _ (by decide))⟩
    · rw [effRegisterWrite_portCtrl hp hopen, Mach.portCtrlWrite_up hc hf]
      exact ⟨rfl, s.regsBecome_setBit _ (by decide)⟩
  · intro s r c hready hr hserves id torus hunset
    obtain ⟨hc, hop, hbegun, hturn, hgate, hbus⟩ := hserves
    have hfabric : s.view.fabricSet = false := by
      rw [← Bool.not_eq_true, Mach.fabricSet_iff]
      simp only [State.view_raw]
      rintro ⟨hid, hx, hy, hz⟩
      obtain h | h := hunset
      · exact Bool.false_ne_true (h.symm.trans hid)
      · simp only [id, torus] at h
        omega
    refine exec_run (fun _ => rfl) hready (decide_eq_true hr) ?_
    rw [effPortOpen_of_not_fabricSet hc hop hbegun hturn hgate hfabric]
    exact State.replied_reply hc hbus scBadParam 16 0

end Sys2Proof.Machine
end

section
/-! The limits of remote operations (R282): what a host write of EP_TIMEOUT_ACC or EP_TIMEOUT_WAIT leaves. -/

namespace Sys2Proof.Machine
open Sys2Proof

/-- The two registers that hold a limit. -/
def IsLimitReg (o : Nat) : Prop := o = Reg.epTimeoutAcc ∨ o = Reg.epTimeoutWait

/-- The row of a limit register: its 20 bits are RW, and every other bit is reserved. -/
def limitRow (o : Nat) : RegRow := { base := o, rw := 0xFFFFF }

theorem Mach.blockWrite_limit {o : Nat} (h : IsLimitReg o) (m : Mach) (v : Nat) :
    m.blockWrite o v = m.rowWrite (limitRow o) o o v := by
  obtain rfl | rfl := h <;> rfl

/-- A written limit register has the 20 bits written and keeps the bits above them (R8). -/
theorem hostWritten_limitRow (o old new : Nat) :
    hostWritten (limitRow o) old new = old / 2 ^ 20 * 2 ^ 20 + new % 2 ^ 20 := by
  have hmask : ∀ x, x &&& 0xFFFFF = x % 2 ^ 20 := fun x => Nat.and_two_pow_sub_one_eq_mod x 20
  have hkept : old - old % 2 ^ 20 = 2 ^ 20 * (old / 2 ^ 20) := by omega
  have hsum := Nat.two_pow_add_eq_or_of_lt (Nat.mod_lt new (Nat.two_pow_pos 20)) (old / 2 ^ 20)
  rw [hostWritten, if_neg (by simp [limitRow])]
  simp only [limitRow, hmask, hkept, Nat.and_zero, Nat.xor_zero]
  omega

theorem effRegisterWrite_limit {m : Mach} {o : Nat} (h : IsLimitReg o) (ho : m.bar0Open o = true)
    (hr : m.raisedNow o = 0) (v : W64) :
    effRegisterWrite 0 o 4 v m = m.setRaw o (m.raw o / 2 ^ 20 * 2 ^ 20 + v.toNat % 2 ^ 20) := by
  have haddr : o % 4 = 0 ∧ 0x200000 ≤ o ∧ o < 0x1000000 := by obtain rfl | rfl := h <;> decide
  obtain ⟨halign, hlo, hhi⟩ := haddr
  have hhalf : writtenHalf (limitRow o) (m.raw o) o (v.toNat % 2 ^ 32) =
      m.raw o / 2 ^ 20 * 2 ^ 20 + v.toNat % 2 ^ 20 := by
    rw [writtenHalf, if_pos (show (limitRow o).width = 4 from rfl), hostWritten_limitRow,
      Nat.mod_mod_of_dvd _ (by decide)]
  rw [effRegisterWrite_word halign, Mach.write32_block ho hlo hhi, Mach.blockWrite_limit h, Mach.rowWrite, hhalf, hr,
    Nat.and_zero, Nat.or_zero]

/-- A host write of a limit replaces its 20 bits and changes nothing else: no operation that has been issued, and no
reserved bit of the register. -/
theorem registerWrite_limit {s : State} {o : Nat} (hready : s.Ready) (h : IsLimitReg o) (ho : s.view.bar0Open o = true)
    (hr : s.view.raisedNow o = 0) (v : W64) :
    ∃ t, exec (.registerWrite 0 o 4 v) s = .next t ∧ t.dev = s.dev ∧
      s.RegsBecome t [(o, s.reg o / 2 ^ 20 * 2 ^ 20 + v.toNat % 2 ^ 20)] := by
  refine exec_run (fun _ => rfl) hready rfl ?_
  rw [effRegisterWrite_limit h ho hr, State.view_raw]
  have hlt := s.reg_lt o
  exact ⟨s.after_setRaw_dev o _, s.regsBecome_setRaw o (by omega)⟩

/-- With the reserved bits 0, a limit register becomes the 20 bits written. -/
theorem registerWrite_limit_of_lt {s : State} {o : Nat} (hready : s.Ready) (h : IsLimitReg o)
    (ho : s.view.bar0Open o = true) (hr : s.view.raisedNow o = 0) (hold : s.reg o < 2 ^ 20) (v : W64) :
    ∃ t, exec (.registerWrite 0 o 4 v) s = .next t ∧ t.dev = s.dev ∧ s.RegsBecome t [(o, v.toNat % 2 ^ 20)] := by
  have hkept := registerWrite_limit hready h ho hr v
  rwa [Nat.div_eq_of_lt hold, Nat.zero_mul, Nat.zero_add] at hkept

/-- A device that runs its firmware, with the first reserved bit of EP_TIMEOUT_ACC set. -/
def reservedLimitBit : State :=
  { mem := { regs := [(Reg.epTimeoutAcc, 2 ^ 20)] }
    dev := { chip := Chip.reset, boot := { fw := true }, clk := { perst := false, arclkOn := true } } }

/-- Refutes O49: its clause on the write of a limit says that the register becomes the 20 bits written, in every state
that is `Ready`. `Ready` says nothing of the registers' reserved bits, and a write keeps them (R8): with bit 20 of
EP_TIMEOUT_ACC set, a write of 0 leaves 2^20. With the reserved bits 0 and no flag raised there, the clause holds
(`registerWrite_limit_of_lt`). -/
theorem not_remoteTimers : ¬ Obligations.RemoteTimers := by
  unfold Obligations.RemoteTimers
  rintro ⟨-, -, hwrite, -⟩
  have hready : reservedLimitBit.Ready := by decide
  have hopen : reservedLimitBit.view.bar0Open Reg.epTimeoutAcc = true := by decide
  obtain ⟨t, ht, -, -, hclaim⟩ := hwrite reservedLimitBit Reg.epTimeoutAcc 0 hready (.inl rfl) hopen
  obtain ⟨t', ht', -, -, hkept⟩ := registerWrite_limit hready (.inl rfl) hopen rfl 0
  obtain rfl : t = t' := Host.Outcome.next.inj (ht.symm.trans ht')
  have hset : reservedLimitBit.reg Reg.epTimeoutAcc = 2 ^ 20 := by decide
  have hzero : t.reg Reg.epTimeoutAcc = 0 := hclaim _ (List.mem_singleton_self _)
  have hbit : t.reg Reg.epTimeoutAcc = reservedLimitBit.reg Reg.epTimeoutAcc / 2 ^ 20 * 2 ^ 20 + 0 :=
    hkept _ (List.mem_singleton_self _)
  omega

end Sys2Proof.Machine
end

section
/-! The order in which the event arbiter takes the events that wait for it (R362). -/

namespace Sys2Proof.Machine
open Sys2Proof

/-! ### The least element of a list under a key -/

theorem leastBy_eq_none_iff {α : Type} {key : α → Nat} {l : List α} : leastBy key l = none ↔ l = [] := by
  cases l with
  | nil => simp [leastBy]
  | cons a l =>
    rw [leastBy]
    split
    · simp
    · split <;> simp

/-- What `leastBy` finds is in the list, and no element of the list has a lesser key. -/
theorem leastBy_spec {α : Type} {key : α → Nat} {l : List α} {a : α} (h : leastBy key l = some a) :
    a ∈ l ∧ ∀ b ∈ l, key a ≤ key b := by
  induction l generalizing a with
  | nil => cases h
  | cons x l ih =>
    rw [leastBy] at h
    split at h
    next hnone =>
      obtain rfl := leastBy_eq_none_iff.mp hnone
      cases h
      exact ⟨List.mem_singleton_self x, List.forall_mem_singleton.mpr (Nat.le_refl _)⟩
    next b hb =>
      obtain ⟨hmem, hleast⟩ := ih hb
      split at h <;> cases h
      next hlt =>
        exact ⟨List.mem_cons_of_mem x hmem, List.forall_mem_cons.mpr ⟨Nat.le_of_lt hlt, hleast⟩⟩
      next hle =>
        have hle := Nat.le_of_not_lt hle
        exact ⟨List.mem_cons_self, List.forall_mem_cons.mpr ⟨Nat.le_refl _, fun c hc => Nat.le_trans hle (hleast c hc)⟩⟩

/-- A list that is not empty has a least element. -/
theorem exists_leastBy_eq_some {α : Type} (key : α → Nat) {l : List α} (h : l ≠ []) : ∃ a, leastBy key l = some a :=
  Option.ne_none_iff_exists'.mp (mt leastBy_eq_none_iff.mp h)

/-! ### The arbiter's key -/

/-- With ADDR and BIT within their fields, the key orders events by arrival, then ADDR, then BIT. -/
theorem evKey_le_iff {e f : Event} (he : e.addr < 2 ^ 26 ∧ e.bit < 32) (hf : f.addr < 2 ^ 26 ∧ f.bit < 32) :
    evKey e ≤ evKey f ↔
      e.due < f.due ∨ (e.due = f.due ∧ (e.addr < f.addr ∨ (e.addr = f.addr ∧ e.bit ≤ f.bit))) := by
  obtain ⟨heAddr, heBit⟩ := he
  obtain ⟨hfAddr, hfBit⟩ := hf
  rw [evKey, evKey]
  omega

/-! ### What taking an event leaves waiting -/

/-- The events that wait for the arbiter, and the count of those taken. -/
def Mach.arbiter (m : Mach) : List Event × Nat := (m.dev.host.events, m.dev.host.evSeq)

theorem Mach.msix_arbiter (m : Mach) (v : Nat) : (m.msix v).arbiter = m.arbiter := by
  obtain ⟨out, pend, h, -⟩ := m.msix_dev v
  rw [h]
  rfl

/-- Where Bus Master Enable is set, the arbiter takes the event of the least key, whether its record is written, lost
while the ring is full, or dropped while the ring is off (R361, R363). -/
theorem effEventTaken_arbiter {m : Mach} {e : Event} (he : leastBy evKey m.dev.host.events = some e)
    (hb : m.busMaster = true) :
    (effEventTaken m).arbiter = (removeFirst (· == e) m.dev.host.events, m.dev.host.evSeq + 1) := by
  simp only [effEventTaken, he, hb, Bool.not_true, Bool.and_false, Bool.false_eq_true, if_false]
  split
  case isTrue hoff => rfl
  case isFalse hlive =>
    split
    case isTrue hfull => rfl
    case isFalse hroom => exact Mach.msix_arbiter _ _

/-- Settles O60: the event taken is the least under `evKey`, and with ADDR and BIT within their fields that key is the
order of R362. -/
theorem eventOrder : Obligations.EventOrder := by
  unfold Obligations.EventOrder
  intro s hready hbus hne hfields
  obtain ⟨e, he⟩ := exists_leastBy_eq_some evKey hne
  obtain ⟨hmem, hleast⟩ := leastBy_spec he
  obtain ⟨hevents, hseq⟩ := Prod.mk.inj (effEventTaken_arbiter (m := s.view) he hbus)
  obtain ⟨t, ht, htaken⟩ := exec_run (c := .eventTaken)
    (P := fun t => t.dev.host.events = removeFirst (· == e) s.dev.host.events ∧ t.dev.host.evSeq = s.dev.host.evSeq + 1)
    (fun _ => rfl) hready rfl ⟨hevents, hseq⟩
  exact ⟨t, e, ht, hmem, fun f hf => (evKey_le_iff (hfields e hmem) (hfields f hf)).mp (hleast f hf), htaken⟩

end Sys2Proof.Machine
end

section
/-! The write-back of a corrected DDR line (R243, R395): what a write to DDR space changes, a write that a channel in
reordering service serves, and why the write-back that was due then finds nothing to do. -/

namespace Sys2Proof.Machine
open Sys2Proof

/-! ### Bytes written to DDR space -/

@[simp] theorem Mach.ddrPut_dev (m : Mach) (a : Nat) (bs : Bytes) : (m.ddrPut a bs).dev = m.dev := by
  induction bs generalizing m a with
  | nil => rfl
  | cons b bs ih => rw [Mach.ddrPut, ih]

/-- A byte of DDR space reads as the newest bytes put there, and otherwise as before. -/
theorem Mach.readLog_ddrPut (m : Mach) (d : Nat → Byte) (st : List (Nat × Byte)) (a k : Nat) (bs : Bytes) :
    readLog d st (m.ddrPut a bs).log.ddr k =
      if a ≤ k ∧ k < a + bs.length then nth 0 bs (k - a) else readLog d st m.log.ddr k := by
  induction bs generalizing m a with
  | nil => rw [if_neg (by simp)]; rfl
  | cons b bs ih =>
    rw [Mach.ddrPut, ih, readLog, List.length_cons]
    obtain hlt | rfl | hgt := Nat.lt_trichotomy k a
    · rw [if_neg (by omega), if_neg (by omega), if_neg (by omega)]
    · rw [if_neg (by omega), if_pos rfl, if_pos (by omega), Nat.sub_self]
      rfl
    · have hsucc : k - a = (k - (a + 1)) + 1 := by omega
      rw [if_neg (show ¬ a = k by omega), hsucc]
      by_cases hin : k < a + 1 + bs.length
      · rw [if_pos ⟨hgt, hin⟩, if_pos (by omega)]
        rfl
      · rw [if_neg (by omega), if_neg (by omega)]

/-- A write to DDR space touches the ranges of undefined contents alone among the running parts. -/
theorem Mach.ddrWrite_dev (m : Mach) (a : Nat) (bs : Bytes) :
    (m.ddrWrite a bs).dev = { m.dev with ddrUndef := cutRanges m.dev.ddrUndef a (a + bs.length) } :=
  Mach.ddrPut_dev _ a bs

/-- The line that a request is for. -/
def DdrReq.line (r : DdrReq) : Nat := r.off / 128 * 128

/-- The offsets and bytes that a write puts. -/
def DdrReq.parts (r : DdrReq) : List (Nat × Bytes) := if r.segs.isEmpty then [(r.off, r.data)] else r.segs

/-- A write that covers its whole line, as a write-back does. -/
def DdrReq.whole (r : DdrReq) : Bool :=
  r.user == .writeBack || (List.range 128).all fun i => r.parts.any fun p =>
    decide (p.1 ≤ r.line + i) && decide (r.line + i < p.1 + p.2.length)

/-- The machine with the bytes of a write put into DDR space. -/
def Mach.ddrWrites (m : Mach) (r : DdrReq) : Mach := r.parts.foldl (fun m p => m.ddrWrite p.1 p.2) m

theorem Mach.ddrWrites_dev (m : Mach) (r : DdrReq) :
    ∃ undef, (m.ddrWrites r).dev = { m.dev with ddrUndef := undef } := by
  rw [Mach.ddrWrites]
  induction r.parts generalizing m with
  | nil => exact ⟨_, rfl⟩
  | cons p parts ih =>
    obtain ⟨undef, h⟩ := ih (m.ddrWrite p.1 p.2)
    exact ⟨undef, by rw [List.foldl_cons, h, Mach.ddrWrite_dev]⟩

/-- A write without parts puts its data at its offset. -/
theorem Mach.ddrWrites_of_segs_nil (m : Mach) {r : DdrReq} (h : r.segs = []) :
    m.ddrWrites r = m.ddrWrite r.off r.data := by
  simp [Mach.ddrWrites, DdrReq.parts, h]

/-! ### What a stored write leaves -/

/-- A stored write: its bytes are put, its line waits no longer to be written back, the error marks are `errs`, and the
write is counted. -/
def Mach.ddrStored (m : Mach) (r : DdrReq) (errs : FMap Nat) : Mach :=
  let x := (m.ddrWrites r).modCh (chanOf r.line) fun ch => { ch with backs := ch.backs.filter (· != r.line) }
  ({ x with dev := { x.dev with ddrErr := errs } } : Mach).count (Reg.dmWriteLines (chanOf r.line)) 1

/-- A write clears its line's error mark where it covers the whole line, and leaves the mark where it does not. -/
theorem Mach.ddrStore_eq_ddrStored (m : Mach) (r : DdrReq) : m.ddrStore r = m.ddrStored r
    (if r.whole then fdel (m.ddrWrites r).dev.ddrErr (r.line / 128) else (m.ddrWrites r).dev.ddrErr) := by
  show (if r.whole = true then _ else _ : Mach).count _ 1 = _
  cases r.whole with
  | false => rfl
  | true => rfl

theorem Mach.ddrStore_clk (m : Mach) (r : DdrReq) : (m.ddrStore r).dev.clk = m.dev.clk := by
  obtain ⟨undef, hdev⟩ := m.ddrWrites_dev r
  calc (m.ddrStore r).dev.clk
    _ = (m.ddrWrites r).dev.clk := by rw [Mach.ddrStore_eq_ddrStored]; rfl
    _ = m.dev.clk := by rw [hdev]

theorem Mach.ddrStore_backs (m : Mach) (r : DdrReq) :
    ((m.ddrStore r).ch (chanOf r.line)).backs = (m.ch (chanOf r.line)).backs.filter (· != r.line) := by
  obtain ⟨undef, hdev⟩ := m.ddrWrites_dev r
  have hch : (m.ddrWrites r).ch (chanOf r.line) = m.ch (chanOf r.line) := by rw [Mach.ch, hdev]; rfl
  calc ((m.ddrStore r).ch (chanOf r.line)).backs
    _ = (((m.ddrWrites r).modCh (chanOf r.line) fun ch =>
          { ch with backs := ch.backs.filter (· != r.line) }).ch (chanOf r.line)).backs := by
      rw [Mach.ddrStore_eq_ddrStored]; rfl
    _ = (m.ch (chanOf r.line)).backs.filter (· != r.line) := by rw [Mach.modCh, Mach.ch_setCh, hch]

/-- Once a write has reached a line, the line does not wait to be written back (R395). -/
theorem Mach.line_notMem_backs_ddrStore (m : Mach) (r : DdrReq) :
    r.line ∉ ((m.ddrStore r).ch (chanOf r.line)).backs := by
  simp [Mach.ddrStore_backs]

/-- The only line that waits to be written back is the one that a write reaches: none waits any longer. -/
theorem Mach.ddrStore_backs_eq_nil {m : Mach} {r : DdrReq} {c : Nat} (hchan : chanOf r.line = c)
    (h : (m.ch c).backs = [r.line]) : ((m.ddrStore r).ch c).backs = [] := by
  subst hchan
  rw [Mach.ddrStore_backs, h]
  simp

/-- The state after a write without parts reads the data that was written. -/
theorem State.after_ddrStore_ddrAt (s : State) (m : Mach) {r : DdrReq} (hsegs : r.segs = []) {i : Nat}
    (hi : i < r.data.length) : (s.after (m.ddrStore r)).ddrAt (r.off + i) = nth 0 r.data i := by
  have hlog : (m.ddrStore r).log.ddr = (m.ddrWrite r.off r.data).log.ddr := by
    rw [Mach.ddrStore_eq_ddrStored, ← m.ddrWrites_of_segs_nil hsegs]
    rfl
  rw [State.after_ddrAt, hlog, Mach.ddrWrite, Mach.readLog_ddrPut, if_pos (by omega), Nat.add_sub_cancel_left]

/-- A corrected line is put among those that wait to be written back (R243). -/
theorem Mach.mem_backs_ddrChecked (m : Mach) (off source : Nat) {err : Nat} (hlo : 1 ≤ err) (hhi : err < 32) :
    off ∈ ((m.ddrChecked off err source).ch (chanOf off)).backs := by
  rw [Mach.ddrChecked, if_neg (by omega), if_neg (by omega)]
  simp [Mach.modCh]

/-! ### The commands of a channel in reordering service -/

/-- The machine with nothing left at a channel's port. -/
def Mach.emptyPort (m : Mach) (c : Nat) : Mach := m.setCh c { m.ch c with port := [] }

theorem Mach.emptyPort_backs (m : Mach) (c : Nat) : ((m.emptyPort c).ch c).backs = (m.ch c).backs := by
  rw [Mach.emptyPort, Mach.ch_setCh]

/-- A request as it is served: its effect falls in ARCLK cycle t. -/
def DdrReq.servedAt (r : DdrReq) (t : Nat) : DdrReq := { r with due := t, arc := true }

/-- The request that stands alone at a port is the one that reordering service serves. -/
theorem effDdrReorderServe_alone {m : Mach} {c : Nat} {r : DdrReq} (hservice : (m.ch c).service = svReorder)
    (hport : (m.ch c).port = [r]) (harrived : r.arrived = true) (hunsched : r.user.scheduled = false) :
    effDdrReorderServe c 0 m = (m.emptyPort c).ddrServe c r m.now true := by
  have hpick : ((leastBy reqOrder ([r].filter DdrReq.waited)).orElse fun _ => ([r].filter fun r => r.arrived)[0]?) =
      some r := by
    cases hw : r.waited
    case false => simp [hw, harrived, leastBy]
    case true => simp [hw, leastBy]
  have hrest : removeFirst (· == r) [r] = [] := by simp [removeFirst]
  simp only [effDdrReorderServe]
  rw [if_neg (not_not_intro hservice), hport, hpick]
  simp only [hrest, hunsched]
  cases r.job with
  | none => rfl
  | some h => rfl

/-- A host's write through BAR2 that is served in the present cycle is stored at once. -/
theorem Mach.ddrServe_bar2Write {m : Mach} {r : DdrReq} {tag : Nat} (c : Nat) (hwrite : r.write = true)
    (huser : r.user = .bar2 tag) : m.ddrServe c r m.now true = m.ddrStore (r.servedAt m.now) := by
  have hreached : m.reqReached (r.servedAt m.now) = true := by simp [Mach.reqReached, DdrReq.servedAt]
  have hwrote : (m.ddrStore (r.servedAt m.now)).ddrWrote (r.servedAt m.now) = m.ddrStore (r.servedAt m.now) := by
    rw [Mach.ddrWrote, show (r.servedAt m.now).user = .bar2 tag from huser]
  exact (if_pos hwrite).trans ((if_pos hreached).trans hwrote)

/-- Reordering service stores a host's write that stands alone at the port. -/
theorem effDdrReorderServe_bar2Write {m : Mach} {c tag : Nat} {r : DdrReq} (hservice : (m.ch c).service = svReorder)
    (hport : (m.ch c).port = [r]) (harrived : r.arrived = true) (hwrite : r.write = true) (huser : r.user = .bar2 tag) :
    effDdrReorderServe c 0 m = (m.emptyPort c).ddrStore (r.servedAt m.now) :=
  (effDdrReorderServe_alone hservice hport harrived (by rw [huser]; rfl)).trans (Mach.ddrServe_bar2Write c hwrite huser)

/-- With no line to write back, DDR_WRITE_BACK changes nothing. -/
theorem exec_ddrWriteBack_of_backs_nil {s : State} {c : Nat} (hready : s.Ready) (hc : c < 16)
    (h : (s.view.ch c).backs = []) : exec (.ddrWriteBack c) s = .next s := by
  have heff : effDdrWriteBack c s.view = s.view := by simp only [effDdrWriteBack, h]
  calc exec (.ddrWriteBack c) s
    _ = .next (s.after (effDdrWriteBack c s.view)) := act_run _ hready (decide_eq_true hc)
    _ = .next s := by rw [heff, State.after_view]

/-- A stored write leaves a running device running. -/
theorem State.ready_after_ddrStore {s : State} {m : Mach} (hready : s.Ready) (hclk : m.dev.clk = s.dev.clk)
    (r : DdrReq) : (s.after (m.ddrStore r)).Ready := by
  simpa only [State.Ready, Dev.runs, State.after_dev, Mach.ddrStore_clk, hclk] using hready

/-- Settles O28: a request's write is stored by `Mach.ddrStore`, which takes its line from those that wait to be written
back, so that DDR_WRITE_BACK finds none. -/
theorem writeBackIsAbandoned : Obligations.WriteBackIsAbandoned := by
  unfold Obligations.WriteBackIsAbandoned
  refine ⟨Mach.line_notMem_backs_ddrStore, fun m off err source hlo hhi => m.mem_backs_ddrChecked off source hlo hhi, ?_⟩
  intro s c tag r hready hc hservice hport harrived hwrite huser hsegs hbacks hchan
  refine exec_run (fun _ => rfl) hready (decide_eq_true hc) ?_
  rw [effDdrReorderServe_bar2Write hservice hport harrived hwrite huser]
  have hnone : (((s.view.emptyPort c).ddrStore (r.servedAt s.view.now)).ch c).backs = [] :=
    Mach.ddrStore_backs_eq_nil hchan ((s.view.emptyPort_backs c).trans hbacks)
  exact ⟨hnone, fun i hi => s.after_ddrStore_ddrAt _ hsegs hi,
    exec_ddrWriteBack_of_backs_nil (State.ready_after_ddrStore hready rfl _) hc hnone⟩

end Sys2Proof.Machine
end

section
/-! Proofs about the commands of the boot ROM (R405): which rings and opcodes it takes, the fetch of a command, a reply
that follows other changes of its command, and the record of IDENTIFY. -/

namespace Sys2Proof.Machine
open Sys2Proof

/-! ### The rings and gates of the boot ROM -/

/-- The ring whose turn it is has a command that may be fetched. -/
theorem Mach.ringPending_of_ringTurn {m : Mach} {r : Nat} (h : m.ringTurn = some r) : m.ringPending r = true :=
  List.find?_some h

/-- Until firmware runs, no ring but ring 0 has its turn. -/
theorem Mach.eq_zero_of_ringTurn {m : Mach} {r : Nat} (hfw : m.dev.boot.fw = false) (h : m.ringTurn = some r) :
    r = 0 := by
  have hpending := Mach.ringPending_of_ringTurn h
  simp only [Mach.ringPending, hfw, Bool.false_or, Bool.and_eq_true, beq_iff_eq] at hpending
  exact hpending.2

theorem Mach.gate_of_bootRom {m : Mach} (hfw : m.dev.boot.fw = false) (op : Nat) :
    m.gate op = if op = 2 ∨ (op = 0x10 ∧ m.bootFailed = false) then none else some scNotReady :=
  if_pos hfw

theorem Mach.gate_eq_notReady {m : Mach} {op : Nat} (hfw : m.dev.boot.fw = false) (hid : op ≠ 2) (hload : op ≠ 0x10) :
    m.gate op = some scNotReady :=
  (Mach.gate_of_bootRom hfw op).trans (if_neg (by rintro (h | ⟨h, -⟩) <;> contradiction))

theorem Mach.gate_eq_none_of_bootRom {m : Mach} {op : Nat} (hfw : m.dev.boot.fw = false) (hok : m.bootFailed = false)
    (hop : op = 2 ∨ op = 0x10) : m.gate op = none :=
  (Mach.gate_of_bootRom hfw op).trans (if_pos (hop.imp_right fun h => ⟨h, hok⟩))

/-! ### The fetch of a command (R346, R347, R406) -/

/-- The mark that a LOAD_FIRMWARE leaves as it is fetched: it meets the load deadline (R406). -/
def Mach.markLoad (m : Mach) (c : Cmd) : Mach :=
  { m with dev := { m.dev with boot := { m.dev.boot with
    fetched := if c.opcode = 0x10 then true else m.dev.boot.fetched } } }

theorem Mach.markLoad_eq_ite (m : Mach) (c : Cmd) : m.markLoad c =
    if c.opcode = 0x10 then { m with dev := { m.dev with boot := { m.dev.boot with fetched := true } } } else m := by
  rw [Mach.markLoad]
  split <;> rfl

/-- The machine in which the command `c` has been fetched from ring `r`, before any test of it. -/
def Mach.fetchedCmd (m : Mach) (r : Nat) (c : Cmd) : Mach :=
  let m' : Mach := { m with dev := { m.dev with host := { m.dev.host with
    lastRing := r, fetches := m.dev.host.fetches + 1 } } }
  let m' := m'.setRing r { m.ring r with cmd := some c }
  ((m'.setField (Reg.ringStatus r) 11 0 ((m.ringHead r + 1) % m.ringSize' r)).setBit (Reg.ringStatus r) 12).markLoad c

section FetchedCmd
variable (m : Mach) (r : Nat) (c : Cmd)

@[simp] theorem Mach.fetchedCmd_fw : (m.fetchedCmd r c).dev.boot.fw = m.dev.boot.fw := rfl
@[simp] theorem Mach.fetchedCmd_out : (m.fetchedCmd r c).dev.out = m.dev.out := rfl
@[simp] theorem Mach.fetchedCmd_busMaster : (m.fetchedCmd r c).busMaster = m.busMaster := rfl
@[simp] theorem Mach.fetchedCmd_mem : (m.fetchedCmd r c).mem = m.mem := rfl

theorem Mach.fetchedCmd_ring (r' : Nat) :
    (m.fetchedCmd r c).ring r' = if r = r' then { m.ring r with cmd := some c } else m.ring r' :=
  m.ring_setRing r r' _

theorem Mach.fetchedCmd_ring_of_ne {r' : Nat} (hr : r' ≠ r) : (m.fetchedCmd r c).ring r' = m.ring r' :=
  (m.fetchedCmd_ring r c r').trans (if_neg hr.symm)

@[simp] theorem Mach.fetchedCmd_cmd : ((m.fetchedCmd r c).ring r).cmd = some c :=
  congrArg Ring.cmd ((m.fetchedCmd_ring r c r).trans (if_pos rfl))

theorem Mach.fetchedCmd_raw_of_ne {o : Nat} (ho : Reg.ringStatus r ≠ o) : (m.fetchedCmd r c).raw o = m.raw o := by
  let m' := m.setField (Reg.ringStatus r) 11 0 ((m.ringHead r + 1) % m.ringSize' r)
  calc (m.fetchedCmd r c).raw o
    _ = (m'.setBit (Reg.ringStatus r) 12).raw o := rfl
    _ = m.raw o := by simp [m', ho]

theorem Mach.fetchedCmd_bootFailed : (m.fetchedCmd 0 c).bootFailed = m.bootFailed := by
  rw [Mach.bootFailed, m.fetchedCmd_raw_of_ne 0 c (by decide), Mach.bootFailed]

end FetchedCmd

section Fetch
variable {m : Mach} {r : Nat} {b : Bytes} (hturn : m.ringTurn = some r) (hbus : m.busMaster = true)
include hturn hbus

/-- A fetch of the ring whose turn it is makes the tests of a command on the machine that has fetched it. -/
theorem effCommandFetch_some : effCommandFetch r (some b) m =
    let c := parseCmd b (m.ringHead r) m.dev.host.fetches
    let m' := m.fetchedCmd r c
    match m'.gate c.opcode with
    | some st => m'.refuse r st 0
    | none =>
      if 48 < c.plen ∨ c.plen % 8 ≠ 0 then m'.refuse r scBadParam 8
      else if opcodes.contains c.opcode = false then m'.refuse r scBadParam 0
      else
        match reservedAt c.opcode b c.params with
        | some off => m'.refuse r scBadParam off
        | none => m' := by
  rw [effCommandFetch, if_neg (by simp [hturn, hbus])]
  simp only [Mach.fetchedCmd, Mach.markLoad_eq_ite]
  rfl

/-- A fetched command that the gates turn away is answered with their status. -/
theorem effCommandFetch_gated {st : Nat} :
    let c := parseCmd b (m.ringHead r) m.dev.host.fetches
    (m.fetchedCmd r c).gate c.opcode = some st →
      effCommandFetch r (some b) m = (m.fetchedCmd r c).refuse r st 0 := by
  intro c hgate
  rw [effCommandFetch_some hturn hbus]
  simp only [c, hgate]

/-- A fetched command that passes the gates and the tests of its form stays in progress. -/
theorem effCommandFetch_accepted :
    let c := parseCmd b (m.ringHead r) m.dev.host.fetches
    (m.fetchedCmd r c).gate c.opcode = none → c.plen ≤ 48 → c.plen % 8 = 0 → opcodes.contains c.opcode = true →
      reservedAt c.opcode b c.params = none → effCommandFetch r (some b) m = m.fetchedCmd r c := by
  intro c hgate hlen hstep hop hres
  rw [effCommandFetch_some hturn hbus]
  simp only [c, hgate, hop, hres]
  rw [if_neg (not_or_intro (Nat.not_lt.mpr hlen) (not_not_intro hstep)), if_neg nofun]

end Fetch

/-- A fetch from a ring whose turn it is not changes nothing. -/
theorem effCommandFetch_of_ringTurn_ne {m : Mach} {r : Nat} (h : m.ringTurn ≠ some r) (p : HostData) :
    effCommandFetch r p m = m :=
  if_pos (.inl h)

/-! ### A reply that follows other changes of its command -/

/-- A reply answers its command after whatever changes left the other rings, the ring's base and vector, and put `made`
before the outputs. -/
theorem State.replied_reply_after {s : State} {m : Mach} {r : Nat} {c : Cmd} {made : List Output}
    (hmem : m.mem = s.mem) (hbase : m.raw (Reg.ringRplBase r) = s.reg (Reg.ringRplBase r))
    (hctrl : m.raw (Reg.ringCtrl r) = s.reg (Reg.ringCtrl r)) (hrings : ∀ r', r' ≠ r → m.ring r' = s.view.ring r')
    (hout : m.dev.out = made ++ s.dev.out) (hc : (m.ring r).cmd = some c) (hb : m.busMaster = true)
    (status detail value : Nat) :
    s.Replied (s.after (m.reply r status detail value)) r c made status detail value := by
  obtain ⟨phase, pend, vec, hirq, hvec, h⟩ := Mach.reply_shape hc hb status detail value
  rw [hbase] at h
  rw [hctrl] at hvec
  rw [h]
  generalize hw : replyWrites _ c status detail value phase = writes
  have hring := m.answered_ring r c phase pend (vec ++ writes)
  have hstatus := State.after_reg_raw s (m.answered r c phase pend (vec ++ writes)) hmem (Reg.ringStatus r)
  refine ⟨congrArg Ring.cmd ((hring r).trans (if_pos rfl)),
    fun r' hr' => ((hring r').trans (if_neg hr'.symm)).trans (hrings r' hr'),
    (congrArg (bit · 12) hstatus).trans (Mach.answered_busy ..), vec, hirq, hvec, ?_⟩
  calc (vec ++ writes) ++ m.dev.out
    _ = vec ++ writes ++ made ++ s.dev.out := by rw [hout, List.append_assoc _ made]
    _ = _ := by rw [hstatus, Mach.answered_phase, ← hw]; rfl

/-- A command that is turned away as it is fetched is answered, and nothing else goes out. -/
theorem State.replied_refuse_fetchedCmd (s : State) {r : Nat} (c : Cmd) (hb : s.view.busMaster = true)
    (status detail : Nat) :
    s.Replied (s.after ((s.view.fetchedCmd r c).refuse r status detail)) r c [] status detail 0 :=
  State.replied_reply_after (made := []) (s.view.fetchedCmd_mem r c)
    (s.view.fetchedCmd_raw_of_ne r c (Reg.ringStatus_ne_ringRplBase r))
    (s.view.fetchedCmd_raw_of_ne r c (Reg.ringStatus_ne_ringCtrl r)) (fun _ => s.view.fetchedCmd_ring_of_ne r c)
    (s.view.fetchedCmd_out r c) (s.view.fetchedCmd_cmd r c) ((s.view.fetchedCmd_busMaster r c).trans hb) status detail 0

/-- A reply of OK after one write of host memory is a reply. -/
theorem State.replied_accept_hostWrite {s : State} {r : Nat} {c : Cmd} (hc : (s.view.ring r).cmd = some c)
    (hb : s.view.busMaster = true) (a : Nat) (d : Bytes) (value : Nat) :
    s.Replied (s.after ((s.view.hostWrite a d).accept r value)) r c [.hostWrite a d] scOk 0 value :=
  State.replied_reply_after (m := s.view.hostWrite a d) (made := [.hostWrite a d]) rfl rfl rfl (fun _ _ => rfl) rfl
    hc hb scOk 0 value

/-! ### IDENTIFY (R350, Table 13.8) -/

@[simp] theorem length_toLe (n x : Nat) : (toLe n x).length = n := by
  induction n generalizing x with
  | zero => rfl
  | succ n ih => exact congrArg (· + 1) (ih _)

@[simp] theorem length_zeros (n : Nat) : (zeros n).length = n := List.length_replicate

@[simp] theorem length_padTo (n : Nat) (b : Bytes) : (padTo n b).length = n := by
  simp only [padTo, List.length_take, List.length_append, length_zeros]
  omega

theorem Mach.length_identifyRecord (m : Mach) : m.identifyRecord.length = 128 := by
  simp [Mach.identifyRecord]

/-- Byte 2 of the record is BOOT: whether firmware runs. -/
theorem Mach.identifyRecord_boot (m : Mach) : leNat m.identifyRecord 2 1 = b2n m.dev.boot.fw := by
  cases h : m.dev.boot.fw <;> simp [Mach.identifyRecord, toLe, leNat, h, b2n]

/-- An IDENTIFY that its ring serves writes its record and answers with the stations and the stepping. -/
theorem effIdentify_served {m : Mach} {r : Nat} {c : Cmd} (hc : (m.ring r).cmd = some c) (hop : c.opcode = 2)
    (hbegun : c.begun = false) (hturn : m.waitsTurn r c = false) (hgate : m.gate 2 = none) (hbus : m.busMaster = true)
    (halign : c.p 0 % 8 = 0) : effIdentify r m =
      (m.hostWrite (c.p 0) m.identifyRecord).accept r (m.stations + 256 * m.dev.chip.stepping) := by
  rw [effIdentify, Mach.hostCommand, if_neg (ne_false_of_eq_true hbus), Mach.command_served _ hc hop hbegun hturn hgate]
  exact if_neg (not_not_intro halign)

/-! ### What the boot ROM takes (R405) -/

theorem wellFormed_commandFetch {r : Nat} {p : HostData} (hr : r < 16) (hp : ∀ b, p = some b → b.length = 64) :
    (Instr.commandFetch r p).wellFormed = true := by
  cases p with
  | none => simp [Instr.wellFormed, hr]
  | some b => simp [Instr.wellFormed, hr, hp b rfl]

/-- Settles O14: until firmware runs only ring 0 has its turn, and the gate of a fetched command passes IDENTIFY and
LOAD_FIRMWARE alone. -/
theorem bootRomCommands : Obligations.BootRomCommands := by
  unfold Obligations.BootRomCommands
  refine ⟨?_, ?_, ?_, fun s hfw hok => Mach.gate_eq_none_of_bootRom hfw hok (.inr rfl)⟩
  · intro s r p hready hfw hr hr0 hp
    have hturn : s.view.ringTurn ≠ some r := fun h => hr0 (Mach.eq_zero_of_ringTurn hfw h)
    calc exec (.commandFetch r p) s
      _ = .next (s.after (effCommandFetch r p s.view)) := act_run _ hready (wellFormed_commandFetch hr hp)
      _ = .next s := by rw [effCommandFetch_of_ringTurn_ne hturn, State.after_view]
  · intro s b hready hfw hb hturn hbus c
    have hform : (Instr.commandFetch 0 (some b)).wellFormed = true :=
      wellFormed_commandFetch (by decide) fun b' h => Option.some.inj h ▸ hb
    have hfw' : (s.view.fetchedCmd 0 c).dev.boot.fw = false := (s.view.fetchedCmd_fw 0 c).trans hfw
    refine ⟨fun hid hload => exec_run (fun _ => rfl) hready hform ?_,
      fun hop hok hlen hstep hres => exec_run (fun _ => rfl) hready hform ?_⟩
    · have hgate : (s.view.fetchedCmd 0 c).gate c.opcode = some scNotReady := Mach.gate_eq_notReady hfw' hid hload
      rw [effCommandFetch_gated hturn hbus hgate]
      exact s.replied_refuse_fetchedCmd c hbus scNotReady 0
    · have hgate : (s.view.fetchedCmd 0 c).gate c.opcode = none :=
        Mach.gate_eq_none_of_bootRom hfw' ((s.view.fetchedCmd_bootFailed c).trans hok) hop
      have hknown : opcodes.contains c.opcode = true := by rcases hop with h | h <;> rw [h] <;> rfl
      rw [effCommandFetch_accepted hturn hbus hgate hlen hstep hknown hres]
      exact ⟨s.view.fetchedCmd_cmd 0 c, s.view.fetchedCmd_out 0 c⟩
  · intro s c hready hfw hserves halign
    obtain ⟨hc, hop, hbegun, hturn, hgate, hbus⟩ := hserves
    refine ⟨_, s.view.identifyRecord, act_run (effIdentify 0) hready rfl, ?_, s.view.length_identifyRecord, ?_⟩
    · rw [Mach.identifyRecord_boot, State.view_dev, hfw]
      rfl
    · rw [effIdentify_served hc hop hbegun hturn hgate hbus halign]
      exact State.replied_accept_hostWrite hc hbus _ _ _

end Sys2Proof.Machine
end

section
/-! Proofs about the power limit (R432 to R434): the host's write of CO_PWR_CAP, the timetables that pass check 4 under a
limit, and a wake that waits for it. -/

namespace Sys2Proof.Machine
open Sys2Proof

/-! ### A write of CO_PWR_CAP (R434) -/

/-- The power that the table in force and the pending one were admitted for: CO_PWR_CAP takes no limit below it. -/
def Mach.powerGranted (m : Mach) : Nat :=
  max (bits (m.raw Reg.pwrAdmit) 11 0) ((m.dev.tt.pending.map (·.power)).getD 0)

theorem Mach.lt_powerGranted_iff (m : Mach) (w : Nat) :
    w < m.powerGranted ↔ w < bits (m.raw Reg.pwrAdmit) 11 0 ∨ w < (m.dev.tt.pending.map (·.power)).getD 0 := by
  rw [Mach.powerGranted]
  omega

theorem effCoPwrCapWrite_eq {m : Mach} (ho : m.bar0Open Reg.pwrCap = true) (v : W32) :
    effCoPwrCapWrite v m =
      if v.toNat % 4096 < 400 ∨ 2400 < v.toNat % 4096 ∨ v.toNat % 4096 < m.powerGranted then m.setBit Reg.pwrStatus 12
      else m.setRaw Reg.pwrCap (v.toNat % 4096) := by
  simp only [effCoPwrCapWrite, ho, Bool.true_eq_false, if_false, Mach.lt_powerGranted_iff]

theorem effCoPwrCapWrite_discarded {m : Mach} (ho : m.bar0Open Reg.pwrCap = true) {v : W32}
    (h : v.toNat % 4096 < 400 ∨ 2400 < v.toNat % 4096 ∨ v.toNat % 4096 < m.powerGranted) :
    effCoPwrCapWrite v m = m.setBit Reg.pwrStatus 12 :=
  (effCoPwrCapWrite_eq ho v).trans (if_pos h)

theorem effCoPwrCapWrite_taken {m : Mach} (ho : m.bar0Open Reg.pwrCap = true) {v : W32} (hlo : 400 ≤ v.toNat % 4096)
    (hhi : v.toNat % 4096 ≤ 2400) (hgranted : m.powerGranted ≤ v.toNat % 4096) :
    effCoPwrCapWrite v m = m.setRaw Reg.pwrCap (v.toNat % 4096) :=
  (effCoPwrCapWrite_eq ho v).trans (if_neg (by omega))

/-! ### Check 4 of a timetable (R432) -/

/-- P(e) reads nothing of a table but its entries. -/
theorem Mach.entryPower_congr (m : Mach) {t t' : Table} (h : t.entries = t'.entries) (e : Nat) :
    m.entryPower t e = m.entryPower t' e := by
  cases t
  cases t'
  cases h
  rfl

/-- No entry of a table that passed the checks needs more power than the limit. -/
theorem Mach.entryPower_le_of_checkTable {m : Mach} {b : Bytes} {n : Nat} {x : Table} (h : m.checkTable b n = .ok x)
    {e : Nat} (he : e < x.entries.length) : m.entryPower x e ≤ bits (m.raw Reg.pwrCap) 11 0 := by
  simp only [Mach.checkTable] at h
  -- Of the six answers all but the last are refusals.
  split at h
  · cases h
  split at h
  · cases h
  split at h
  · cases h
  split at h
  · cases h
  split at h
  · cases h
  next hnone =>
    cases h
    have hentry : e ∈ List.range (leNat b 0 4) :=
      List.mem_range.mpr (by simpa only [List.length_map, List.length_range] using he)
    have hfits : ¬ bits (m.raw Reg.pwrCap) 11 0 < m.entryPower _ e := fun hlt =>
      List.find?_eq_none.mp hnone e hentry (decide_eq_true hlt)
    exact Nat.le_trans (Nat.le_of_eq (m.entryPower_congr rfl e)) (Nat.not_lt.mp hfits)

/-! ### A wake that does not fit (R433) -/

/-- A station that needs a higher state waits while the limit is below the admitted power with the station RUNNING. -/
theorem effStationWake_of_cap_lt {m : Mach} {st : Nat} (hdue : (m.stn st).pwrDue = none) (hon : m.pwr st ≠ 0)
    (hgoal : m.pwr st < m.pwrGoal st) (hcap : bits (m.raw Reg.pwrCap) 11 0 < m.pwrAdmitted (some st)) :
    effStationWake st m = m.setWait st true := by
  have hwakes : ¬ ((m.stn st).pwrDue.isSome ∨ m.pwr st = 0 ∨ m.pwrGoal st ≤ m.pwr st) := by
    simp only [hdue, Option.isSome_none, Bool.false_eq_true, false_or, not_or]
    exact ⟨hon, Nat.not_le.mpr hgoal⟩
  rw [effStationWake, if_neg hwakes, if_pos (.inl hcap)]

/-- ADMIT_WAIT is the one field that a wait shows or clears. -/
theorem Mach.raw_setWait (m : Mach) (st : Nat) (w : Bool) :
    (m.setWait st w).raw (Reg.stPwrStatus st) = setBits (m.raw (Reg.stPwrStatus st)) 4 4 (b2n w) :=
  (Mach.raw_congr (m.setField (Reg.stPwrStatus st) 4 4 (b2n w)) _ rfl rfl _).trans
    ((m.raw_setField _ 4 4 _ _ (by decide)).trans (if_pos rfl))

theorem Mach.admitWait_setWait (m : Mach) (st : Nat) (w : Bool) :
    bit ((m.setWait st w).raw (Reg.stPwrStatus st)) 4 = w := by
  rw [Mach.raw_setWait, bit_setBits]
  cases w <;> rfl

@[simp] theorem Mach.pwr_setWait (m : Mach) (st : Nat) (w : Bool) : (m.setWait st w).pwr st = m.pwr st := by
  rw [Mach.pwr, Mach.raw_setWait, bits_setBits_other _ _ _ _ _ _ (by decide), Mach.pwr]

@[simp] theorem Mach.pwrTarget_setWait (m : Mach) (st : Nat) (w : Bool) :
    (m.setWait st w).pwrTarget st = m.pwrTarget st := by
  rw [Mach.pwrTarget, Mach.raw_setWait, bits_setBits_other _ _ _ _ _ _ (by decide), Mach.pwrTarget]

theorem State.reg_after_setWait (s : State) (st : Nat) (w : Bool) (o : Nat) :
    (s.after (s.view.setWait st w)).reg o = (s.view.setWait st w).raw o :=
  State.after_reg_raw s _ rfl o

theorem State.pwr_after_setWait (s : State) (st : Nat) (w : Bool) :
    (s.after (s.view.setWait st w)).view.pwr st = s.view.pwr st := by
  rw [Mach.pwr, State.view_raw, State.reg_after_setWait, ← Mach.pwr, Mach.pwr_setWait]

theorem State.pwrTarget_after_setWait (s : State) (st : Nat) (w : Bool) :
    (s.after (s.view.setWait st w)).view.pwrTarget st = s.view.pwrTarget st := by
  rw [Mach.pwrTarget, State.view_raw, State.reg_after_setWait, ← Mach.pwrTarget, Mach.pwrTarget_setWait]

/-- STATION_WAKE of a station whose wake does not fit shows ADMIT_WAIT, and the station's power state stays. -/
theorem stationWake_of_cap_lt {s : State} {st : Nat} (hready : s.Ready) (hst : st < 16)
    (hdue : (s.view.stn st).pwrDue = none) (hon : s.view.pwr st ≠ 0) (hgoal : s.view.pwr st < s.view.pwrGoal st)
    (hcap : bits (s.reg Reg.pwrCap) 11 0 < s.view.pwrAdmitted (some st)) :
    ∃ u, exec (.stationWake st) s = .next u ∧ bit (u.reg (Reg.stPwrStatus st)) 4 = true ∧
      u.view.pwr st = s.view.pwr st ∧ u.view.pwrTarget st = s.view.pwrTarget st := by
  refine exec_run (fun _ => rfl) hready (decide_eq_true hst) ?_
  rw [effStationWake_of_cap_lt hdue hon hgoal hcap, State.reg_after_setWait]
  exact ⟨Mach.admitWait_setWait _ st true, s.pwr_after_setWait st true, s.pwrTarget_after_setWait st true⟩

/-- Settles O9: the write is discarded or becomes the limit, and check 4 and the wakes read the limit that stands. -/
theorem powerCapWrite : Obligations.PowerCapWrite := by
  unfold Obligations.PowerCapWrite
  intro s v hready hopen w need
  refine ⟨fun hbad => exec_run (fun _ => rfl) hready rfl ?_, fun hlo hhi hneed => exec_run (fun _ => rfl) hready rfl ?_⟩
  · rw [effCoPwrCapWrite_discarded hopen hbad]
    exact ⟨rfl, s.regsBecome_setBit _ (by decide)⟩
  · rw [effCoPwrCapWrite_taken hopen hlo hhi hneed]
    have hbecome := s.regsBecome_setRaw Reg.pwrCap (show w < 2 ^ 64 by omega)
    have hcap : bits ((s.after (s.view.setRaw Reg.pwrCap w)).reg Reg.pwrCap) 11 0 = w := by
      rw [hbecome.2 _ (List.mem_singleton_self _)]
      simp only [bits]
      omega
    refine ⟨rfl, hbecome, fun b n x hx e he => ?_, fun st hst hdue hon hgoal hlt => ?_⟩
    · exact Nat.le_trans (Mach.entryPower_le_of_checkTable hx he) (Nat.le_of_eq hcap)
    · exact stationWake_of_cap_lt hready hst hdue hon hgoal (hcap.symm ▸ hlt)

end Sys2Proof.Machine
end
